-- ==== Sys2Proof/Word.lean ====
section
/-!
DEFINITION. Word.lean: the machine's words and their plainest arithmetic.
The widths are those of R84 (lane words, lanes, addresses) and R7 (bit 0 is the least significant).
-/

namespace Sys2Proof

/-- A byte of memory. -/
abbrev Byte := BitVec 8
/-- A lane word, a scalar register, an accumulator word (R84, R370). -/
abbrev Word := BitVec 32
/-- One bit per lane of a warp (R6). -/
abbrev Lanes := BitVec 96
/-- A virtual address, an address register (R84). -/
abbrev A80 := BitVec 80
/-- A 10-bit register field (R48). -/
abbrev RCode := BitVec 10

end Sys2Proof
end

