-- ==== Sys2Proof/Config.lean ====
section
/-!
DEFINITION. Config.lean: what an implementation fixes, and the free values: constants without a body,
so that nothing can be proved of the value they take (logs 9, 10, 11, 24, 27, 40).
-/

namespace Sys2Proof

/-- Which value within the stated accuracy a special function returns: an index for the function's
opcode, its format, the source bits, SCALE and CLAMP (R169; log 9). Free. -/
opaque Config.specialChoice : Nat → Nat → Nat → Nat → Nat → Nat

/-- Whether both signatures of a firmware image verify, and the image's security version (R311;
log 10), by the image's bytes. Free. -/
opaque Config.imageVerifies : List Byte → Bool

/-- The security version an image carries (R311; log 10). Free. -/
opaque Config.imageVersion : List Byte → Nat

/-- The fused minimum security version (R311; log 10). Free. -/
opaque Config.minVersion : Nat

/-- Whether an image boots and accepts the active complex's state table (R311; log 10). Free. -/
opaque Config.imageAccepts : List Byte → Bool

/-- The bytes of an attestation report for an image, a security version and a nonce (R312; log 10).
Free. -/
opaque Config.attestReport : Nat → Nat → BitVec 256 → List Byte

/-- A byte that a device on the bus answers a PCIe read or AtomicOp with: by the number of the bus read and
the bus address (R282, R346; log 11). Free. -/
opaque Config.busByte : Nat → Nat → Byte

/-- The parameters that bytes 8 to 63 of a host command hold, by the OPCODE, in the order of R316's table, with a flag as
0 or 1 (R316; log 27). Free. -/
opaque Config.commandParams : Nat → List Byte → List Nat

/-- The phase bit of a package's n-th completion (R316; log 27). Free. -/
opaque Config.completionPhase : Nat → Bool

/-- Bytes 4 to 15 of a package's n-th completion, by n and the cycle counts of the two firmware complexes at that
time, which the host reads through its commands (R316, R488; log 27). Free. -/
opaque Config.completionResult : Nat → Nat → Nat → Nat

/-- A byte of the command queue registers before any write to it, by its offset in BAR0 (R313; log 40). Free. -/
opaque Config.queueReg : Nat → Byte

/-- VERSION of the capability record of a type (R315; log 40). Free. -/
opaque Config.capVersion : Nat → Nat

/-- The word in which the capability list gives a part number (R315; log 40). Free. -/
opaque Config.partCode : String → Nat

/-- The offset of the command queue registers in BAR0 (R313, R315; log 40). Free. -/
opaque Config.queueOffset : Nat

/-- The version of a firmware image, as the capability list gives it (R315; log 40). Free. -/
opaque Config.firmwareVersion : Nat → Nat

/-- Which of the runs that write one byte in one instance gives its value: an index for the instance, the
member and the byte (R448; log 24). Free. -/
opaque Config.writeWinner : Nat → Nat → Nat → Nat

end Sys2Proof
end

