-- ==== Sys2Proof/Syntax.lean ====
section
/-!
DEFINITION. Syntax.lean: the instructions and events of the opcode table.
An instruction carries the fields of its operand format as the word holds them (R43, R50 to R59).
An event of the machine carries the names of the things it acts on.
-/

namespace Sys2Proof

/-- The common header, bits [95:72] without the opcode (R43). -/
structure Hdr where
  pred : BitVec 4
  pneg : BitVec 1
  feb : BitVec 3
  holdSrc : BitVec 2
  holdEnt : BitVec 2
  fmt : BitVec 4
deriving DecidableEq, Repr

/-- Format V, register form (R50). -/
structure FV where
  d : RCode
  a : RCode
  b : RCode
  c : RCode
  fn : BitVec 8
  na : BitVec 1
  aa : BitVec 1
  nb : BitVec 1
  ab : BitVec 1
  nc : BitVec 1
  ac : BitVec 1
  clamp : BitVec 2
  scale : BitVec 4
  reuse : BitVec 1
  rnd : BitVec 3
  low : BitVec 8
deriving DecidableEq, Repr

/-- Format I, immediate (R53). -/
structure FI where
  d : RCode
  a : RCode
  fn : BitVec 8
  na : BitVec 1
  aa : BitVec 1
  clamp : BitVec 2
  scale : BitVec 4
  rnd : BitVec 3
  low : BitVec 1
  imm : BitVec 32
deriving DecidableEq, Repr

/-- Format M, memory (R54). -/
structure FM where
  d : RCode
  a : RCode
  x : RCode
  fn : BitVec 4
  width : BitVec 3
  ish : BitVec 3
  ord : BitVec 3
  scope : BitVec 3
  cache : BitVec 2
  offset : BitVec 24
deriving DecidableEq, Repr

/-- Format X, engine (R55). -/
structure FX where
  e0 : RCode
  e1 : RCode
  e2 : RCode
  e3 : RCode
  ctl : BitVec 32
deriving DecidableEq, Repr

/-- Format C, direct control (R56). -/
structure FC where
  tline : BitVec 32
  tslot : BitVec 3
  rline : BitVec 27
  rslot : BitVec 3
  tag : BitVec 7
deriving DecidableEq, Repr

/-- Format CX, indirect control (R57). -/
structure FCX where
  a : RCode
  tag : BitVec 7
  rline : BitVec 27
  rslot : BitVec 3
  low : BitVec 25
deriving DecidableEq, Repr

/-- Format P, the REP prefix (R58). -/
structure FP where
  count : BitVec 4
  sd : BitVec 1
  sa : BitVec 1
  sb : BitVec 1
  sc : BitVec 1
  stepD : BitVec 4
  stepA : BitVec 4
  stepB : BitVec 4
  stepC : BitVec 4
  low : BitVec 48
deriving DecidableEq, Repr

/-- Format W, the WSET working-set header (R59). -/
structure FW where
  base0 : RCode
  len0 : BitVec 4
  base1 : RCode
  len1 : BitVec 4
  base2 : RCode
  len2 : BitVec 4
  base3 : RCode
  len3 : BitVec 4
  base4 : RCode
  len4 : BitVec 4
  low : BitVec 2
deriving DecidableEq, Repr

/-- A clock whose cycles are counted (R488). -/
inductive Clock where
  | core (g : Nat)
  | mesh (pkg : Nat) (die : Nat)
  | link (pkg : Nat) (die : Nat)
  | complex (pkg : Nat) (c : Nat)
deriving DecidableEq, Repr

/-- What a page-fault service of firmware is for (R220, R412, R443, R506). -/
inductive FaultOwner where
  | warp
  | copyCommand
  | collective
  | frontEnd
deriving DecidableEq, Repr

/-- One constructor for each row of the opcode table. -/
inductive Instr where
  /-- NOP, opcode 0x00, format X (R254). -/
  | nop (h : Hdr) (bits : BitVec 72)
  /-- PAD, opcode 0x01, format C (R254). -/
  | pad (h : Hdr) (f : FC)
  /-- BRA, opcode 0x02, format C (R255). -/
  | bra (h : Hdr) (f : FC)
  /-- BRX, opcode 0x03, format CX (R256). -/
  | brx (h : Hdr) (f : FCX)
  /-- CALL, opcode 0x04, format C (R255). -/
  | call (h : Hdr) (f : FC)
  /-- CALLX, opcode 0x05, format CX (R256). -/
  | callx (h : Hdr) (f : FCX)
  /-- RET, opcode 0x06, format CX (R256). -/
  | ret (h : Hdr) (f : FCX)
  /-- EXIT, opcode 0x07, format X (R258). -/
  | exit (h : Hdr) (f : FX)
  /-- JOIN, opcode 0x08, format C (R257). -/
  | join (h : Hdr) (f : FC)
  /-- YIELD, opcode 0x09, format X (R259). -/
  | yield (h : Hdr) (f : FX)
  /-- PLANE, opcode 0x0A, format X (R260). -/
  | plane (h : Hdr) (f : FX)
  /-- REGROUP, opcode 0x0B, format X (R264). -/
  | regroup (h : Hdr) (f : FX)
  /-- IPREF, opcode 0x0C, format C (R261). -/
  | ipref (h : Hdr) (f : FC)
  /-- WSET, opcode 0x0D, format W (R91). -/
  | wset (h : Hdr) (f : FW)
  /-- REP, opcode 0x0E, format P (R263). -/
  | rep (h : Hdr) (f : FP)
  /-- TRAP, opcode 0x0F, format X (R213). -/
  | trap (h : Hdr) (f : FX)
  /-- ERET, opcode 0x10, format X (R215). -/
  | eret (h : Hdr) (f : FX)
  /-- BRK, opcode 0x11, format X (R213). -/
  | brk (h : Hdr) (f : FX)
  /-- SYSC, opcode 0x12, format X (R214). -/
  | sysc (h : Hdr) (f : FX)
  /-- KSAVE, opcode 0x13, format X (R216). -/
  | ksave (h : Hdr) (f : FX)
  /-- KLOAD, opcode 0x14, format X (R216). -/
  | kload (h : Hdr) (f : FX)
  /-- SMOV, opcode 0x20, format V (R182). -/
  | smov (h : Hdr) (f : FV)
  /-- SMOVI, opcode 0x21, format I (R182). -/
  | smovi (h : Hdr) (f : FI)
  /-- SADD, opcode 0x22, format V (R182). -/
  | sadd (h : Hdr) (f : FV)
  /-- SSUB, opcode 0x23, format V (R182). -/
  | ssub (h : Hdr) (f : FV)
  /-- SMUL, opcode 0x24, format V (R182). -/
  | smul (h : Hdr) (f : FV)
  /-- SMULH, opcode 0x25, format V (R182). -/
  | smulh (h : Hdr) (f : FV)
  /-- SAND, opcode 0x26, format V (R182). -/
  | sand (h : Hdr) (f : FV)
  /-- SOR, opcode 0x27, format V (R182). -/
  | sor (h : Hdr) (f : FV)
  /-- SXOR, opcode 0x28, format V (R182). -/
  | sxor (h : Hdr) (f : FV)
  /-- SSHL, opcode 0x29, format V (R182). -/
  | sshl (h : Hdr) (f : FV)
  /-- SSHR, opcode 0x2A, format V (R182). -/
  | sshr (h : Hdr) (f : FV)
  /-- SSAR, opcode 0x2B, format V (R182). -/
  | ssar (h : Hdr) (f : FV)
  /-- SMIN, opcode 0x2C, format V (R182). -/
  | smin (h : Hdr) (f : FV)
  /-- SMAX, opcode 0x2D, format V (R182). -/
  | smax (h : Hdr) (f : FV)
  /-- SCMP, opcode 0x2E, format V (R182). -/
  | scmp (h : Hdr) (f : FV)
  /-- SSEL, opcode 0x2F, format V (R182). -/
  | ssel (h : Hdr) (f : FV)
  /-- SPOPC, opcode 0x30, format V (R182). -/
  | spopc (h : Hdr) (f : FV)
  /-- SCLZ, opcode 0x31, format V (R182). -/
  | sclz (h : Hdr) (f : FV)
  /-- ALEA, opcode 0x32, format M (R186). -/
  | alea (h : Hdr) (f : FM)
  /-- AMOV, opcode 0x33, format V (R186). -/
  | amov (h : Hdr) (f : FV)
  /-- AMOVI, opcode 0x34, format I (R186). -/
  | amovi (h : Hdr) (f : FI)
  /-- AHI, opcode 0x35, format I (R186). -/
  | ahi (h : Hdr) (f : FI)
  /-- SLD, opcode 0x36, format M (R338). -/
  | sld (h : Hdr) (f : FM)
  /-- SST, opcode 0x37, format M (R340). -/
  | sst (h : Hdr) (f : FM)
  /-- SATOM, opcode 0x38, format M (R344). -/
  | satom (h : Hdr) (f : FM)
  /-- SRD, opcode 0x39, format X (R187). -/
  | srd (h : Hdr) (f : FX)
  /-- SWR, opcode 0x3A, format X (R187). -/
  | swr (h : Hdr) (f : FX)
  /-- PMOV, opcode 0x3B, format V (R184). -/
  | pmov (h : Hdr) (f : FV)
  /-- PLOG, opcode 0x3C, format V (R183). -/
  | plog (h : Hdr) (f : FV)
  /-- VMOV, opcode 0x40, format V (R145). -/
  | vmov (h : Hdr) (f : FV)
  /-- VMOVI, opcode 0x41, format I (R145). -/
  | vmovi (h : Hdr) (f : FI)
  /-- VTAG, opcode 0x42, format V (R145). -/
  | vtag (h : Hdr) (f : FV)
  /-- VADD, opcode 0x43, format V (R143). -/
  | vadd (h : Hdr) (f : FV)
  /-- VSUB, opcode 0x44, format V (R143). -/
  | vsub (h : Hdr) (f : FV)
  /-- VMUL, opcode 0x45, format V (R143). -/
  | vmul (h : Hdr) (f : FV)
  /-- VMULH, opcode 0x46, format V (R144). -/
  | vmulh (h : Hdr) (f : FV)
  /-- VMAD, opcode 0x47, format V (R143). -/
  | vmad (h : Hdr) (f : FV)
  /-- VABSD, opcode 0x48, format V (R143). -/
  | vabsd (h : Hdr) (f : FV)
  /-- VMIN, opcode 0x49, format V (R143). -/
  | vmin (h : Hdr) (f : FV)
  /-- VMAX, opcode 0x4A, format V (R143). -/
  | vmax (h : Hdr) (f : FV)
  /-- VAND, opcode 0x4B, format V (R146). -/
  | vand (h : Hdr) (f : FV)
  /-- VOR, opcode 0x4C, format V (R146). -/
  | vor (h : Hdr) (f : FV)
  /-- VXOR, opcode 0x4D, format V (R146). -/
  | vxor (h : Hdr) (f : FV)
  /-- VBOOL, opcode 0x4E, format V (R146). -/
  | vbool (h : Hdr) (f : FV)
  /-- VSHL, opcode 0x4F, format V (R149). -/
  | vshl (h : Hdr) (f : FV)
  /-- VSHR, opcode 0x50, format V (R149). -/
  | vshr (h : Hdr) (f : FV)
  /-- VSAR, opcode 0x51, format V (R149). -/
  | vsar (h : Hdr) (f : FV)
  /-- VPOPC, opcode 0x52, format V (R147). -/
  | vpopc (h : Hdr) (f : FV)
  /-- VCLZ, opcode 0x53, format V (R147). -/
  | vclz (h : Hdr) (f : FV)
  /-- VBREV, opcode 0x54, format V (R147). -/
  | vbrev (h : Hdr) (f : FV)
  /-- VBFX, opcode 0x55, format V (R148). -/
  | vbfx (h : Hdr) (f : FV)
  /-- VBFI, opcode 0x56, format V (R148). -/
  | vbfi (h : Hdr) (f : FV)
  /-- VCMP_REG, opcode 0x57, format V (R150). -/
  | vcmpReg (h : Hdr) (f : FV)
  /-- VCMP_IMM, opcode 0x5F, format I (R150). -/
  | vcmpImm (h : Hdr) (f : FI)
  /-- VSEL, opcode 0x58, format V (R151). -/
  | vsel (h : Hdr) (f : FV)
  /-- VLANE, opcode 0x59, format V (R152). -/
  | vlane (h : Hdr) (f : FV)
  /-- VPERM, opcode 0x5A, format V (R153). -/
  | vperm (h : Hdr) (f : FV)
  /-- QXCH, opcode 0x5B, format V (R154). -/
  | qxch (h : Hdr) (f : FV)
  /-- VRED, opcode 0x5C, format V (R155). -/
  | vred (h : Hdr) (f : FV)
  /-- VSCAN, opcode 0x5D, format V (R156). -/
  | vscan (h : Hdr) (f : FV)
  /-- VVOTE, opcode 0x5E, format V (R157). -/
  | vvote (h : Hdr) (f : FV)
  /-- FADD, opcode 0x60, format V (R162). -/
  | fadd (h : Hdr) (f : FV)
  /-- FSUB, opcode 0x61, format V (R162). -/
  | fsub (h : Hdr) (f : FV)
  /-- FMUL, opcode 0x62, format V (R162). -/
  | fmul (h : Hdr) (f : FV)
  /-- FFMA, opcode 0x63, format V (R162). -/
  | ffma (h : Hdr) (f : FV)
  /-- FMIN, opcode 0x64, format V (R164). -/
  | fmin (h : Hdr) (f : FV)
  /-- FMAX, opcode 0x65, format V (R164). -/
  | fmax (h : Hdr) (f : FV)
  /-- FCMP, opcode 0x66, format V (R165). -/
  | fcmp (h : Hdr) (f : FV)
  /-- FCLASS, opcode 0x67, format V (R166). -/
  | fclass (h : Hdr) (f : FV)
  /-- FRCP, opcode 0x68, format V (R169). -/
  | frcp (h : Hdr) (f : FV)
  /-- FRSQ, opcode 0x69, format V (R169). -/
  | frsq (h : Hdr) (f : FV)
  /-- FSQRT, opcode 0x6A, format V (R169). -/
  | fsqrt (h : Hdr) (f : FV)
  /-- FEXP2, opcode 0x6B, format V (R169). -/
  | fexp2 (h : Hdr) (f : FV)
  /-- FLOG2, opcode 0x6C, format V (R169). -/
  | flog2 (h : Hdr) (f : FV)
  /-- FSIN, opcode 0x6D, format V (R169). -/
  | fsin (h : Hdr) (f : FV)
  /-- FCOS, opcode 0x6E, format V (R169). -/
  | fcos (h : Hdr) (f : FV)
  /-- FRND, opcode 0x6F, format V (R167). -/
  | frnd (h : Hdr) (f : FV)
  /-- FDOT2, opcode 0x70, format V (R168). -/
  | fdot2 (h : Hdr) (f : FV)
  /-- VCVT, opcode 0x71, format V (R174). -/
  | vcvt (h : Hdr) (f : FV)
  /-- VPACK, opcode 0x72, format V (R175). -/
  | vpack (h : Hdr) (f : FV)
  /-- VUNPK, opcode 0x73, format V (R176). -/
  | vunpk (h : Hdr) (f : FV)
  /-- XDEC, opcode 0x74, format X (R199). -/
  | xdec (h : Hdr) (f : FX)
  /-- XSCAN, opcode 0x75, format X (R202). -/
  | xscan (h : Hdr) (f : FX)
  /-- XSORT, opcode 0x76, format X (R204). -/
  | xsort (h : Hdr) (f : FX)
  /-- XTOPK, opcode 0x77, format X (R205). -/
  | xtopk (h : Hdr) (f : FX)
  /-- XPLANE, opcode 0x78, format X (R206). -/
  | xplane (h : Hdr) (f : FX)
  /-- VLD, opcode 0x80, format M (R338). -/
  | vld (h : Hdr) (f : FM)
  /-- VST, opcode 0x81, format M (R340). -/
  | vst (h : Hdr) (f : FM)
  /-- VLDF, opcode 0x82, format M (R338). -/
  | vldf (h : Hdr) (f : FM)
  /-- VSTF, opcode 0x83, format M (R340). -/
  | vstf (h : Hdr) (f : FM)
  /-- VATOM, opcode 0x84, format M (R344). -/
  | vatom (h : Hdr) (f : FM)
  /-- VLDSH, opcode 0x85, format M (R338). -/
  | vldsh (h : Hdr) (f : FM)
  /-- VSTSH, opcode 0x86, format M (R340). -/
  | vstsh (h : Hdr) (f : FM)
  /-- VATOMSH, opcode 0x87, format M (R344). -/
  | vatomsh (h : Hdr) (f : FM)
  /-- LDACC, opcode 0x88, format M (R375). -/
  | ldacc (h : Hdr) (f : FM)
  /-- STACC, opcode 0x89, format M (R375). -/
  | stacc (h : Hdr) (f : FM)
  /-- VPREF, opcode 0x8A, format M (R352). -/
  | vpref (h : Hdr) (f : FM)
  /-- CLRED, opcode 0x8B, format X (R450). -/
  | clred (h : Hdr) (f : FX)
  /-- CLPUT, opcode 0x8C, format X (R448). -/
  | clput (h : Hdr) (f : FX)
  /-- CLGET, opcode 0x8D, format X (R449). -/
  | clget (h : Hdr) (f : FX)
  /-- MMA, opcode 0xA0, format V (R387). -/
  | mma (h : Hdr) (f : FV)
  /-- MMAP, opcode 0xA1, format V (R387). -/
  | mmap (h : Hdr) (f : FV)
  /-- MLDA, opcode 0xA2, format X (R390). -/
  | mlda (h : Hdr) (f : FX)
  /-- MZERO, opcode 0xA3, format X (R391). -/
  | mzero (h : Hdr) (f : FX)
  /-- MGANG, opcode 0xA4, format X (R377). -/
  | mgang (h : Hdr) (f : FX)
  /-- MBATCH, opcode 0xA5, format X (R394). -/
  | mbatch (h : Hdr) (f : FX)
  /-- MWAIT, opcode 0xA6, format X (R395). -/
  | mwait (h : Hdr) (f : FX)
  /-- MCOLM, opcode 0xA7, format X (R385). -/
  | mcolm (h : Hdr) (f : FX)
  /-- TCOPY, opcode 0xC0, format X (R407). -/
  | tcopy (h : Hdr) (f : FX)
  /-- TSTORE, opcode 0xC1, format X (R410). -/
  | tstore (h : Hdr) (f : FX)
  /-- TGATHER, opcode 0xC2, format X (R408). -/
  | tgather (h : Hdr) (f : FX)
  /-- TMCAST, opcode 0xC3, format X (R409). -/
  | tmcast (h : Hdr) (f : FX)
  /-- TPREF, opcode 0xC4, format X (R411). -/
  | tpref (h : Hdr) (f : FX)
  /-- REPART, opcode 0xC5, format X (R462). -/
  | repart (h : Hdr) (f : FX)
  /-- VEER, opcode 0xC6, format X (R433). -/
  | veer (h : Hdr) (f : FX)
  /-- FENCE, opcode 0xE0, format M (R353). -/
  | fence (h : Hdr) (f : FM)
  /-- TALLOC, opcode 0xE1, format X (R274). -/
  | talloc (h : Hdr) (f : FX)
  /-- TFREE, opcode 0xE2, format X (R275). -/
  | tfree (h : Hdr) (f : FX)
  /-- TREL, opcode 0xE3, format X (R276). -/
  | trel (h : Hdr) (f : FX)
  /-- TSTAT, opcode 0xE4, format X (R277). -/
  | tstat (h : Hdr) (f : FX)
  /-- HQPUSH, opcode 0xE5, format X (R418). -/
  | hqpush (h : Hdr) (f : FX)
  /-- HQPOP, opcode 0xE6, format X (R419). -/
  | hqpop (h : Hdr) (f : FX)
  /-- HQTRY, opcode 0xE7, format X (R420). -/
  | hqtry (h : Hdr) (f : FX)
  /-- CSEND, opcode 0xE8, format X (R425). -/
  | csend (h : Hdr) (f : FX)
  /-- CRECV, opcode 0xE9, format X (R426). -/
  | crecv (h : Hdr) (f : FX)
  /-- CPOLL, opcode 0xEA, format X (R427). -/
  | cpoll (h : Hdr) (f : FX)
  /-- BINIT, opcode 0xEB, format X (R473). -/
  | binit (h : Hdr) (f : FX)
  /-- BARV, opcode 0xEC, format X (R474). -/
  | barv (h : Hdr) (f : FX)
  /-- BWAIT, opcode 0xED, format X (R475). -/
  | bwait (h : Hdr) (f : FX)
  /-- BSYNC, opcode 0xEE, format X (R476). -/
  | bsync (h : Hdr) (f : FX)
  /-- BEXP, opcode 0xEF, format X (R477). -/
  | bexp (h : Hdr) (f : FX)
  /-- LONG_LATENCY_WRITEBACK (R104). -/
  | longLatencyWriteback (warp : Nat) (i : Nat)
  /-- TRANSFORM_SERVICE_START (R195). -/
  | transformServiceStart (core : Nat)
  /-- TRANSFORM_REPLY (R194). -/
  | transformReply (core : Nat)
  /-- MATRIX_COMMAND_START (R393). -/
  | matrixCommandStart (core : Nat)
  /-- MATRIX_COMMAND_COMPLETE (R392). -/
  | matrixCommandComplete (core : Nat)
  /-- COPY_ROW_WRITE (R407). -/
  | copyRowWrite (core : Nat) (i : Nat)
  /-- COPY_COMMAND_COMPLETE (R406). -/
  | copyCommandComplete (core : Nat) (i : Nat)
  /-- MULTICAST_DELIVERY (R279). -/
  | multicastDelivery (pkg : Nat) (i : Nat)
  /-- READER_FINISH (R271). -/
  | readerFinish (core : Nat) (i : Nat)
  /-- CHANNEL_DELIVERY (R425). -/
  | channelDelivery (pkg : Nat) (i : Nat)
  /-- CHANNEL_CREDIT_RETURN (R426). -/
  | channelCreditReturn (pkg : Nat) (i : Nat)
  /-- TEAM_RETIRE (R34). -/
  | teamRetire (team : Nat)
  /-- TEAM_END (R228). -/
  | teamEnd (launch : Nat)
  /-- COMBINER_TEAM_ARRIVAL (R468). -/
  | combinerTeamArrival (launch : Nat) (i : Nat)
  /-- COMBINER_RELEASE (R467). -/
  | combinerRelease (launch : Nat) (i : Nat)
  /-- COLLECTIVE_PACKET (R454). -/
  | collectivePacket (inst : Nat) (member : Nat) (chunk : Nat)
  /-- COLLECTIVE_DEADLINE_EXPIRY (R455). -/
  | collectiveDeadlineExpiry (inst : Nat) (member : Nat) (chunk : Nat)
  /-- COLLECTIVE_RERUN (R455). -/
  | collectiveRerun (inst : Nat) (chunk : Nat)
  /-- MEMBER_LOST (R456). -/
  | memberLost (inst : Nat) (member : Nat) (chunk : Nat)
  /-- COLLECTIVE_INSTANCE_COMPLETE (R443). -/
  | collectiveInstanceComplete (inst : Nat) (member : Nat)
  /-- FABRIC_TARGET_REQUEST (R436). -/
  | fabricTargetRequest (pkg : Nat) (i : Nat)
  /-- FABRIC_REQUEST_TIMEOUT (R438). -/
  | fabricRequestTimeout (pkg : Nat) (i : Nat)
  /-- BAR2_REQUEST (R490). -/
  | bar2Request (pkg : Nat) (write : Bool) (offset : Nat) (data : List Byte)
  /-- PCIE_LINK_DOWN (R4). -/
  | pcieLinkDown (pkg : Nat) (die : Nat)
  /-- PROMOTION_REQUEST (R366). -/
  | promotionRequest (pkg : Nat) (slice : Nat) (line : Nat)
  /-- WALK_START (R286). -/
  | walkStart (pkg : Nat) (i : Nat)
  /-- WALK_COMPLETE (R286). -/
  | walkComplete (pkg : Nat) (i : Nat)
  /-- PAGE_FAULT_SERVICE_REPLY (R220). -/
  | pageFaultServiceReply (kind : FaultOwner) (id : Nat) (i : Nat)
  /-- ICACHE_LINE_ARRIVAL (R248). -/
  | icacheLineArrival (warp : Nat) (i : Nat)
  /-- STAGING_COMPLETE (R94). -/
  | stagingComplete (warp : Nat)
  /-- READY_AGE_EXPIRY (R246). -/
  | readyAgeExpiry (warp : Nat) (entry : Nat)
  /-- YIELD_TIMEOUT (R259). -/
  | yieldTimeout (warp : Nat) (entry : Nat)
  /-- REGISTER_SCRUB (R88). -/
  | registerScrub (core : Nat) (sched : Nat)
  /-- ACCUM_SCRUB (R370). -/
  | accumScrub (core : Nat)
  /-- UNCORRECTABLE_STATE_ERROR (R218). -/
  | uncorrectableStateError (team : Nat) (die : Nat)
  /-- RESIDENCY_SWEEP (R294). -/
  | residencySweep (pkg : Nat) (die : Nat)
  /-- TURNAROUND_START (R431). -/
  | turnaroundStart (pkg : Nat)
  /-- MODULE_DRAINED (R431). -/
  | moduleDrained (pkg : Nat) (module : Nat)
  /-- MODULE_DEAD_TIME_EXPIRY (R431). -/
  | moduleDeadTimeExpiry (pkg : Nat) (module : Nat)
  /-- STARVATION_GUARD (R432). -/
  | starvationGuard (pkg : Nat) (toward : Nat)
  /-- DOORBELL_START (R296). -/
  | doorbellStart (pkg : Nat) (ring : Nat) (value : BitVec 64)
  /-- DOORBELL_REFETCH (R296). -/
  | doorbellRefetch (pkg : Nat) (ring : Nat) (value : BitVec 64)
  /-- RECORD_PREFETCH (R300). -/
  | recordPrefetch (pkg : Nat) (ring : Nat) (slot : Nat)
  /-- RECORD_REREAD (R299). -/
  | recordReread (pkg : Nat) (ring : Nat) (slot : Nat)
  /-- NOP_NODE (R302). -/
  | nopNode (pkg : Nat) (ring : Nat) (slot : Nat)
  /-- KERNEL_NODE (R307). -/
  | kernelNode (pkg : Nat) (ring : Nat) (slot : Nat)
  /-- LAUNCH_RETRY (R24). -/
  | launchRetry (pkg : Nat) (ring : Nat) (slot : Nat)
  /-- LAUNCH_WAIT_EXPIRY (R306). -/
  | launchWaitExpiry (pkg : Nat) (ring : Nat) (slot : Nat)
  /-- COPY_NODE (R302). -/
  | copyNode (pkg : Nat) (ring : Nat) (slot : Nat)
  /-- COND_NODE (R302). -/
  | condNode (pkg : Nat) (ring : Nat) (slot : Nat)
  /-- WHILE_NODE (R302). -/
  | whileNode (pkg : Nat) (ring : Nat) (slot : Nat)
  /-- SIGNAL_NODE (R302). -/
  | signalNode (pkg : Nat) (ring : Nat) (slot : Nat)
  /-- WAIT_NODE (R302). -/
  | waitNode (pkg : Nat) (ring : Nat) (slot : Nat)
  /-- WAIT_NODE_REREAD (R302). -/
  | waitNodeReread (pkg : Nat) (ring : Nat) (slot : Nat)
  /-- NODE_COMPLETE (R303). -/
  | nodeComplete (pkg : Nat) (ring : Nat) (slot : Nat)
  /-- SYSC_REPLY (R214). -/
  | syscReply (warp : Nat)
  /-- SQUALL_REPLAY (R309). -/
  | squallReplay (launch : Nat)
  /-- PREEMPT (R221). -/
  | preempt (team : Nat)
  /-- RESUME (R222). -/
  | resume (team : Nat)
  /-- LULL_TAKEOVER (R311). -/
  | lullTakeover (pkg : Nat)
  /-- HBM_SLICE_WITHDRAW (R289). -/
  | hbmSliceWithdraw (pkg : Nat) (die : Nat) (slice : Nat)
  /-- VACATE_COMPLETE (R289). -/
  | vacateComplete (pkg : Nat) (die : Nat)
  /-- CXL_SLICE_WITHDRAW (R290). -/
  | cxlSliceWithdraw (pkg : Nat) (die : Nat) (port : Nat) (slice : Nat)
  /-- CORE_DRAIN (R487). -/
  | coreDrain (core : Nat)
  /-- DEVICE_RESET (R310). -/
  | deviceReset (pkg : Nat)
  /-- RING_BIND (R295). -/
  | ringBind (pkg : Nat) (tag : Nat) (ring : Nat) (base : A80) (k : Nat) (root : BitVec 56) (asn : Nat) (tkey : BitVec 8)
  /-- RING_UNBIND (R316). -/
  | ringUnbind (pkg : Nat) (tag : Nat) (ring : Nat)
  /-- INVALIDATE (R287). -/
  | invalidate (pkg : Nat) (tag : Nat) (asn : Nat) (all : Bool) (lo : Nat) (hi : Nat)
  /-- PARTITION (R308). -/
  | partition (pkg : Nat) (tag : Nat) (die : Nat) (part : Nat) (mask : BitVec 160)
  /-- COLL_SIZE (R308). -/
  | collSize (pkg : Nat) (tag : Nat) (n : Nat)
  /-- RESIDENCY_WRITE (R291). -/
  | residencyWrite (pkg : Nat) (tag : Nat) (die : Nat) (entry : Nat) (value : BitVec 128)
  /-- CXL_WINDOW (R290). -/
  | cxlWindow (pkg : Nat) (tag : Nat) (die : Nat) (window : Nat) (base : Nat) (size : Nat) (ports : BitVec 4)
  /-- STEER_GRANT (R308). -/
  | steerGrant (pkg : Nat) (tag : Nat) (tkey : Nat) (grant : Bool)
  /-- FW_UPDATE (R311). -/
  | fwUpdate (pkg : Nat) (tag : Nat) (addr : Nat) (len : Nat)
  /-- ATTEST (R312). -/
  | attest (pkg : Nat) (tag : Nat) (nonce : BitVec 256) (addr : Nat)
  /-- BREAK_RESUME (R316). -/
  | breakResume (pkg : Nat) (tag : Nat) (team : Nat) (warpid : Nat)
  /-- NOTIFY_QUEUE (R316). -/
  | notifyQueue (pkg : Nat) (tag : Nat) (base : Nat) (size : Nat)
  /-- BAR2_WINDOW (R314). -/
  | bar2Window (pkg : Nat) (tag : Nat) (wbase0 : Nat) (wbase1 : Nat)
  /-- COMMAND_BAD_OPCODE (R316). -/
  | commandBadOpcode (pkg : Nat) (tag : Nat) (opcode : BitVec 16)
  /-- REGISTER_WRITE_IGNORED (R485). -/
  | registerWriteIgnored (pkg : Nat) (offset : Nat) (value : BitVec 64)
  /-- PCIE_LINK_UP (R4). -/
  | pcieLinkUp (pkg : Nat) (die : Nat)
  /-- UNDEFINED_MAJOR_OPCODE (R71). -/
  | undefinedMajorOpcode (word : BitVec 96)
  /-- WRITE_ACKNOWLEDGEMENT (R365). -/
  | writeAcknowledgement (warp : Nat) (i : Nat)
  /-- DESCRIPTOR_READ_RETURN (R398). -/
  | descriptorReadReturn (warp : Nat)
  /-- GATEWAY_RESET (R454). -/
  | gatewayReset (pkg : Nat) (die : Nat)
  /-- LINK_BRING_UP (R435). -/
  | linkBringUp (pkg : Nat) (number : Nat)
  /-- RESIZABLE_BAR_SIZE_WRITE (R314). -/
  | resizableBarSizeWrite (pkg : Nat) (logSize : Nat)
  /-- CLOCK_CYCLE (R488). -/
  | clockCycle (clock : Clock)
deriving DecidableEq, Repr

end Sys2Proof
end

