-- ==== Sys2Proof/Decode.lean ====
section
/-!
DEFINITION. Decode.lean: from the 96 bits of a word to an instruction, from a word's bytes to an
instruction, and back (R43, R50 to R59, R70). Decoding is total: an undefined major opcode decodes to
the instruction that raises ILLEGAL-OPCODE (R71); fields that break a rule decode, and are refused by
WellFormed at check 5 of R42.
-/

namespace Sys2Proof

/-! ## Fields of a word -/

/-- Bits [hi:lo] of a word as a value of width n. -/
def fieldOf {m : Nat} (w : BitVec m) (lo n : Nat) : BitVec n := w.extractLsb' lo n

/-- OP, bits [95:88] (R43). -/
def opOf (w : BitVec 96) : BitVec 8 := fieldOf w 88 8

/-- The header of bits [87:72] (R43). -/
def Hdr.of (b : BitVec 16) : Hdr :=
  { pred := fieldOf b 12 4, pneg := fieldOf b 11 1, feb := fieldOf b 8 3,
    holdSrc := fieldOf b 6 2, holdEnt := fieldOf b 4 2, fmt := fieldOf b 0 4 }

/-- The header's bits, the inverse of Hdr.of. -/
def Hdr.bits (h : Hdr) : BitVec 16 :=
  h.pred ++ (h.pneg ++ (h.feb ++ (h.holdSrc ++ (h.holdEnt ++ h.fmt))))

/-- The fields of bits [71:0] (R50). -/
def FV.of (b : BitVec 72) : FV :=
  { d := fieldOf b 62 10, a := fieldOf b 52 10, b := fieldOf b 42 10, c := fieldOf b 32 10,
    fn := fieldOf b 24 8, na := fieldOf b 23 1, aa := fieldOf b 22 1, nb := fieldOf b 21 1,
    ab := fieldOf b 20 1, nc := fieldOf b 19 1, ac := fieldOf b 18 1, clamp := fieldOf b 16 2,
    scale := fieldOf b 12 4, reuse := fieldOf b 11 1, rnd := fieldOf b 8 3, low := fieldOf b 0 8 }

/-- The bits of the fields, the inverse of FV.of. -/
def FV.bits (f : FV) : BitVec 72 :=
  f.d ++ (f.a ++ (f.b ++ (f.c ++ (f.fn ++ (f.na ++ (f.aa ++ (f.nb ++ (f.ab ++ (f.nc ++ (f.ac
  ++ (f.clamp ++ (f.scale ++ (f.reuse ++ (f.rnd ++ (f.low)))))))))))))))

/-- The fields of bits [71:0] (R53). -/
def FI.of (b : BitVec 72) : FI :=
  { d := fieldOf b 62 10, a := fieldOf b 52 10, fn := fieldOf b 44 8, na := fieldOf b 43 1,
    aa := fieldOf b 42 1, clamp := fieldOf b 40 2, scale := fieldOf b 36 4, rnd := fieldOf b 33 3,
    low := fieldOf b 32 1, imm := fieldOf b 0 32 }

/-- The bits of the fields, the inverse of FI.of. -/
def FI.bits (f : FI) : BitVec 72 :=
  f.d ++ (f.a ++ (f.fn ++ (f.na ++ (f.aa ++ (f.clamp ++ (f.scale ++ (f.rnd ++ (f.low ++
  (f.imm)))))))))

/-- The fields of bits [71:0] (R54). -/
def FM.of (b : BitVec 72) : FM :=
  { d := fieldOf b 62 10, a := fieldOf b 52 10, x := fieldOf b 42 10, fn := fieldOf b 38 4,
    width := fieldOf b 35 3, ish := fieldOf b 32 3, ord := fieldOf b 29 3, scope := fieldOf b 26 3,
    cache := fieldOf b 24 2, offset := fieldOf b 0 24 }

/-- The bits of the fields, the inverse of FM.of. -/
def FM.bits (f : FM) : BitVec 72 :=
  f.d ++ (f.a ++ (f.x ++ (f.fn ++ (f.width ++ (f.ish ++ (f.ord ++ (f.scope ++ (f.cache ++
  (f.offset)))))))))

/-- The fields of bits [71:0] (R55). -/
def FX.of (b : BitVec 72) : FX :=
  { e0 := fieldOf b 62 10, e1 := fieldOf b 52 10, e2 := fieldOf b 42 10, e3 := fieldOf b 32 10,
    ctl := fieldOf b 0 32 }

/-- The bits of the fields, the inverse of FX.of. -/
def FX.bits (f : FX) : BitVec 72 :=
  f.e0 ++ (f.e1 ++ (f.e2 ++ (f.e3 ++ (f.ctl))))

/-- The fields of bits [71:0] (R56). -/
def FC.of (b : BitVec 72) : FC :=
  { tline := fieldOf b 40 32, tslot := fieldOf b 37 3, rline := fieldOf b 10 27,
    rslot := fieldOf b 7 3, tag := fieldOf b 0 7 }

/-- The bits of the fields, the inverse of FC.of. -/
def FC.bits (f : FC) : BitVec 72 :=
  f.tline ++ (f.tslot ++ (f.rline ++ (f.rslot ++ (f.tag))))

/-- The fields of bits [71:0] (R57). -/
def FCX.of (b : BitVec 72) : FCX :=
  { a := fieldOf b 62 10, tag := fieldOf b 55 7, rline := fieldOf b 28 27, rslot := fieldOf b 25 3,
    low := fieldOf b 0 25 }

/-- The bits of the fields, the inverse of FCX.of. -/
def FCX.bits (f : FCX) : BitVec 72 :=
  f.a ++ (f.tag ++ (f.rline ++ (f.rslot ++ (f.low))))

/-- The fields of bits [71:0] (R58). -/
def FP.of (b : BitVec 72) : FP :=
  { count := fieldOf b 68 4, sd := fieldOf b 67 1, sa := fieldOf b 66 1, sb := fieldOf b 65 1,
    sc := fieldOf b 64 1, stepD := fieldOf b 60 4, stepA := fieldOf b 56 4,
    stepB := fieldOf b 52 4, stepC := fieldOf b 48 4, low := fieldOf b 0 48 }

/-- The bits of the fields, the inverse of FP.of. -/
def FP.bits (f : FP) : BitVec 72 :=
  f.count ++ (f.sd ++ (f.sa ++ (f.sb ++ (f.sc ++ (f.stepD ++ (f.stepA ++ (f.stepB ++
  (f.stepC ++ (f.low)))))))))

/-- The fields of bits [71:0] (R59). -/
def FW.of (b : BitVec 72) : FW :=
  { base0 := fieldOf b 62 10, len0 := fieldOf b 58 4, base1 := fieldOf b 48 10,
    len1 := fieldOf b 44 4, base2 := fieldOf b 34 10, len2 := fieldOf b 30 4,
    base3 := fieldOf b 20 10, len3 := fieldOf b 16 4, base4 := fieldOf b 6 10,
    len4 := fieldOf b 2 4, low := fieldOf b 0 2 }

/-- The bits of the fields, the inverse of FW.of. -/
def FW.bits (f : FW) : BitVec 72 :=
  f.base0 ++ (f.len0 ++ (f.base1 ++ (f.len1 ++ (f.base2 ++ (f.len2 ++ (f.base3 ++ (f.len3 ++
  (f.base4 ++ (f.len4 ++ (f.low))))))))))

/-- A word from its opcode, header and fields (R43). -/
def mkWord (op : BitVec 8) (h : Hdr) (body : BitVec 72) : BitVec 96 := op ++ (h.bits ++ body)

/-- Bits [87:72] of a word as a header. -/
def hdrOf (w : BitVec 96) : Hdr := Hdr.of (fieldOf w 72 16)

/-- Bits [71:0] of a word. -/
def bodyOf (w : BitVec 96) : BitVec 72 := fieldOf w 0 72

/-! ## Decoding -/

/-- The instruction of a word, by its opcode number (R70). -/
def decodeOp (op : Nat) (h : Hdr) (b : BitVec 72) (w : BitVec 96) : Instr :=
  match op with
  | 0x00 => .nop h b
  | 0x01 => .pad h (FC.of b)
  | 0x02 => .bra h (FC.of b)
  | 0x03 => .brx h (FCX.of b)
  | 0x04 => .call h (FC.of b)
  | 0x05 => .callx h (FCX.of b)
  | 0x06 => .ret h (FCX.of b)
  | 0x07 => .exit h (FX.of b)
  | 0x08 => .join h (FC.of b)
  | 0x09 => .yield h (FX.of b)
  | 0x0A => .plane h (FX.of b)
  | 0x0B => .regroup h (FX.of b)
  | 0x0C => .ipref h (FC.of b)
  | 0x0D => .wset h (FW.of b)
  | 0x0E => .rep h (FP.of b)
  | 0x0F => .trap h (FX.of b)
  | 0x10 => .eret h (FX.of b)
  | 0x11 => .brk h (FX.of b)
  | 0x12 => .sysc h (FX.of b)
  | 0x13 => .ksave h (FX.of b)
  | 0x14 => .kload h (FX.of b)
  | 0x20 => .smov h (FV.of b)
  | 0x21 => .smovi h (FI.of b)
  | 0x22 => .sadd h (FV.of b)
  | 0x23 => .ssub h (FV.of b)
  | 0x24 => .smul h (FV.of b)
  | 0x25 => .smulh h (FV.of b)
  | 0x26 => .sand h (FV.of b)
  | 0x27 => .sor h (FV.of b)
  | 0x28 => .sxor h (FV.of b)
  | 0x29 => .sshl h (FV.of b)
  | 0x2A => .sshr h (FV.of b)
  | 0x2B => .ssar h (FV.of b)
  | 0x2C => .smin h (FV.of b)
  | 0x2D => .smax h (FV.of b)
  | 0x2E => .scmp h (FV.of b)
  | 0x2F => .ssel h (FV.of b)
  | 0x30 => .spopc h (FV.of b)
  | 0x31 => .sclz h (FV.of b)
  | 0x32 => .alea h (FM.of b)
  | 0x33 => .amov h (FV.of b)
  | 0x34 => .amovi h (FI.of b)
  | 0x35 => .ahi h (FI.of b)
  | 0x36 => .sld h (FM.of b)
  | 0x37 => .sst h (FM.of b)
  | 0x38 => .satom h (FM.of b)
  | 0x39 => .srd h (FX.of b)
  | 0x3A => .swr h (FX.of b)
  | 0x3B => .pmov h (FV.of b)
  | 0x3C => .plog h (FV.of b)
  | 0x40 => .vmov h (FV.of b)
  | 0x41 => .vmovi h (FI.of b)
  | 0x42 => .vtag h (FV.of b)
  | 0x43 => .vadd h (FV.of b)
  | 0x44 => .vsub h (FV.of b)
  | 0x45 => .vmul h (FV.of b)
  | 0x46 => .vmulh h (FV.of b)
  | 0x47 => .vmad h (FV.of b)
  | 0x48 => .vabsd h (FV.of b)
  | 0x49 => .vmin h (FV.of b)
  | 0x4A => .vmax h (FV.of b)
  | 0x4B => .vand h (FV.of b)
  | 0x4C => .vor h (FV.of b)
  | 0x4D => .vxor h (FV.of b)
  | 0x4E => .vbool h (FV.of b)
  | 0x4F => .vshl h (FV.of b)
  | 0x50 => .vshr h (FV.of b)
  | 0x51 => .vsar h (FV.of b)
  | 0x52 => .vpopc h (FV.of b)
  | 0x53 => .vclz h (FV.of b)
  | 0x54 => .vbrev h (FV.of b)
  | 0x55 => .vbfx h (FV.of b)
  | 0x56 => .vbfi h (FV.of b)
  | 0x57 => .vcmpReg h (FV.of b)
  | 0x5F => .vcmpImm h (FI.of b)
  | 0x58 => .vsel h (FV.of b)
  | 0x59 => .vlane h (FV.of b)
  | 0x5A => .vperm h (FV.of b)
  | 0x5B => .qxch h (FV.of b)
  | 0x5C => .vred h (FV.of b)
  | 0x5D => .vscan h (FV.of b)
  | 0x5E => .vvote h (FV.of b)
  | 0x60 => .fadd h (FV.of b)
  | 0x61 => .fsub h (FV.of b)
  | 0x62 => .fmul h (FV.of b)
  | 0x63 => .ffma h (FV.of b)
  | 0x64 => .fmin h (FV.of b)
  | 0x65 => .fmax h (FV.of b)
  | 0x66 => .fcmp h (FV.of b)
  | 0x67 => .fclass h (FV.of b)
  | 0x68 => .frcp h (FV.of b)
  | 0x69 => .frsq h (FV.of b)
  | 0x6A => .fsqrt h (FV.of b)
  | 0x6B => .fexp2 h (FV.of b)
  | 0x6C => .flog2 h (FV.of b)
  | 0x6D => .fsin h (FV.of b)
  | 0x6E => .fcos h (FV.of b)
  | 0x6F => .frnd h (FV.of b)
  | 0x70 => .fdot2 h (FV.of b)
  | 0x71 => .vcvt h (FV.of b)
  | 0x72 => .vpack h (FV.of b)
  | 0x73 => .vunpk h (FV.of b)
  | 0x74 => .xdec h (FX.of b)
  | 0x75 => .xscan h (FX.of b)
  | 0x76 => .xsort h (FX.of b)
  | 0x77 => .xtopk h (FX.of b)
  | 0x78 => .xplane h (FX.of b)
  | 0x80 => .vld h (FM.of b)
  | 0x81 => .vst h (FM.of b)
  | 0x82 => .vldf h (FM.of b)
  | 0x83 => .vstf h (FM.of b)
  | 0x84 => .vatom h (FM.of b)
  | 0x85 => .vldsh h (FM.of b)
  | 0x86 => .vstsh h (FM.of b)
  | 0x87 => .vatomsh h (FM.of b)
  | 0x88 => .ldacc h (FM.of b)
  | 0x89 => .stacc h (FM.of b)
  | 0x8A => .vpref h (FM.of b)
  | 0x8B => .clred h (FX.of b)
  | 0x8C => .clput h (FX.of b)
  | 0x8D => .clget h (FX.of b)
  | 0xA0 => .mma h (FV.of b)
  | 0xA1 => .mmap h (FV.of b)
  | 0xA2 => .mlda h (FX.of b)
  | 0xA3 => .mzero h (FX.of b)
  | 0xA4 => .mgang h (FX.of b)
  | 0xA5 => .mbatch h (FX.of b)
  | 0xA6 => .mwait h (FX.of b)
  | 0xA7 => .mcolm h (FX.of b)
  | 0xC0 => .tcopy h (FX.of b)
  | 0xC1 => .tstore h (FX.of b)
  | 0xC2 => .tgather h (FX.of b)
  | 0xC3 => .tmcast h (FX.of b)
  | 0xC4 => .tpref h (FX.of b)
  | 0xC5 => .repart h (FX.of b)
  | 0xC6 => .veer h (FX.of b)
  | 0xE0 => .fence h (FM.of b)
  | 0xE1 => .talloc h (FX.of b)
  | 0xE2 => .tfree h (FX.of b)
  | 0xE3 => .trel h (FX.of b)
  | 0xE4 => .tstat h (FX.of b)
  | 0xE5 => .hqpush h (FX.of b)
  | 0xE6 => .hqpop h (FX.of b)
  | 0xE7 => .hqtry h (FX.of b)
  | 0xE8 => .csend h (FX.of b)
  | 0xE9 => .crecv h (FX.of b)
  | 0xEA => .cpoll h (FX.of b)
  | 0xEB => .binit h (FX.of b)
  | 0xEC => .barv h (FX.of b)
  | 0xED => .bwait h (FX.of b)
  | 0xEE => .bsync h (FX.of b)
  | 0xEF => .bexp h (FX.of b)
  | _ => .undefinedMajorOpcode w

/-- The instruction of a 96-bit word; an undefined opcode is R71's. -/
def decode (w : BitVec 96) : Instr := decodeOp (opOf w).toNat (hdrOf w) (bodyOf w) w

/-- The word of an instruction; an event has none. -/
def encode : Instr → Option (BitVec 96)
  | .nop h f => some (mkWord 0x00#8 h f)
  | .pad h f => some (mkWord 0x01#8 h f.bits)
  | .bra h f => some (mkWord 0x02#8 h f.bits)
  | .brx h f => some (mkWord 0x03#8 h f.bits)
  | .call h f => some (mkWord 0x04#8 h f.bits)
  | .callx h f => some (mkWord 0x05#8 h f.bits)
  | .ret h f => some (mkWord 0x06#8 h f.bits)
  | .exit h f => some (mkWord 0x07#8 h f.bits)
  | .join h f => some (mkWord 0x08#8 h f.bits)
  | .yield h f => some (mkWord 0x09#8 h f.bits)
  | .plane h f => some (mkWord 0x0A#8 h f.bits)
  | .regroup h f => some (mkWord 0x0B#8 h f.bits)
  | .ipref h f => some (mkWord 0x0C#8 h f.bits)
  | .wset h f => some (mkWord 0x0D#8 h f.bits)
  | .rep h f => some (mkWord 0x0E#8 h f.bits)
  | .trap h f => some (mkWord 0x0F#8 h f.bits)
  | .eret h f => some (mkWord 0x10#8 h f.bits)
  | .brk h f => some (mkWord 0x11#8 h f.bits)
  | .sysc h f => some (mkWord 0x12#8 h f.bits)
  | .ksave h f => some (mkWord 0x13#8 h f.bits)
  | .kload h f => some (mkWord 0x14#8 h f.bits)
  | .smov h f => some (mkWord 0x20#8 h f.bits)
  | .smovi h f => some (mkWord 0x21#8 h f.bits)
  | .sadd h f => some (mkWord 0x22#8 h f.bits)
  | .ssub h f => some (mkWord 0x23#8 h f.bits)
  | .smul h f => some (mkWord 0x24#8 h f.bits)
  | .smulh h f => some (mkWord 0x25#8 h f.bits)
  | .sand h f => some (mkWord 0x26#8 h f.bits)
  | .sor h f => some (mkWord 0x27#8 h f.bits)
  | .sxor h f => some (mkWord 0x28#8 h f.bits)
  | .sshl h f => some (mkWord 0x29#8 h f.bits)
  | .sshr h f => some (mkWord 0x2A#8 h f.bits)
  | .ssar h f => some (mkWord 0x2B#8 h f.bits)
  | .smin h f => some (mkWord 0x2C#8 h f.bits)
  | .smax h f => some (mkWord 0x2D#8 h f.bits)
  | .scmp h f => some (mkWord 0x2E#8 h f.bits)
  | .ssel h f => some (mkWord 0x2F#8 h f.bits)
  | .spopc h f => some (mkWord 0x30#8 h f.bits)
  | .sclz h f => some (mkWord 0x31#8 h f.bits)
  | .alea h f => some (mkWord 0x32#8 h f.bits)
  | .amov h f => some (mkWord 0x33#8 h f.bits)
  | .amovi h f => some (mkWord 0x34#8 h f.bits)
  | .ahi h f => some (mkWord 0x35#8 h f.bits)
  | .sld h f => some (mkWord 0x36#8 h f.bits)
  | .sst h f => some (mkWord 0x37#8 h f.bits)
  | .satom h f => some (mkWord 0x38#8 h f.bits)
  | .srd h f => some (mkWord 0x39#8 h f.bits)
  | .swr h f => some (mkWord 0x3A#8 h f.bits)
  | .pmov h f => some (mkWord 0x3B#8 h f.bits)
  | .plog h f => some (mkWord 0x3C#8 h f.bits)
  | .vmov h f => some (mkWord 0x40#8 h f.bits)
  | .vmovi h f => some (mkWord 0x41#8 h f.bits)
  | .vtag h f => some (mkWord 0x42#8 h f.bits)
  | .vadd h f => some (mkWord 0x43#8 h f.bits)
  | .vsub h f => some (mkWord 0x44#8 h f.bits)
  | .vmul h f => some (mkWord 0x45#8 h f.bits)
  | .vmulh h f => some (mkWord 0x46#8 h f.bits)
  | .vmad h f => some (mkWord 0x47#8 h f.bits)
  | .vabsd h f => some (mkWord 0x48#8 h f.bits)
  | .vmin h f => some (mkWord 0x49#8 h f.bits)
  | .vmax h f => some (mkWord 0x4A#8 h f.bits)
  | .vand h f => some (mkWord 0x4B#8 h f.bits)
  | .vor h f => some (mkWord 0x4C#8 h f.bits)
  | .vxor h f => some (mkWord 0x4D#8 h f.bits)
  | .vbool h f => some (mkWord 0x4E#8 h f.bits)
  | .vshl h f => some (mkWord 0x4F#8 h f.bits)
  | .vshr h f => some (mkWord 0x50#8 h f.bits)
  | .vsar h f => some (mkWord 0x51#8 h f.bits)
  | .vpopc h f => some (mkWord 0x52#8 h f.bits)
  | .vclz h f => some (mkWord 0x53#8 h f.bits)
  | .vbrev h f => some (mkWord 0x54#8 h f.bits)
  | .vbfx h f => some (mkWord 0x55#8 h f.bits)
  | .vbfi h f => some (mkWord 0x56#8 h f.bits)
  | .vcmpReg h f => some (mkWord 0x57#8 h f.bits)
  | .vcmpImm h f => some (mkWord 0x5F#8 h f.bits)
  | .vsel h f => some (mkWord 0x58#8 h f.bits)
  | .vlane h f => some (mkWord 0x59#8 h f.bits)
  | .vperm h f => some (mkWord 0x5A#8 h f.bits)
  | .qxch h f => some (mkWord 0x5B#8 h f.bits)
  | .vred h f => some (mkWord 0x5C#8 h f.bits)
  | .vscan h f => some (mkWord 0x5D#8 h f.bits)
  | .vvote h f => some (mkWord 0x5E#8 h f.bits)
  | .fadd h f => some (mkWord 0x60#8 h f.bits)
  | .fsub h f => some (mkWord 0x61#8 h f.bits)
  | .fmul h f => some (mkWord 0x62#8 h f.bits)
  | .ffma h f => some (mkWord 0x63#8 h f.bits)
  | .fmin h f => some (mkWord 0x64#8 h f.bits)
  | .fmax h f => some (mkWord 0x65#8 h f.bits)
  | .fcmp h f => some (mkWord 0x66#8 h f.bits)
  | .fclass h f => some (mkWord 0x67#8 h f.bits)
  | .frcp h f => some (mkWord 0x68#8 h f.bits)
  | .frsq h f => some (mkWord 0x69#8 h f.bits)
  | .fsqrt h f => some (mkWord 0x6A#8 h f.bits)
  | .fexp2 h f => some (mkWord 0x6B#8 h f.bits)
  | .flog2 h f => some (mkWord 0x6C#8 h f.bits)
  | .fsin h f => some (mkWord 0x6D#8 h f.bits)
  | .fcos h f => some (mkWord 0x6E#8 h f.bits)
  | .frnd h f => some (mkWord 0x6F#8 h f.bits)
  | .fdot2 h f => some (mkWord 0x70#8 h f.bits)
  | .vcvt h f => some (mkWord 0x71#8 h f.bits)
  | .vpack h f => some (mkWord 0x72#8 h f.bits)
  | .vunpk h f => some (mkWord 0x73#8 h f.bits)
  | .xdec h f => some (mkWord 0x74#8 h f.bits)
  | .xscan h f => some (mkWord 0x75#8 h f.bits)
  | .xsort h f => some (mkWord 0x76#8 h f.bits)
  | .xtopk h f => some (mkWord 0x77#8 h f.bits)
  | .xplane h f => some (mkWord 0x78#8 h f.bits)
  | .vld h f => some (mkWord 0x80#8 h f.bits)
  | .vst h f => some (mkWord 0x81#8 h f.bits)
  | .vldf h f => some (mkWord 0x82#8 h f.bits)
  | .vstf h f => some (mkWord 0x83#8 h f.bits)
  | .vatom h f => some (mkWord 0x84#8 h f.bits)
  | .vldsh h f => some (mkWord 0x85#8 h f.bits)
  | .vstsh h f => some (mkWord 0x86#8 h f.bits)
  | .vatomsh h f => some (mkWord 0x87#8 h f.bits)
  | .ldacc h f => some (mkWord 0x88#8 h f.bits)
  | .stacc h f => some (mkWord 0x89#8 h f.bits)
  | .vpref h f => some (mkWord 0x8A#8 h f.bits)
  | .clred h f => some (mkWord 0x8B#8 h f.bits)
  | .clput h f => some (mkWord 0x8C#8 h f.bits)
  | .clget h f => some (mkWord 0x8D#8 h f.bits)
  | .mma h f => some (mkWord 0xA0#8 h f.bits)
  | .mmap h f => some (mkWord 0xA1#8 h f.bits)
  | .mlda h f => some (mkWord 0xA2#8 h f.bits)
  | .mzero h f => some (mkWord 0xA3#8 h f.bits)
  | .mgang h f => some (mkWord 0xA4#8 h f.bits)
  | .mbatch h f => some (mkWord 0xA5#8 h f.bits)
  | .mwait h f => some (mkWord 0xA6#8 h f.bits)
  | .mcolm h f => some (mkWord 0xA7#8 h f.bits)
  | .tcopy h f => some (mkWord 0xC0#8 h f.bits)
  | .tstore h f => some (mkWord 0xC1#8 h f.bits)
  | .tgather h f => some (mkWord 0xC2#8 h f.bits)
  | .tmcast h f => some (mkWord 0xC3#8 h f.bits)
  | .tpref h f => some (mkWord 0xC4#8 h f.bits)
  | .repart h f => some (mkWord 0xC5#8 h f.bits)
  | .veer h f => some (mkWord 0xC6#8 h f.bits)
  | .fence h f => some (mkWord 0xE0#8 h f.bits)
  | .talloc h f => some (mkWord 0xE1#8 h f.bits)
  | .tfree h f => some (mkWord 0xE2#8 h f.bits)
  | .trel h f => some (mkWord 0xE3#8 h f.bits)
  | .tstat h f => some (mkWord 0xE4#8 h f.bits)
  | .hqpush h f => some (mkWord 0xE5#8 h f.bits)
  | .hqpop h f => some (mkWord 0xE6#8 h f.bits)
  | .hqtry h f => some (mkWord 0xE7#8 h f.bits)
  | .csend h f => some (mkWord 0xE8#8 h f.bits)
  | .crecv h f => some (mkWord 0xE9#8 h f.bits)
  | .cpoll h f => some (mkWord 0xEA#8 h f.bits)
  | .binit h f => some (mkWord 0xEB#8 h f.bits)
  | .barv h f => some (mkWord 0xEC#8 h f.bits)
  | .bwait h f => some (mkWord 0xED#8 h f.bits)
  | .bsync h f => some (mkWord 0xEE#8 h f.bits)
  | .bexp h f => some (mkWord 0xEF#8 h f.bits)
  | .longLatencyWriteback _ _ => none
  | .transformServiceStart _ => none
  | .transformReply _ => none
  | .matrixCommandStart _ => none
  | .matrixCommandComplete _ => none
  | .copyRowWrite _ _ => none
  | .copyCommandComplete _ _ => none
  | .multicastDelivery _ _ => none
  | .readerFinish _ _ => none
  | .channelDelivery _ _ => none
  | .channelCreditReturn _ _ => none
  | .teamRetire _ => none
  | .teamEnd _ => none
  | .combinerTeamArrival _ _ => none
  | .combinerRelease _ _ => none
  | .collectivePacket _ _ _ => none
  | .collectiveDeadlineExpiry _ _ _ => none
  | .collectiveRerun _ _ => none
  | .memberLost _ _ _ => none
  | .collectiveInstanceComplete _ _ => none
  | .fabricTargetRequest _ _ => none
  | .fabricRequestTimeout _ _ => none
  | .bar2Request _ _ _ _ => none
  | .pcieLinkDown _ _ => none
  | .promotionRequest _ _ _ => none
  | .walkStart _ _ => none
  | .walkComplete _ _ => none
  | .pageFaultServiceReply _ _ _ => none
  | .icacheLineArrival _ _ => none
  | .stagingComplete _ => none
  | .readyAgeExpiry _ _ => none
  | .yieldTimeout _ _ => none
  | .registerScrub _ _ => none
  | .accumScrub _ => none
  | .uncorrectableStateError _ _ => none
  | .residencySweep _ _ => none
  | .turnaroundStart _ => none
  | .moduleDrained _ _ => none
  | .moduleDeadTimeExpiry _ _ => none
  | .starvationGuard _ _ => none
  | .doorbellStart _ _ _ => none
  | .doorbellRefetch _ _ _ => none
  | .recordPrefetch _ _ _ => none
  | .recordReread _ _ _ => none
  | .nopNode _ _ _ => none
  | .kernelNode _ _ _ => none
  | .launchRetry _ _ _ => none
  | .launchWaitExpiry _ _ _ => none
  | .copyNode _ _ _ => none
  | .condNode _ _ _ => none
  | .whileNode _ _ _ => none
  | .signalNode _ _ _ => none
  | .waitNode _ _ _ => none
  | .waitNodeReread _ _ _ => none
  | .nodeComplete _ _ _ => none
  | .syscReply _ => none
  | .squallReplay _ => none
  | .preempt _ => none
  | .resume _ => none
  | .lullTakeover _ => none
  | .hbmSliceWithdraw _ _ _ => none
  | .vacateComplete _ _ => none
  | .cxlSliceWithdraw _ _ _ _ => none
  | .coreDrain _ => none
  | .deviceReset _ => none
  | .ringBind _ _ _ _ _ _ _ _ => none
  | .ringUnbind _ _ _ => none
  | .invalidate _ _ _ _ _ _ => none
  | .partition _ _ _ _ _ => none
  | .collSize _ _ _ => none
  | .residencyWrite _ _ _ _ _ => none
  | .cxlWindow _ _ _ _ _ _ _ => none
  | .steerGrant _ _ _ _ => none
  | .fwUpdate _ _ _ _ => none
  | .attest _ _ _ _ => none
  | .breakResume _ _ _ _ => none
  | .notifyQueue _ _ _ _ => none
  | .bar2Window _ _ _ _ => none
  | .commandBadOpcode _ _ _ => none
  | .registerWriteIgnored _ _ _ => none
  | .pcieLinkUp _ _ => none
  | .undefinedMajorOpcode w => some w
  | .writeAcknowledgement _ _ => none
  | .descriptorReadReturn _ => none
  | .gatewayReset _ _ => none
  | .linkBringUp _ _ => none
  | .resizableBarSizeWrite _ _ => none
  | .clockCycle _ => none

/-! ## Bytes -/

/-- Why no instruction is read from a list of bytes. -/
inductive DecodeError where
  /-- Fewer than the twelve bytes of an instruction (R36). -/
  | truncated
deriving DecidableEq, Repr

/-- The value of bytes, the first least significant (R7). -/
def leValue : List Byte → Nat
  | [] => 0
  | b :: bs => b.toNat + 256 * leValue bs

/-- The n low bytes of a value, least significant first (R7). -/
def leBytes : Nat → Nat → List Byte
  | 0, _ => []
  | n + 1, v => BitVec.ofNat 8 v :: leBytes n (v / 256)

/-- The instruction in the first twelve bytes, and the bytes after it (R36). -/
def decodeBytes (bs : List Byte) : Except DecodeError (Instr × List Byte) :=
  if bs.length < 12 then .error .truncated
  else .ok (decode (BitVec.ofNat 96 (leValue (bs.take 12))), bs.drop 12)

/-- The instruction of a word numbered as the opcode table numbers it: one 96-bit word, whose bits
above nbits are zero. -/
def decodeTableWord (nbits w : Nat) : Option Instr :=
  if nbits ≤ 96 then
    match decodeBytes (leBytes 12 (w % 2 ^ nbits)) with
    | .ok (i, _) => some i
    | .error _ => none
  else none

end Sys2Proof
end

