-- ==== Sys2Proof/Machine/Encoding.lean ====
section
/-!
DEFINITION. Machine/Encoding.lean: what check 5 of R42 accepts, and the operand fields of every
instruction in one table: which registers it names, reads and writes, the format each source must
carry, and which fields FEB and HOLD may govern (R43 to R59, R74 to R82, and the field tables of the
chapters).
-/

namespace Sys2Proof

/-- OP of an instruction (R70); 256 for an event of the machine. -/
def Instr.opNum : Instr → Nat
  | .nop _ _ => 0x00
  | .pad _ _ => 0x01
  | .bra _ _ => 0x02
  | .brx _ _ => 0x03
  | .call _ _ => 0x04
  | .callx _ _ => 0x05
  | .ret _ _ => 0x06
  | .exit _ _ => 0x07
  | .join _ _ => 0x08
  | .yield _ _ => 0x09
  | .plane _ _ => 0x0A
  | .regroup _ _ => 0x0B
  | .ipref _ _ => 0x0C
  | .wset _ _ => 0x0D
  | .rep _ _ => 0x0E
  | .trap _ _ => 0x0F
  | .eret _ _ => 0x10
  | .brk _ _ => 0x11
  | .sysc _ _ => 0x12
  | .ksave _ _ => 0x13
  | .kload _ _ => 0x14
  | .smov _ _ => 0x20
  | .smovi _ _ => 0x21
  | .sadd _ _ => 0x22
  | .ssub _ _ => 0x23
  | .smul _ _ => 0x24
  | .smulh _ _ => 0x25
  | .sand _ _ => 0x26
  | .sor _ _ => 0x27
  | .sxor _ _ => 0x28
  | .sshl _ _ => 0x29
  | .sshr _ _ => 0x2A
  | .ssar _ _ => 0x2B
  | .smin _ _ => 0x2C
  | .smax _ _ => 0x2D
  | .scmp _ _ => 0x2E
  | .ssel _ _ => 0x2F
  | .spopc _ _ => 0x30
  | .sclz _ _ => 0x31
  | .alea _ _ => 0x32
  | .amov _ _ => 0x33
  | .amovi _ _ => 0x34
  | .ahi _ _ => 0x35
  | .sld _ _ => 0x36
  | .sst _ _ => 0x37
  | .satom _ _ => 0x38
  | .srd _ _ => 0x39
  | .swr _ _ => 0x3A
  | .pmov _ _ => 0x3B
  | .plog _ _ => 0x3C
  | .vmov _ _ => 0x40
  | .vmovi _ _ => 0x41
  | .vtag _ _ => 0x42
  | .vadd _ _ => 0x43
  | .vsub _ _ => 0x44
  | .vmul _ _ => 0x45
  | .vmulh _ _ => 0x46
  | .vmad _ _ => 0x47
  | .vabsd _ _ => 0x48
  | .vmin _ _ => 0x49
  | .vmax _ _ => 0x4A
  | .vand _ _ => 0x4B
  | .vor _ _ => 0x4C
  | .vxor _ _ => 0x4D
  | .vbool _ _ => 0x4E
  | .vshl _ _ => 0x4F
  | .vshr _ _ => 0x50
  | .vsar _ _ => 0x51
  | .vpopc _ _ => 0x52
  | .vclz _ _ => 0x53
  | .vbrev _ _ => 0x54
  | .vbfx _ _ => 0x55
  | .vbfi _ _ => 0x56
  | .vcmpReg _ _ => 0x57
  | .vcmpImm _ _ => 0x5F
  | .vsel _ _ => 0x58
  | .vlane _ _ => 0x59
  | .vperm _ _ => 0x5A
  | .qxch _ _ => 0x5B
  | .vred _ _ => 0x5C
  | .vscan _ _ => 0x5D
  | .vvote _ _ => 0x5E
  | .fadd _ _ => 0x60
  | .fsub _ _ => 0x61
  | .fmul _ _ => 0x62
  | .ffma _ _ => 0x63
  | .fmin _ _ => 0x64
  | .fmax _ _ => 0x65
  | .fcmp _ _ => 0x66
  | .fclass _ _ => 0x67
  | .frcp _ _ => 0x68
  | .frsq _ _ => 0x69
  | .fsqrt _ _ => 0x6A
  | .fexp2 _ _ => 0x6B
  | .flog2 _ _ => 0x6C
  | .fsin _ _ => 0x6D
  | .fcos _ _ => 0x6E
  | .frnd _ _ => 0x6F
  | .fdot2 _ _ => 0x70
  | .vcvt _ _ => 0x71
  | .vpack _ _ => 0x72
  | .vunpk _ _ => 0x73
  | .xdec _ _ => 0x74
  | .xscan _ _ => 0x75
  | .xsort _ _ => 0x76
  | .xtopk _ _ => 0x77
  | .xplane _ _ => 0x78
  | .vld _ _ => 0x80
  | .vst _ _ => 0x81
  | .vldf _ _ => 0x82
  | .vstf _ _ => 0x83
  | .vatom _ _ => 0x84
  | .vldsh _ _ => 0x85
  | .vstsh _ _ => 0x86
  | .vatomsh _ _ => 0x87
  | .ldacc _ _ => 0x88
  | .stacc _ _ => 0x89
  | .vpref _ _ => 0x8A
  | .clred _ _ => 0x8B
  | .clput _ _ => 0x8C
  | .clget _ _ => 0x8D
  | .mma _ _ => 0xA0
  | .mmap _ _ => 0xA1
  | .mlda _ _ => 0xA2
  | .mzero _ _ => 0xA3
  | .mgang _ _ => 0xA4
  | .mbatch _ _ => 0xA5
  | .mwait _ _ => 0xA6
  | .mcolm _ _ => 0xA7
  | .tcopy _ _ => 0xC0
  | .tstore _ _ => 0xC1
  | .tgather _ _ => 0xC2
  | .tmcast _ _ => 0xC3
  | .tpref _ _ => 0xC4
  | .repart _ _ => 0xC5
  | .veer _ _ => 0xC6
  | .fence _ _ => 0xE0
  | .talloc _ _ => 0xE1
  | .tfree _ _ => 0xE2
  | .trel _ _ => 0xE3
  | .tstat _ _ => 0xE4
  | .hqpush _ _ => 0xE5
  | .hqpop _ _ => 0xE6
  | .hqtry _ _ => 0xE7
  | .csend _ _ => 0xE8
  | .crecv _ _ => 0xE9
  | .cpoll _ _ => 0xEA
  | .binit _ _ => 0xEB
  | .barv _ _ => 0xEC
  | .bwait _ _ => 0xED
  | .bsync _ _ => 0xEE
  | .bexp _ _ => 0xEF
  | .longLatencyWriteback _ _ => 256
  | .transformServiceStart _ => 256
  | .transformReply _ => 256
  | .matrixCommandStart _ => 256
  | .matrixCommandComplete _ => 256
  | .copyRowWrite _ _ => 256
  | .copyCommandComplete _ _ => 256
  | .multicastDelivery _ _ => 256
  | .readerFinish _ _ => 256
  | .channelDelivery _ _ => 256
  | .channelCreditReturn _ _ => 256
  | .teamRetire _ => 256
  | .teamEnd _ => 256
  | .combinerTeamArrival _ _ => 256
  | .combinerRelease _ _ => 256
  | .collectivePacket _ _ _ => 256
  | .collectiveDeadlineExpiry _ _ _ => 256
  | .collectiveRerun _ _ => 256
  | .memberLost _ _ _ => 256
  | .collectiveInstanceComplete _ _ => 256
  | .fabricTargetRequest _ _ => 256
  | .fabricRequestTimeout _ _ => 256
  | .bar2Request _ _ _ _ => 256
  | .pcieLinkDown _ _ => 256
  | .promotionRequest _ _ _ => 256
  | .walkStart _ _ => 256
  | .walkComplete _ _ => 256
  | .pageFaultServiceReply _ _ _ => 256
  | .icacheLineArrival _ _ => 256
  | .stagingComplete _ => 256
  | .readyAgeExpiry _ _ => 256
  | .yieldTimeout _ _ => 256
  | .registerScrub _ _ => 256
  | .accumScrub _ => 256
  | .uncorrectableStateError _ _ => 256
  | .residencySweep _ _ => 256
  | .turnaroundStart _ => 256
  | .moduleDrained _ _ => 256
  | .moduleDeadTimeExpiry _ _ => 256
  | .starvationGuard _ _ => 256
  | .doorbellStart _ _ _ => 256
  | .doorbellRefetch _ _ _ => 256
  | .recordPrefetch _ _ _ => 256
  | .recordReread _ _ _ => 256
  | .nopNode _ _ _ => 256
  | .kernelNode _ _ _ => 256
  | .launchRetry _ _ _ => 256
  | .launchWaitExpiry _ _ _ => 256
  | .copyNode _ _ _ => 256
  | .condNode _ _ _ => 256
  | .whileNode _ _ _ => 256
  | .signalNode _ _ _ => 256
  | .waitNode _ _ _ => 256
  | .waitNodeReread _ _ _ => 256
  | .nodeComplete _ _ _ => 256
  | .syscReply _ => 256
  | .squallReplay _ => 256
  | .preempt _ => 256
  | .resume _ => 256
  | .lullTakeover _ => 256
  | .hbmSliceWithdraw _ _ _ => 256
  | .vacateComplete _ _ => 256
  | .cxlSliceWithdraw _ _ _ _ => 256
  | .coreDrain _ => 256
  | .deviceReset _ => 256
  | .ringBind _ _ _ _ _ _ _ _ => 256
  | .ringUnbind _ _ _ => 256
  | .invalidate _ _ _ _ _ _ => 256
  | .partition _ _ _ _ _ => 256
  | .collSize _ _ _ => 256
  | .residencyWrite _ _ _ _ _ => 256
  | .cxlWindow _ _ _ _ _ _ _ => 256
  | .steerGrant _ _ _ _ => 256
  | .fwUpdate _ _ _ _ => 256
  | .attest _ _ _ _ => 256
  | .breakResume _ _ _ _ => 256
  | .notifyQueue _ _ _ _ => 256
  | .bar2Window _ _ _ _ => 256
  | .commandBadOpcode _ _ _ => 256
  | .registerWriteIgnored _ _ _ => 256
  | .pcieLinkUp _ _ => 256
  | .undefinedMajorOpcode w => (opOf w).toNat
  | .writeAcknowledgement _ _ => 256
  | .descriptorReadReturn _ => 256
  | .gatewayReset _ _ => 256
  | .linkBringUp _ _ => 256
  | .resizableBarSizeWrite _ _ => 256
  | .clockCycle _ => 256

/-- A header of neutral values, for an event. -/
def Hdr.neutral : Hdr :=
  { pred := 15#4, pneg := 0#1, feb := 0#3, holdSrc := 0#2, holdEnt := 0#2, fmt := 14#4 }

/-- The header of an instruction. -/
def Instr.hdr : Instr → Hdr
  | .nop h _ => h
  | .pad h _ => h
  | .bra h _ => h
  | .brx h _ => h
  | .call h _ => h
  | .callx h _ => h
  | .ret h _ => h
  | .exit h _ => h
  | .join h _ => h
  | .yield h _ => h
  | .plane h _ => h
  | .regroup h _ => h
  | .ipref h _ => h
  | .wset h _ => h
  | .rep h _ => h
  | .trap h _ => h
  | .eret h _ => h
  | .brk h _ => h
  | .sysc h _ => h
  | .ksave h _ => h
  | .kload h _ => h
  | .smov h _ => h
  | .smovi h _ => h
  | .sadd h _ => h
  | .ssub h _ => h
  | .smul h _ => h
  | .smulh h _ => h
  | .sand h _ => h
  | .sor h _ => h
  | .sxor h _ => h
  | .sshl h _ => h
  | .sshr h _ => h
  | .ssar h _ => h
  | .smin h _ => h
  | .smax h _ => h
  | .scmp h _ => h
  | .ssel h _ => h
  | .spopc h _ => h
  | .sclz h _ => h
  | .alea h _ => h
  | .amov h _ => h
  | .amovi h _ => h
  | .ahi h _ => h
  | .sld h _ => h
  | .sst h _ => h
  | .satom h _ => h
  | .srd h _ => h
  | .swr h _ => h
  | .pmov h _ => h
  | .plog h _ => h
  | .vmov h _ => h
  | .vmovi h _ => h
  | .vtag h _ => h
  | .vadd h _ => h
  | .vsub h _ => h
  | .vmul h _ => h
  | .vmulh h _ => h
  | .vmad h _ => h
  | .vabsd h _ => h
  | .vmin h _ => h
  | .vmax h _ => h
  | .vand h _ => h
  | .vor h _ => h
  | .vxor h _ => h
  | .vbool h _ => h
  | .vshl h _ => h
  | .vshr h _ => h
  | .vsar h _ => h
  | .vpopc h _ => h
  | .vclz h _ => h
  | .vbrev h _ => h
  | .vbfx h _ => h
  | .vbfi h _ => h
  | .vcmpReg h _ => h
  | .vcmpImm h _ => h
  | .vsel h _ => h
  | .vlane h _ => h
  | .vperm h _ => h
  | .qxch h _ => h
  | .vred h _ => h
  | .vscan h _ => h
  | .vvote h _ => h
  | .fadd h _ => h
  | .fsub h _ => h
  | .fmul h _ => h
  | .ffma h _ => h
  | .fmin h _ => h
  | .fmax h _ => h
  | .fcmp h _ => h
  | .fclass h _ => h
  | .frcp h _ => h
  | .frsq h _ => h
  | .fsqrt h _ => h
  | .fexp2 h _ => h
  | .flog2 h _ => h
  | .fsin h _ => h
  | .fcos h _ => h
  | .frnd h _ => h
  | .fdot2 h _ => h
  | .vcvt h _ => h
  | .vpack h _ => h
  | .vunpk h _ => h
  | .xdec h _ => h
  | .xscan h _ => h
  | .xsort h _ => h
  | .xtopk h _ => h
  | .xplane h _ => h
  | .vld h _ => h
  | .vst h _ => h
  | .vldf h _ => h
  | .vstf h _ => h
  | .vatom h _ => h
  | .vldsh h _ => h
  | .vstsh h _ => h
  | .vatomsh h _ => h
  | .ldacc h _ => h
  | .stacc h _ => h
  | .vpref h _ => h
  | .clred h _ => h
  | .clput h _ => h
  | .clget h _ => h
  | .mma h _ => h
  | .mmap h _ => h
  | .mlda h _ => h
  | .mzero h _ => h
  | .mgang h _ => h
  | .mbatch h _ => h
  | .mwait h _ => h
  | .mcolm h _ => h
  | .tcopy h _ => h
  | .tstore h _ => h
  | .tgather h _ => h
  | .tmcast h _ => h
  | .tpref h _ => h
  | .repart h _ => h
  | .veer h _ => h
  | .fence h _ => h
  | .talloc h _ => h
  | .tfree h _ => h
  | .trel h _ => h
  | .tstat h _ => h
  | .hqpush h _ => h
  | .hqpop h _ => h
  | .hqtry h _ => h
  | .csend h _ => h
  | .crecv h _ => h
  | .cpoll h _ => h
  | .binit h _ => h
  | .barv h _ => h
  | .bwait h _ => h
  | .bsync h _ => h
  | .bexp h _ => h
  | .longLatencyWriteback _ _ => Hdr.neutral
  | .transformServiceStart _ => Hdr.neutral
  | .transformReply _ => Hdr.neutral
  | .matrixCommandStart _ => Hdr.neutral
  | .matrixCommandComplete _ => Hdr.neutral
  | .copyRowWrite _ _ => Hdr.neutral
  | .copyCommandComplete _ _ => Hdr.neutral
  | .multicastDelivery _ _ => Hdr.neutral
  | .readerFinish _ _ => Hdr.neutral
  | .channelDelivery _ _ => Hdr.neutral
  | .channelCreditReturn _ _ => Hdr.neutral
  | .teamRetire _ => Hdr.neutral
  | .teamEnd _ => Hdr.neutral
  | .combinerTeamArrival _ _ => Hdr.neutral
  | .combinerRelease _ _ => Hdr.neutral
  | .collectivePacket _ _ _ => Hdr.neutral
  | .collectiveDeadlineExpiry _ _ _ => Hdr.neutral
  | .collectiveRerun _ _ => Hdr.neutral
  | .memberLost _ _ _ => Hdr.neutral
  | .collectiveInstanceComplete _ _ => Hdr.neutral
  | .fabricTargetRequest _ _ => Hdr.neutral
  | .fabricRequestTimeout _ _ => Hdr.neutral
  | .bar2Request _ _ _ _ => Hdr.neutral
  | .pcieLinkDown _ _ => Hdr.neutral
  | .promotionRequest _ _ _ => Hdr.neutral
  | .walkStart _ _ => Hdr.neutral
  | .walkComplete _ _ => Hdr.neutral
  | .pageFaultServiceReply _ _ _ => Hdr.neutral
  | .icacheLineArrival _ _ => Hdr.neutral
  | .stagingComplete _ => Hdr.neutral
  | .readyAgeExpiry _ _ => Hdr.neutral
  | .yieldTimeout _ _ => Hdr.neutral
  | .registerScrub _ _ => Hdr.neutral
  | .accumScrub _ => Hdr.neutral
  | .uncorrectableStateError _ _ => Hdr.neutral
  | .residencySweep _ _ => Hdr.neutral
  | .turnaroundStart _ => Hdr.neutral
  | .moduleDrained _ _ => Hdr.neutral
  | .moduleDeadTimeExpiry _ _ => Hdr.neutral
  | .starvationGuard _ _ => Hdr.neutral
  | .doorbellStart _ _ _ => Hdr.neutral
  | .doorbellRefetch _ _ _ => Hdr.neutral
  | .recordPrefetch _ _ _ => Hdr.neutral
  | .recordReread _ _ _ => Hdr.neutral
  | .nopNode _ _ _ => Hdr.neutral
  | .kernelNode _ _ _ => Hdr.neutral
  | .launchRetry _ _ _ => Hdr.neutral
  | .launchWaitExpiry _ _ _ => Hdr.neutral
  | .copyNode _ _ _ => Hdr.neutral
  | .condNode _ _ _ => Hdr.neutral
  | .whileNode _ _ _ => Hdr.neutral
  | .signalNode _ _ _ => Hdr.neutral
  | .waitNode _ _ _ => Hdr.neutral
  | .waitNodeReread _ _ _ => Hdr.neutral
  | .nodeComplete _ _ _ => Hdr.neutral
  | .syscReply _ => Hdr.neutral
  | .squallReplay _ => Hdr.neutral
  | .preempt _ => Hdr.neutral
  | .resume _ => Hdr.neutral
  | .lullTakeover _ => Hdr.neutral
  | .hbmSliceWithdraw _ _ _ => Hdr.neutral
  | .vacateComplete _ _ => Hdr.neutral
  | .cxlSliceWithdraw _ _ _ _ => Hdr.neutral
  | .coreDrain _ => Hdr.neutral
  | .deviceReset _ => Hdr.neutral
  | .ringBind _ _ _ _ _ _ _ _ => Hdr.neutral
  | .ringUnbind _ _ _ => Hdr.neutral
  | .invalidate _ _ _ _ _ _ => Hdr.neutral
  | .partition _ _ _ _ _ => Hdr.neutral
  | .collSize _ _ _ => Hdr.neutral
  | .residencyWrite _ _ _ _ _ => Hdr.neutral
  | .cxlWindow _ _ _ _ _ _ _ => Hdr.neutral
  | .steerGrant _ _ _ _ => Hdr.neutral
  | .fwUpdate _ _ _ _ => Hdr.neutral
  | .attest _ _ _ _ => Hdr.neutral
  | .breakResume _ _ _ _ => Hdr.neutral
  | .notifyQueue _ _ _ _ => Hdr.neutral
  | .bar2Window _ _ _ _ => Hdr.neutral
  | .commandBadOpcode _ _ _ => Hdr.neutral
  | .registerWriteIgnored _ _ _ => Hdr.neutral
  | .pcieLinkUp _ _ => Hdr.neutral
  | .undefinedMajorOpcode _ => Hdr.neutral
  | .writeAcknowledgement _ _ => Hdr.neutral
  | .descriptorReadReturn _ => Hdr.neutral
  | .gatewayReset _ _ => Hdr.neutral
  | .linkBringUp _ _ => Hdr.neutral
  | .resizableBarSizeWrite _ _ => Hdr.neutral
  | .clockCycle _ => Hdr.neutral

/-! ## Operand fields -/

/-- The kinds of operand field (R48, R49, R137, R178, R192, R333). -/
inductive FK where
  /-- vector destination: v, zero, kv -/
  | vdst
  /-- load destination: v, kv -/
  | vload
  /-- vector destination of an engine: v -/
  | vdO
  /-- the same, or zero -/
  | vdO643
  /-- vector source: v, hl, zero, kv -/
  | vsrc
  /-- vector source or scalar broadcast -/
  | vsrcB
  /-- memory index or data: v, kv, zero, scalar broadcast -/
  | vmem
  /-- vector source of an engine: v -/
  | vsO
  /-- the same, or zero -/
  | vsO643
  /-- vector registers read and written: v -/
  | vrw
  | sdst
  | sdstO
  | ssrc
  | ssrcO
  | srw
  | asrc
  | adst
  | psrc
  | psrc643
  | pdst
  | pdst643
  /-- must hold 643 -/
  | none643
deriving DecidableEq, Repr

/-- The kinds that read a vector field. -/
def FK.isVSrc : FK → Bool
  | .vsrc | .vsrcB | .vmem | .vsO | .vsO643 | .vrw => true
  | _ => false

/-- The kinds that write a vector field. -/
def FK.isVDst : FK → Bool
  | .vdst | .vload | .vdO | .vdO643 | .vrw => true
  | _ => false

/-- The kinds that read a scalar field. -/
def FK.isSSrc : FK → Bool
  | .ssrc | .ssrcO | .srw => true
  | _ => false

/-- The kinds that write a scalar field. -/
def FK.isSDst : FK → Bool
  | .sdst | .sdstO | .srw => true
  | _ => false

/-- The kinds that read a field of any sort (R45). -/
def FK.isSource (k : FK) : Bool :=
  k.isVSrc || k.isSSrc || k == .asrc || k == .psrc || k == .psrc643

def isV (c : Nat) : Bool := c < 640
def isHl (c : Nat) : Bool := 640 ≤ c && c ≤ 642
def isKv (c : Nat) : Bool := 644 ≤ c && c ≤ 647
def isA (c : Nat) : Bool := 704 ≤ c && c ≤ 767
def isS (c : Nat) : Bool := 768 ≤ c && c ≤ 1023

/-- Whether a kind admits a code, in a warp of the given budget (R17, R48). -/
def FK.admits (k : FK) (budget c : Nat) : Bool :=
  let v := c < budget && isV c
  match k with
  | .vdst => v || c == 643 || isKv c
  | .vload => v || isKv c
  | .vdO | .vsO | .vrw => v
  | .vdO643 | .vsO643 => v || c == 643
  | .vsrc => v || isHl c || c == 643 || isKv c
  | .vsrcB => v || isHl c || c == 643 || isKv c || isS c
  | .vmem => v || c == 643 || isKv c || isS c
  | .sdst | .ssrc => c == 643 || isS c
  | .sdstO | .ssrcO | .srw => isS c
  | .asrc | .adst => isA c
  | .psrc | .pdst => c ≤ 14
  | .psrc643 | .pdst643 => c ≤ 14 || c == 643
  | .none643 => c == 643

/-- Whether a run of span codes from c stays in the register file it starts in. -/
def spanOk (k : FK) (budget c span : Nat) : Bool :=
  if isV c && (k.isVSrc || k.isVDst) then c + span ≤ budget
  else if isS c then c + span ≤ 1024
  else if isKv c then c + span ≤ 648
  else true

/-- A field of an instruction. pos is 0 for D and E0, 1 for A and E1, 2 for B, X and E2, 3 for C and
E3, and 4 for an operand that is no field of its own. fmt is the format a vector source must carry
(none: any tag, R113); consume says whether each lane that takes part consumes its word (R217). -/
structure Fld where
  pos : Nat
  code : Nat
  kind : FK
  span : Nat := 1
  fmt : Option (BitVec 4) := none
  consume : Bool := true
deriving DecidableEq, Repr

/-- A field of one register. -/
def fld (pos : Nat) (c : RCode) (k : FK) : Fld := { pos := pos, code := c.toNat, kind := k }

/-- A vector source that must carry a format. -/
def fldT (pos : Nat) (c : RCode) (k : FK) (t : BitVec 4) : Fld :=
  { pos := pos, code := c.toNat, kind := k, fmt := some t }

/-- A field of several consecutive registers. -/
def fldN (pos : Nat) (c : RCode) (k : FK) (n : Nat) : Fld :=
  { pos := pos, code := c.toNat, kind := k, span := n }

/-- The special registers of R190: width in words. -/
def spWords (n : Nat) : Option Nat :=
  if n == 0 || n == 1 || n == 2 || n == 3 || n == 4 || n == 0x10 || n == 0x30 || n == 0x40 ||
      (0x41 ≤ n && n ≤ 0x44) || n == 0x100 || (0x110 ≤ n && n ≤ 0x117) then some 1
  else if n == 0x20 || n == 0x101 then some 2
  else if n == 0x102 || n == 0x103 then some 3
  else none

/-- Registers of a memory access of WIDTH w (R339). -/
def widthRegs (w : BitVec 3) : Nat := if w == 4#3 then 4 else if w == 3#3 then 2 else 1

/-- Words of an accumulator access of WIDTH w (R374). -/
def accWords (w : BitVec 3) : Nat := if w == 4#3 then 4 else if w == 3#3 then 2 else 1

/-- The DATA register of an atomic, in OFFSET[23:14] (R342). -/
def FM.atomData (f : FM) : RCode := fieldOf f.offset 14 10

/-- Registers of an atomic's operand, compare and swap values included (R342). -/
def FM.atomRegs (f : FM) : Nat :=
  (if f.width == 3#3 then 2 else 1) * (if f.fn == 7#4 then 2 else 1)

/-- Planes (bits of an element) of an HS format (R122); 0 for the others. -/
def hsBits (fmt : BitVec 4) : Nat :=
  if fmt == 11#4 then 4 else if fmt == 12#4 then 8 else if fmt == 13#4 then 2 else 0

/-- The registers MLDA writes and names (R390): every one, or those of planes 0 to PL - 1. -/
def mldaRegs (fmt : BitVec 4) (pl : Nat) : Nat :=
  if hsBits fmt == 0 || pl == 0 then 8 else (8 / hsBits fmt) * pl

/-- A tag that marks an index: I32 or U32 pass for 0 (R113, R334). -/
def idxTag : BitVec 4 := 0#4

/-- The fields of a vector arithmetic instruction of two sources (R137, R159). -/
def vv2 (h : Hdr) (f : FV) : List Fld :=
  [fld 0 f.d .vdst, fldT 1 f.a .vsrc h.fmt, fldT 2 f.b .vsrcB h.fmt, fld 3 f.c .none643]

/-- The fields of a vector arithmetic instruction of three sources (R137, R159). -/
def vv3 (h : Hdr) (f : FV) : List Fld :=
  [fld 0 f.d .vdst, fldT 1 f.a .vsrc h.fmt, fldT 2 f.b .vsrcB h.fmt, fldT 3 f.c .vsrc h.fmt]

/-- The fields of a vector instruction of one source (R137, R159). -/
def vv1 (h : Hdr) (f : FV) : List Fld :=
  [fld 0 f.d .vdst, fldT 1 f.a .vsrc h.fmt, fld 2 f.b .none643, fld 3 f.c .none643]

/-- The fields of a scalar instruction of two sources (R178). -/
def ss2 (f : FV) : List Fld :=
  [fld 0 f.d .sdst, fld 1 f.a .ssrc, fld 2 f.b .ssrc, fld 3 f.c .none643]

/-- The fields of a scalar instruction of one source (R178). -/
def ss1 (f : FV) : List Fld :=
  [fld 0 f.d .sdst, fld 1 f.a .ssrc, fld 2 f.b .none643, fld 3 f.c .none643]

/-- Fields of format X that all hold 643 from position p. -/
def none643From (p : Nat) (f : FX) : List Fld :=
  (if p ≤ 0 then [fld 0 f.e0 .none643] else []) ++ (if p ≤ 1 then [fld 1 f.e1 .none643] else [])
    ++ (if p ≤ 2 then [fld 2 f.e2 .none643] else []) ++ [fld 3 f.e3 .none643]

/-- The source format of a conversion, FN[3:0] (R82, R159). -/
def cvtSrc (fn : BitVec 8) : BitVec 4 := fieldOf fn 0 4

/-- The scalar index field of a scalar memory access and the vector index of a vector one. -/
def xIdx (f : FM) (n : Nat) : Fld :=
  { pos := 2, code := f.x.toNat, kind := .vmem, span := n, fmt := some idxTag }

/-- The scalars of a matrix multiplication, which the leader of its gang alone reads (R380). -/
def mmaScalars (f : FV) : List Fld := [fld 0 f.d .ssrc, fld 2 f.b .ssrc, fld 3 f.c .ssrc]

/-- The operand fields of every instruction. The B field of 'an arithmetic instruction' admits a scalar broadcast where the
table writes 'vec' alone (R137, R159); which instructions are arithmetic the spec does not list: here VAND, VOR, VXOR,
VBOOL, VBFX, VBFI, VCMP, FCMP and VPACK are, VSEL and VPERM are not (DESIGN CHOICE; log 19). Of a sort, the values of E3
that MERGE reads may carry any tag, and E2's words are used though E3 is 643: R203 and R205 say neither (DESIGN CHOICE;
log 42). -/
def Instr.fields : Instr → List Fld
  | .nop _ _ | .pad _ _ | .bra _ _ | .call _ _ | .join _ _ | .ipref _ _ | .wset _ _ | .rep _ _ => []
  | .brx _ f | .callx _ f | .ret _ f => [fld 1 f.a .asrc]
  | .exit _ f | .yield _ f | .trap _ f | .eret _ f | .brk _ f => none643From 0 f
  | .plane _ f =>
    (if f.ctl.getLsbD 2 then
      [{ pos := 0, code := f.e0.toNat, kind := .vsO, fmt := some idxTag }]
     else [fld 0 f.e0 .none643]) ++ none643From 1 f
  | .regroup _ f =>
    { pos := 0, code := f.e0.toNat, kind := .vsO643, span := (fieldOf f.ctl 7 6).toNat + 1,
      consume := false } :: none643From 1 f
  | .sysc _ f =>
    fldN 0 f.e0 .ssrc (if (fieldOf f.ctl 0 8) == 1#8 then 2 else 1) :: none643From 1 f
  | .ksave _ f =>
    { pos := 0, code := f.e0.toNat, kind := .vsO, span := (fieldOf f.ctl 0 6).toNat + 1,
      consume := false } :: none643From 1 f
  | .kload _ f =>
    fldN 0 f.e0 .vdO ((fieldOf f.ctl 0 6).toNat + 1) :: none643From 1 f
  | .smov _ f | .spopc _ f | .sclz _ f => ss1 f
  | .smovi _ f => [fld 0 f.d .sdst, fld 1 f.a .none643]
  | .sadd _ f | .ssub _ f | .smul _ f | .smulh _ f | .sand _ f | .sor _ f | .sxor _ f | .sshl _ f
  | .sshr _ f | .ssar _ f | .smin _ f | .smax _ f | .scmp _ f => ss2 f
  | .ssel _ f => [fld 0 f.d .sdst, fld 1 f.a .ssrc, fld 2 f.b .ssrc, fld 3 f.c .ssrc]
  | .alea _ f => [fld 0 f.d .adst, fld 1 f.a .asrc, fld 2 f.x .ssrc]
  | .amov _ f =>
    (if f.fn == 1#8 then [fld 0 f.d .adst, fldN 1 f.a .ssrc 3]
     else if f.fn == 2#8 then [fldN 0 f.d .sdst 3, fld 1 f.a .asrc]
     else [fld 0 f.d .adst, fld 1 f.a .asrc]) ++ [fld 2 f.b .none643, fld 3 f.c .none643]
  | .amovi _ f => [fld 0 f.d .adst, fld 1 f.a .none643]
  | .ahi _ f => [fld 0 f.d .adst, fld 1 f.a .asrc]
  | .sld _ f => [fldN 0 f.d .sdstO (widthRegs f.width), fld 1 f.a .asrc, fld 2 f.x .ssrc]
  | .sst _ f => [fldN 0 f.d .ssrc (widthRegs f.width), fld 1 f.a .asrc, fld 2 f.x .ssrc]
  | .satom _ f =>
    [fldN 0 f.d .sdst (widthRegs f.width), fld 1 f.a .asrc, fld 2 f.x .ssrc,
     fldN 4 f.atomData .ssrc f.atomRegs]
  | .srd _ f =>
    fldN 0 f.e0 .sdst ((spWords (fieldOf f.ctl 0 12).toNat).getD 1) :: none643From 1 f
  | .swr _ f =>
    fldN 0 f.e0 .ssrc ((spWords (fieldOf f.ctl 0 12).toNat).getD 1) :: none643From 1 f
  | .pmov _ f =>
    (if f.fn == 1#8 then [fldN 0 f.d .sdst 3, fld 1 f.a .psrc]
     else if f.fn == 2#8 then [fld 0 f.d .pdst, fldN 1 f.a .ssrc 3]
     else if f.fn == 3#8 then [fld 0 f.d .pdst, fld 1 f.a .ssrc]
     else [fld 0 f.d .pdst, fld 1 f.a .psrc]) ++ [fld 2 f.b .none643, fld 3 f.c .none643]
  | .plog _ f =>
    [fld 0 f.d .pdst643, fld 1 f.a .psrc643, fld 2 f.b .psrc643, fld 3 f.c .psrc643]
  | .vmov _ f | .vtag _ f =>
    [fld 0 f.d .vdst, fld 1 f.a .vsrcB, fld 2 f.b .none643, fld 3 f.c .none643]
  | .vmovi _ f => [fld 0 f.d .vdst, fld 1 f.a .none643]
  | .vadd h f | .vsub h f | .vmul h f | .vmulh h f | .vabsd h f | .vmin h f | .vmax h f
  | .vshl h f | .vshr h f | .vsar h f | .vbfx h f => vv2 h f
  | .vmad h f | .vbfi h f => vv3 h f
  | .vand _ f | .vor _ f | .vxor _ f =>
    [fld 0 f.d .vdst, fld 1 f.a .vsrc, fld 2 f.b .vsrcB, fld 3 f.c .none643]
  | .vbool _ f => [fld 0 f.d .vdst, fld 1 f.a .vsrc, fld 2 f.b .vsrcB, fld 3 f.c .vsrc]
  | .vpopc h f | .vclz h f | .vbrev h f => vv1 h f
  | .vcmpReg h f =>
    [fld 0 f.d .pdst, fldT 1 f.a .vsrc h.fmt, fldT 2 f.b .vsrcB h.fmt, fld 3 f.c .none643]
  | .vcmpImm h f => [fld 0 f.d .pdst, fldT 1 f.a .vsrc h.fmt]
  | .vsel _ f =>
    [fld 0 f.d .vdst, { pos := 1, code := f.a.toNat, kind := .vsrc, consume := false },
     { pos := 2, code := f.b.toNat, kind := .vsrc, consume := false }, fld 3 f.c .psrc]
  | .vlane _ f =>
    [fld 0 f.d .vdst, { pos := 1, code := f.a.toNat, kind := .vsrc, consume := false },
     fld 2 f.b .ssrc, fld 3 f.c .none643]
  | .vperm _ f =>
    [fld 0 f.d .vdst, { pos := 1, code := f.a.toNat, kind := .vsrc, consume := false },
     fld 2 f.b .vsrc, fld 3 f.c .none643]
  | .qxch _ f =>
    [fld 0 f.d .vdst, { pos := 1, code := f.a.toNat, kind := .vsrc, consume := false },
     fld 2 f.b .none643, fld 3 f.c .none643]
  | .vred h f =>
    [fld 0 f.d .sdst, { pos := 1, code := f.a.toNat, kind := .vsrc, fmt := some h.fmt, consume := false },
     fld 2 f.b .none643, fld 3 f.c .none643]
  | .vscan h f =>
    [fld 0 f.d .vdst, { pos := 1, code := f.a.toNat, kind := .vsrc, fmt := some h.fmt, consume := false },
     fld 2 f.b .none643, fld 3 f.c .none643]
  | .vvote _ f =>
    [fldN 0 f.d .sdst (if f.fn == 3#8 then 3 else 1),
     { pos := 1, code := f.a.toNat, kind := .psrc, consume := false }, fld 2 f.b .none643,
     fld 3 f.c .none643]
  | .fadd h f | .fsub h f | .fmul h f | .fmin h f | .fmax h f => vv2 h f
  | .ffma h f => vv3 h f
  | .fcmp h f =>
    [fld 0 f.d .pdst, fldT 1 f.a .vsrc h.fmt, fldT 2 f.b .vsrcB h.fmt, fld 3 f.c .none643]
  | .fclass h f => [fld 0 f.d .pdst, fldT 1 f.a .vsrc h.fmt, fld 2 f.b .ssrc, fld 3 f.c .none643]
  | .frcp h f | .frsq h f | .fsqrt h f | .fexp2 h f | .flog2 h f | .fsin h f | .fcos h f
  | .frnd h f => vv1 h f
  | .fdot2 _ f =>
    [fld 0 f.d .vdst, fldT 1 f.a .vsrc (cvtSrc f.fn), fldT 2 f.b .vsrcB (cvtSrc f.fn),
     fldT 3 f.c .vsrc 6#4]
  | .vcvt _ f | .vunpk _ f =>
    [fld 0 f.d .vdst, fldT 1 f.a .vsrc (cvtSrc f.fn), fld 2 f.b .none643, fld 3 f.c .none643]
  | .vpack h f =>
    [fld 0 f.d .vdst, fldT 1 f.a .vsrc (cvtSrc f.fn), fldT 2 f.b .vsrcB (cvtSrc f.fn),
     fldT 3 f.c .vsrc h.fmt]
  | .xdec _ f =>
    [fld 0 f.e0 .vdO, { pos := 1, code := f.e1.toNat, kind := .vrw, span := 3, consume := true },
     fldN 2 f.e2 .srw 2, fldN 3 f.e3 .ssrcO 2]
  | .xscan h f =>
    let n := (fieldOf f.ctl 0 3).toNat + 1
    [fldN 0 f.e0 .vdO n,
     { pos := 1, code := f.e1.toNat, kind := .vsO, span := n, fmt := some h.fmt },
     fld 2 f.e2 .ssrc, fld 3 f.e3 .none643, { pos := 4, code := f.e2.toNat, kind := .sdst }]
  | .xsort h f =>
    [fld 0 f.e0 .vdO, fldT 1 f.e1 .vsO h.fmt, fld 2 f.e2 .vsO643, fld 3 f.e3 .vdO643]
  | .xtopk h f =>
    [fld 0 f.e0 .vdO, fldT 1 f.e1 .vsO h.fmt, fld 2 f.e2 .vsO643, fld 3 f.e3 .vdO643]
      ++ (if f.ctl.getLsbD 8 then
        [{ pos := 4, code := f.e0.toNat, kind := .vsO, fmt := some h.fmt, consume := false },
         { pos := 4, code := f.e3.toNat, kind := .vsO643, consume := false }] else [])
  | .xplane h f =>
    let k := hsBits h.fmt
    let dir := f.ctl.getLsbD 0
    let p := (fieldOf f.ctl 1 4).toNat
    [fldN 0 f.e0 .vdO k,
     { pos := 1, code := f.e1.toNat, kind := .vsO, span := if dir then p else k,
       fmt := if dir then none else some h.fmt, consume := false },
     fld 2 f.e2 .none643, fld 3 f.e3 .none643]
  | .vld _ f => [fldN 0 f.d .vload (widthRegs f.width), fld 1 f.a .asrc, xIdx f 1]
  | .vst _ f => [fldN 0 f.d .vmem (widthRegs f.width), fld 1 f.a .asrc, xIdx f 1]
  | .vldf _ f => [fldN 0 f.d .vload (widthRegs f.width), fld 1 f.a .asrc, xIdx f 2]
  | .vstf _ f => [fldN 0 f.d .vmem (widthRegs f.width), fld 1 f.a .asrc, xIdx f 2]
  | .vatom _ f =>
    [fldN 0 f.d .vdst (widthRegs f.width), fld 1 f.a .asrc, xIdx f 1,
     fldN 4 f.atomData .vmem f.atomRegs]
  | .vldsh _ f => [fldN 0 f.d .vload (widthRegs f.width), fld 1 f.a .ssrc, xIdx f 1]
  | .vstsh _ f => [fldN 0 f.d .vmem (widthRegs f.width), fld 1 f.a .ssrc, xIdx f 1]
  | .vatomsh _ f =>
    [fldN 0 f.d .vdst (widthRegs f.width), fld 1 f.a .ssrc, xIdx f 1,
     fldN 4 f.atomData .vmem f.atomRegs]
  | .ldacc _ f => [fldN 0 f.d .vload (accWords f.width), fld 1 f.a .ssrc, xIdx f 1]
  | .stacc _ f => [fldN 0 f.d .vmem (accWords f.width), fld 1 f.a .ssrc, xIdx f 1]
  | .vpref _ f => [fld 0 f.d .none643, fld 1 f.a .asrc, xIdx f 1]
  | .clred _ f | .clput _ f | .clget _ f =>
    [fldT 0 f.e0 .vsO idxTag, fldT 1 f.e1 .vsO idxTag, fldT 2 f.e2 .vsO idxTag, fld 3 f.e3 .asrc]
  | .mma h f | .mmap h f =>
    { pos := 1, code := f.a.toNat, kind := .vsO, span := 8, fmt := some h.fmt, consume := false } ::
      (mmaScalars f).map (fun x => { x with consume := false })
  | .mlda h f =>
    [fldN 0 f.e0 .vdO (mldaRegs h.fmt (fieldOf f.ctl 0 4).toNat), fld 1 f.e1 .ssrc,
     fld 2 f.e2 .ssrc, fld 3 f.e3 .none643]
  | .mzero _ f => [fld 0 f.e0 .ssrc, fld 1 f.e1 .ssrc, fld 2 f.e2 .none643, fld 3 f.e3 .none643]
  | .mgang _ f => [fld 3 f.e3 .none643]
  | .mbatch _ f => fld 0 f.e0 .sdst :: none643From 1 f
  | .mwait _ f => [fld 0 f.e0 .sdst, fld 1 f.e1 .ssrc, fld 2 f.e2 .none643, fld 3 f.e3 .none643]
  | .mcolm _ f => fldN 0 f.e0 .ssrc (if f.ctl.getLsbD 2 then 8 else 1) :: none643From 1 f
  | .tcopy _ f | .tstore _ f =>
    [fld 0 f.e0 .asrc, fldN 1 f.e1 .ssrcO 16, fld 2 f.e2 .ssrc, fld 3 f.e3 .none643]
  | .tgather _ f => [fld 0 f.e0 .asrc, fldN 1 f.e1 .ssrcO 16, fld 2 f.e2 .ssrc, fld 3 f.e3 .ssrc]
  | .tmcast _ f =>
    [fld 0 f.e0 .asrc, fldN 1 f.e1 .ssrcO 16, fld 2 f.e2 .ssrc, fldN 3 f.e3 .ssrcO 2]
  | .tpref _ f =>
    [fld 0 f.e0 .asrc, fldN 1 f.e1 .ssrcO 16, fld 2 f.e2 .none643, fld 3 f.e3 .none643]
  | .repart _ f => fld 0 f.e0 .asrc :: none643From 1 f
  | .veer _ f => [fld 0 f.e0 .sdst, fld 1 f.e1 .ssrc, fld 2 f.e2 .none643, fld 3 f.e3 .none643]
  | .fence _ f => [fld 0 f.d .none643, fld 1 f.a .none643, fld 2 f.x .none643]
  | .talloc _ f => [fld 0 f.e0 .sdst, fld 1 f.e1 .ssrc, fld 2 f.e2 .ssrc, fld 3 f.e3 .none643]
  | .tfree _ f | .trel _ f => fld 0 f.e0 .ssrc :: none643From 1 f
  | .tstat _ f => [fld 0 f.e0 .sdst, fld 1 f.e1 .ssrc, fld 2 f.e2 .none643, fld 3 f.e3 .none643]
  | .hqpush _ f | .csend _ f => fld 0 f.e0 .ssrc :: none643From 1 f
  | .hqpop _ f | .cpoll _ f => fld 0 f.e0 .sdst :: none643From 1 f
  | .crecv _ f => fld 0 f.e0 .sdst :: none643From 1 f
  | .hqtry _ f => fldN 0 f.e0 .sdstO 2 :: none643From 1 f
  | .binit _ f => [fld 0 f.e0 .ssrc, fld 1 f.e1 .ssrc, fld 2 f.e2 .none643, fld 3 f.e3 .none643]
  | .barv _ f => fld 0 f.e0 .sdst :: none643From 1 f
  | .bwait _ f | .bexp _ f => fld 0 f.e0 .ssrc :: none643From 1 f
  | .bsync _ f => fld 0 f.e0 .srw :: none643From 1 f
  | _ => []

/-! ## The rules of a form -/

/-- What a format V or I instruction honours: its formats, function codes and modifiers
(R50 to R53, R74). nm and am are masks over the fields A (4), B (2) and C (1). -/
structure MRule where
  fmtOk : Bool := true
  fnOk : Bool := true
  nm : Nat := 0
  am : Nat := 0
  srcFmt : BitVec 4 := 14#4
  scale : Bool := false
  clamps : List Nat := [0]
  rnd : Bool := false
  reuse : Bool := false

/-- A source modifier bit is clear where it is not honoured, or where the format is unsigned
(R52, R138, R160). -/
def modBit (bit : BitVec 1) (mask field : Nat) (srcFmt : BitVec 4) : Bool :=
  bit == 0#1 || (mask &&& field != 0 && srcFmt != 1#4 && srcFmt != 3#4 && srcFmt != 5#4)

/-- The modifiers of a format V word (R50, R52). -/
def MRule.okV (m : MRule) (f : FV) : Bool :=
  m.fmtOk && m.fnOk && modBit f.na m.nm 4 m.srcFmt && modBit f.aa m.am 4 m.srcFmt &&
  modBit f.nb m.nm 2 m.srcFmt && modBit f.ab m.am 2 m.srcFmt && modBit f.nc m.nm 1 m.srcFmt &&
  modBit f.ac m.am 1 m.srcFmt && m.clamps.contains f.clamp.toNat && (m.scale || f.scale == 0#4) &&
  (if m.rnd then f.rnd.toNat ≤ 4 else f.rnd == 4#3) && (m.reuse || f.reuse == 0#1) &&
  f.low == 0#8

/-- The modifiers of a format I word: no format I instruction honours any (R52, R53, R137, R178). -/
def MRule.okI (m : MRule) (f : FI) : Bool :=
  m.fmtOk && m.fnOk && f.na == 0#1 && f.aa == 0#1 && f.clamp == 0#2 && f.scale == 0#4 &&
  f.rnd == 4#3 && f.low == 0#1

/-- A rule that honours nothing. -/
def plainRule (fmtOk fnOk : Bool) : MRule := { fmtOk := fmtOk, fnOk := fnOk }

/-- Integer arithmetic with modifiers: N, A, SCALE, RND, CLAMP 0 and 3 (R137). -/
def intRule (h : Hdr) (f : FV) (mask : Nat) : MRule :=
  { fmtOk := h.fmt.toNat ≤ 5, fnOk := f.fn == 0#8, nm := mask, am := mask, srcFmt := h.fmt,
    scale := true, clamps := [0, 3], rnd := true }

/-- Floating arithmetic with every modifier (R159). -/
def fltRule (h : Hdr) (f : FV) (mask : Nat) : MRule :=
  { fmtOk := 6 ≤ h.fmt.toNat && h.fmt.toNat ≤ 8, fnOk := f.fn == 0#8, nm := mask, am := mask,
    srcFmt := h.fmt, scale := true, clamps := [0, 1, 2, 3], rnd := true }

def isIntFmt (f : BitVec 4) : Bool := f.toNat ≤ 5
def isFltFmt (f : BitVec 4) : Bool := 6 ≤ f.toNat && f.toNat ≤ 8

/-- The operation of VRED and VSCAN against its format (R78). -/
def redFmtOk (op : Nat) (fmt : BitVec 4) : Bool :=
  if op ≤ 2 then fmt.toNat ≤ 8 else op ≤ 5 && fmt == 14#4

/-- The elements of a word of a format (R109). -/
def fmtElems (f : BitVec 4) : Nat :=
  match f.toNat with
  | 2 | 3 | 7 | 8 => 2
  | 4 | 5 | 9 | 10 | 12 => 4
  | 11 => 8
  | 13 => 16
  | _ => 1

/-- The pairs VCVT accepts (R173). -/
def vcvtPair (s d : Nat) : Bool :=
  match s with
  | 6 => d == 0 || d == 1
  | 0 => d == 6 || d == 1
  | 1 => d == 6 || d == 0
  | 7 => d == 8 || d == 2 || d == 3
  | 8 => d == 7 || d == 2 || d == 3
  | 2 => d == 7 || d == 8 || d == 3
  | 3 => d == 7 || d == 8 || d == 2
  | 9 => d == 10
  | 10 => d == 9
  | 4 => d == 5 || d == 12
  | 5 => d == 4 || d == 12
  | 12 => d == 4 || d == 5
  | _ => false

/-- The pairs VPACK accepts (R173). -/
def vpackPair (s d : Nat) : Bool :=
  match s with
  | 6 => [7, 8, 2, 3, 9, 10, 4, 5, 12, 11, 13].contains d
  | 7 | 8 => [9, 10, 4, 5, 12, 11, 13].contains d
  | 0 | 1 => [2, 3, 4, 5].contains d
  | 2 | 3 => d == 4 || d == 5
  | 12 => d == 11 || d == 13
  | 11 => d == 13
  | _ => false

/-- The pairs VUNPK accepts (R173). -/
def vunpkPair (s d : Nat) : Bool :=
  match s with
  | 9 | 10 => d == 6 || d == 7 || d == 8
  | 12 => d == 6 || d == 7 || d == 8
  | 11 => d == 6 || d == 7 || d == 8 || d == 12
  | 13 => d == 6 || d == 7 || d == 8 || d == 12 || d == 11
  | 4 | 5 => [2, 3, 0, 1, 6, 7, 8].contains d
  | 2 | 3 => d == 6 || d == 0 || d == 1
  | 7 | 8 => d == 6
  | _ => false

/-- CTL holds no bit outside a mask (R55). -/
def ctlIn (f : FX) (mask : Nat) : Bool := f.ctl.toNat &&& mask == f.ctl.toNat

/-- The neutral memory fields of an address instruction. -/
def memNone (f : FM) : Bool :=
  f.fn == 0#4 && f.width == 0#3 && f.ord == 0#3 && f.scope == 0#3 && f.cache == 0#2

/-- ORD, SCOPE, ISH and WIDTH of a memory access (R54, R333, R347). -/
def memOk (f : FM) (widths ords : List Nat) (hasScope : Bool) (cacheMax : Nat) : Bool :=
  widths.contains f.width.toNat && ords.contains f.ord.toNat && f.ish.toNat ≤ 4 &&
  f.cache.toNat ≤ cacheMax &&
  (if hasScope then (if f.ord == 0#3 then f.scope == 0#3 else f.scope.toNat ≤ 4)
   else f.scope == 0#3)

/-- FMT of a load by width (R339). -/
def loadFmt (fmt : BitVec 4) (w : BitVec 3) : Bool :=
  if w.toNat ≤ 1 then fmt == 0#4 || fmt == 1#4 || fmt == 14#4 else fmt != 15#4

/-- FN, FMT and WIDTH of an atomic (R80, R343). -/
def atomOk (f : FM) (fmt : BitVec 4) : Bool :=
  let w3 := f.width == 3#3
  match f.fn.toNat with
  | 0 | 1 | 2 => fmt == 0#4 || fmt == 1#4
  | 3 | 4 | 5 => fmt == 14#4
  | 6 => fmt == 0#4 || fmt == 1#4 || fmt == 14#4 || (fmt == 6#4 && !w3)
  | 7 => fmt == 0#4 || fmt == 1#4 || fmt == 14#4
  | 8 | 9 | 10 => isFltFmt fmt && !w3
  | _ => false

/-- A reconvergence point: a slot 0 to 4, or none (R56). -/
def reconvOk (rslot : BitVec 3) (rline : BitVec 27) : Bool :=
  rslot.toNat ≤ 4 || (rslot == 7#3 && rline == 0#27)

/-- The ranges of a WSET: unused ones hold 1023 and length field 0; used ones lie below the budget,
do not overlap, and total at most 64 (R59). -/
def FW.ranges (f : FW) : List (RCode × BitVec 4) :=
  [(f.base0, f.len0), (f.base1, f.len1), (f.base2, f.len2), (f.base3, f.len3), (f.base4, f.len4)]

/-- The used ranges, as (first register, length). -/
def FW.used (f : FW) : List (Nat × Nat) :=
  (f.ranges.filter (fun r => r.1 != 1023#10)).map (fun r => (r.1.toNat, r.2.toNat + 1))

def rangesApart : List (Nat × Nat) → Bool
  | [] => true
  | r :: rs => rs.all (fun q => r.1 + r.2 ≤ q.1 || q.1 + q.2 ≤ r.1) && rangesApart rs

def FW.ok (f : FW) (budget : Nat) : Bool :=
  f.low == 0#2 && f.ranges.all (fun r => r.1 != 1023#10 || r.2 == 0#4) &&
  f.used.all (fun r => r.1 + r.2 ≤ 640 && r.1 + r.2 ≤ budget) && rangesApart f.used &&
  (f.used.map (·.2)).sum ≤ 64

/-- The S bit and step agree in a REP (R58). -/
def FP.ok (f : FP) : Bool :=
  f.low == 0#48 && (f.sd == 1#1 || f.stepD == 0#4) && (f.sa == 1#1 || f.stepA == 0#4) &&
  (f.sb == 1#1 || f.stepB == 0#4) && (f.sc == 1#1 || f.stepC == 0#4)

/-- CLRED's pairs of format and operation, and FRAC (R450). -/
def clredOk (fmt : BitVec 4) (op frac : Nat) : Bool :=
  let narrow := 9 ≤ fmt.toNat && fmt.toNat ≤ 13
  (if fmt == 14#4 then 3 ≤ op && op ≤ 5
   else (fmt == 0#4 || fmt == 1#4 || fmt == 6#4 || fmt == 7#4 || narrow) && op ≤ 2) &&
  (if narrow && op == 0 then frac ≤ 62 else frac == 0)

/-- MGANG's count and lists: entries at or beyond the count are 0 (R377). -/
def mgangIds (f : FX) : List Nat :=
  [(fieldOf f.ctl 0 6).toNat, (fieldOf f.ctl 8 6).toNat, (fieldOf f.ctl 16 6).toNat,
   (fieldOf f.ctl 24 6).toNat, f.e1.toNat, f.e2.toNat]

def mgangOk (f : FX) : Bool :=
  (f.e0 == 0#10 || (2 ≤ f.e0.toNat && f.e0.toNat ≤ 6)) && ctlIn f 0x3F3F3F3F &&
  (mgangIds f).all (· ≤ 47) && ((mgangIds f).drop f.e0.toNat).all (· == 0)

/-- MMA and MMAP: NA, NB, NC and REUSE are honoured, FN holds the mask and plane counts (R386). -/
def mmaRule (h : Hdr) (f : FV) (planes : Bool) : MRule :=
  { fmtOk := if planes then 11 ≤ h.fmt.toNat && h.fmt.toNat ≤ 13
      else 7 ≤ h.fmt.toNat && h.fmt.toNat ≤ 13,
    fnOk := if planes then (fieldOf f.fn 2 3).toNat + 1 ≤ hsBits h.fmt &&
        (fieldOf f.fn 5 3).toNat + 1 ≤ hsBits h.fmt
      else f.fn.toNat ≤ 3,
    nm := 7, reuse := true }

/-- The rules of an instruction's form beyond its operand fields and header. -/
def Instr.formOk (budget planes : Nat) : Instr → Bool
  | .nop _ b => b == 0#72
  | .pad _ f => f.tline == 0#32 && f.tslot == 0#3 && f.rline == 0#27 && f.rslot == 7#3
  | .bra _ f | .call _ f => f.tslot.toNat ≤ 4 && reconvOk f.rslot f.rline && f.tag == 0#7
  | .brx _ f | .callx _ f => reconvOk f.rslot f.rline && f.low == 0#25
  | .ret _ f => f.tag == 0#7 && f.rline == 0#27 && f.rslot == 7#3 && f.low == 0#25
  | .exit _ f | .yield _ f => f.ctl == 0#32
  | .join _ f => f.rslot.toNat ≤ 4 && f.tline == 0#32 && f.tslot == 0#3 && f.tag == 0#7
  | .plane _ f =>
    ctlIn f 7 && (if f.ctl.getLsbD 2 then fieldOf f.ctl 0 2 == 0#2
      else (fieldOf f.ctl 0 2).toNat < planes)
  | .regroup _ f => ctlIn f 0x1FFF && (f.e0 != 643#10 || fieldOf f.ctl 7 6 == 0#6)
  | .ipref _ f => f.tslot == 0#3 && f.rline == 0#27 && f.rslot == 7#3
  | .wset _ f => f.ok budget
  | .rep _ f => f.ok
  | .trap _ f | .brk _ f => ctlIn f 0xFFFF
  | .eret _ f => ctlIn f 1
  | .sysc _ f => f.ctl.toNat ≤ 2 && f.e0 != 1023#10
  | .ksave _ f | .kload _ f =>
    ctlIn f 0xFFF && (fieldOf f.ctl 6 6).toNat + (fieldOf f.ctl 0 6).toNat + 1 ≤ 64
  | .smov h f | .sand h f | .sor h f | .sxor h f | .sshl h f | .sshr h f | .ssar h f | .ssel h f
  | .spopc h f | .sclz h f => (plainRule (h.fmt == 14#4) (f.fn == 0#8)).okV f
  | .smovi h f | .amovi h f => (plainRule (h.fmt == 14#4) (f.fn == 0#8)).okI f
  | .sadd h f | .ssub h f | .smul h f | .smulh h f | .smin h f | .smax h f =>
    (plainRule (h.fmt.toNat ≤ 1) (f.fn == 0#8)).okV f
  | .scmp h f => (plainRule (h.fmt.toNat ≤ 1) (f.fn.toNat ≤ 5)).okV f
  | .alea h f => memNone f && f.ish.toNat ≤ 4 && h.fmt.toNat ≤ 1
  | .amov h f => (plainRule (h.fmt == 14#4) (f.fn.toNat ≤ 2)).okV f
  | .ahi h f =>
    (plainRule (h.fmt == 14#4) (f.fn == 0#8 || (f.fn == 1#8 && f.imm.toNat < 65536))).okI f
  | .sld h f => f.fn == 0#4 && memOk f [0, 1, 2, 3] [0, 1, 4] true 3 && loadFmt h.fmt f.width
  | .sst h f => f.fn == 0#4 && memOk f [0, 1, 2, 3] [0, 2, 4] true 3 && h.fmt == 14#4
  | .satom h f =>
    memOk f [2, 3] [1, 2, 3, 4] true 0 && atomOk f h.fmt &&
    (h.fmt == 0#4 || h.fmt == 1#4 || h.fmt == 6#4 || h.fmt == 14#4)
  | .srd h f | .swr h f =>
    ctlIn f 0xFFF && (spWords (fieldOf f.ctl 0 12).toNat).isSome && h.fmt == 14#4
  | .pmov h f => (plainRule (h.fmt == 14#4) (f.fn.toNat ≤ 3)).okV f
  | .plog h f => (plainRule (h.fmt == 14#4) true).okV f
  | .vmov h f | .vtag h f => (plainRule (h.fmt.toNat ≤ 14) (f.fn == 0#8)).okV f
  | .vmovi h f => (plainRule (h.fmt.toNat ≤ 14) (f.fn == 0#8)).okI f
  | .vadd h f | .vsub h f | .vmul h f | .vabsd h f => (intRule h f 6).okV f
  | .vmad h f => (intRule h f 7).okV f
  | .vmin h f | .vmax h f =>
    ({ fmtOk := isIntFmt h.fmt, fnOk := f.fn == 0#8, nm := 6, am := 6, srcFmt := h.fmt } : MRule).okV f
  | .vmulh h f | .vshl h f | .vshr h f | .vsar h f | .vpopc h f | .vclz h f | .vbrev h f =>
    (plainRule (isIntFmt h.fmt) (f.fn == 0#8)).okV f
  | .vand h f | .vor h f | .vxor h f | .vsel h f | .vlane h f | .vperm h f =>
    (plainRule (h.fmt == 14#4) (f.fn == 0#8)).okV f
  | .vbool h f | .qxch h f => (plainRule (h.fmt == 14#4) true).okV f
  | .vbfx h f | .vbfi h f => (plainRule (h.fmt.toNat ≤ 1) (f.fn == 0#8)).okV f
  | .vcmpReg h f => (plainRule (isIntFmt h.fmt) (f.fn.toNat ≤ 5)).okV f
  | .vcmpImm h f => (plainRule (isIntFmt h.fmt) (f.fn.toNat ≤ 5)).okI f
  | .vred h f => (plainRule true (f.fn.toNat ≤ 7 && redFmtOk f.fn.toNat h.fmt)).okV f
  | .vscan h f =>
    (plainRule true (f.fn.toNat ≤ 15 && redFmtOk (fieldOf f.fn 0 3).toNat h.fmt)).okV f
  | .vvote h f => (plainRule (h.fmt == 14#4) (f.fn.toNat ≤ 4)).okV f
  | .fadd h f | .fsub h f | .fmul h f => (fltRule h f 6).okV f
  | .ffma h f => (fltRule h f 7).okV f
  | .fmin h f | .fmax h f =>
    ({ fmtOk := isFltFmt h.fmt, fnOk := f.fn == 0#8, nm := 6, am := 6, srcFmt := h.fmt } : MRule).okV f
  | .fcmp h f =>
    ({ fmtOk := isFltFmt h.fmt, fnOk := f.fn.toNat ≤ 13, nm := 6, am := 6, srcFmt := h.fmt } : MRule).okV f
  | .fclass h f => (plainRule (isFltFmt h.fmt) (f.fn == 0#8)).okV f
  | .frcp h f | .fsqrt h f => (fltRule h f 4).okV f
  | .frsq h f | .fexp2 h f | .flog2 h f | .fsin h f | .fcos h f =>
    ({ fltRule h f 4 with rnd := false } : MRule).okV f
  | .frnd h f => ({ fltRule h f 4 with clamps := [0, 3] } : MRule).okV f
  | .fdot2 h f =>
    ({ fltRule h f 6 with fmtOk := h.fmt == 6#4, fnOk := f.fn == 7#8 || f.fn == 8#8 } : MRule).okV f
  | .vcvt h f =>
    ({ fltRule h f 4 with fmtOk := true, fnOk := vcvtPair f.fn.toNat h.fmt.toNat,
                          srcFmt := cvtSrc f.fn } : MRule).okV f
  | .vpack h f =>
    ({ fltRule h f 6 with
        fmtOk := true, srcFmt := cvtSrc f.fn,
        fnOk := vpackPair (cvtSrc f.fn).toNat h.fmt.toNat &&
          (fieldOf f.fn 4 4).toNat < fmtElems h.fmt / (2 * fmtElems (cvtSrc f.fn)) } : MRule).okV f
  | .vunpk h f =>
    ({ fltRule h f 4 with
        fmtOk := true, srcFmt := cvtSrc f.fn,
        fnOk := vunpkPair (cvtSrc f.fn).toNat h.fmt.toNat &&
          (fieldOf f.fn 4 4).toNat < fmtElems (cvtSrc f.fn) / fmtElems h.fmt } : MRule).okV f
  | .xdec h f =>
    ctlIn f 0xFF && fieldOf f.ctl 0 2 != 3#2 && h.fmt == 1#4 &&
    (f.e0.toNat < f.e1.toNat || f.e1.toNat + 2 < f.e0.toNat)
  | .xscan h f => ctlIn f 0xF && (h.fmt.toNat ≤ 1 || h.fmt == 6#4)
  | .xsort h f => ctlIn f 1 && (h.fmt.toNat ≤ 1 || h.fmt == 6#4) && f.e0 != f.e3
  | .xtopk h f =>
    ctlIn f 0x1FF && (h.fmt.toNat ≤ 1 || h.fmt == 6#4) && f.e0 != f.e3 &&
    (fieldOf f.ctl 0 7).toNat ≤ 95
  | .xplane h f =>
    let p := (fieldOf f.ctl 1 4).toNat
    ctlIn f 0x1F && hsBits h.fmt != 0 &&
    (if f.ctl.getLsbD 0 then 1 ≤ p && p ≤ hsBits h.fmt else p == 0)
  | .vld h f =>
    f.fn == 0#4 && memOk f [0, 1, 2, 3, 4] [0, 1, 4] true 3 && loadFmt h.fmt f.width
  | .vldf h f =>
    f.fn == 0#4 && memOk f [0, 1, 2, 3, 4] [0, 1, 4] true 3 && loadFmt h.fmt f.width &&
    !isKv f.x.toNat
  | .vst h f => f.fn == 0#4 && memOk f [0, 1, 2, 3, 4] [0, 2, 4] true 3 && h.fmt == 14#4
  | .vstf h f =>
    f.fn == 0#4 && memOk f [0, 1, 2, 3, 4] [0, 2, 4] true 3 && h.fmt == 14#4 && !isKv f.x.toNat
  | .vatom h f => memOk f [2, 3] [1, 2, 3, 4] true 0 && atomOk f h.fmt
  | .vldsh h f =>
    f.fn == 0#4 && memOk f [0, 1, 2, 3, 4] [0, 1, 4] false 0 && loadFmt h.fmt f.width
  | .vstsh h f => f.fn == 0#4 && memOk f [0, 1, 2, 3, 4] [0, 2, 4] false 0 && h.fmt == 14#4
  | .vatomsh h f => memOk f [2, 3] [1, 2, 3, 4] false 0 && atomOk f h.fmt
  | .ldacc h f =>
    f.fn == 0#4 && memOk f [2, 3, 4] [0] false 0 &&
    (h.fmt == 0#4 || h.fmt == 1#4 || h.fmt == 6#4 || h.fmt == 14#4)
  | .stacc h f => f.fn == 0#4 && memOk f [2, 3, 4] [0] false 0 && h.fmt == 14#4
  | .vpref h f => f.fn.toNat ≤ 2 && memOk f [0] [0] false 2 && h.fmt == 14#4
  | .clred h f => clredOk h.fmt (fieldOf f.ctl 0 3).toNat (fieldOf f.ctl 3 6).toNat
  | .clput h f | .clget h f => h.fmt == 14#4 && fieldOf f.ctl 0 9 == 0#9
  | .mma h f => (mmaRule h f false).okV f
  | .mmap h f => (mmaRule h f true).okV f
  | .mlda h f =>
    let pl := (fieldOf f.ctl 0 4).toNat
    ctlIn f 0xF && 7 ≤ h.fmt.toNat && h.fmt.toNat ≤ 13 && pl ≤ hsBits h.fmt &&
    f.e0.toNat + 8 ≤ budget
  | .mzero h f => f.ctl == 0#32 && h.fmt == 14#4
  | .mgang h f => mgangOk f && h.fmt == 14#4
  | .mbatch h f => f.ctl == 0#32 && h.fmt == 14#4
  | .mwait h f => ctlIn f 0xFFFF && (f.e1 == 643#10 || f.ctl == 0#32) && h.fmt == 14#4
  | .mcolm h f => ctlIn f 7 && (!f.ctl.getLsbD 2 || f.e0 != 643#10) && h.fmt == 14#4
  | .tcopy h f | .tstore h f => ctlIn f 0xFFF0FF && h.fmt == 14#4
  | .tgather h f => ctlIn f 0xFFFFFF && h.fmt == 14#4
  | .tmcast h f => ctlIn f 0xFFF0FF && h.fmt == 14#4
  | .tpref h f => ctlIn f 0x3000000 && (!f.ctl.getLsbD 25 || f.ctl.getLsbD 24) && h.fmt == 14#4
  | .repart h f => ctlIn f 0xFF && h.fmt == 14#4
  | .veer h f =>
    ctlIn f 0x1F && h.fmt == 14#4 &&
    (if f.e1 == 643#10 then 4 ≤ f.ctl.toNat && f.ctl.toNat ≤ 28 else f.ctl == 0#32)
  | .fence h f =>
    f.fn == 0#4 && f.width == 0#3 && f.ish == 0#3 && f.offset == 0#24 && f.cache == 0#2 &&
    f.scope.toNat ≤ 4 && 1 ≤ f.ord.toNat && f.ord.toNat ≤ 3 && h.fmt == 14#4
  | .talloc h f => ctlIn f 0x3F && h.fmt.toNat ≤ 14
  | .tfree h f | .tstat h f => f.ctl == 0#32 && h.fmt == 14#4
  | .trel h f => ctlIn f 1 && h.fmt == 14#4
  | .hqpush h f | .hqpop h f | .hqtry h f | .csend h f => ctlIn f 0xF && h.fmt == 14#4
  | .crecv h f =>
    ctlIn f 0x1F && h.fmt == 14#4 && (f.e0 == 643#10) == f.ctl.getLsbD 4
  | .cpoll h f => ctlIn f 0x1F && h.fmt == 14#4
  | .binit h f | .bexp h f => ctlIn f 0x7F && h.fmt == 14#4
  | .barv h f | .bwait h f | .bsync h f =>
    ctlIn f 0x77F && (fieldOf f.ctl 8 3).toNat ≤ 4 && h.fmt == 14#4
  | .undefinedMajorOpcode _ => false
  | _ => true

/-! ## The header -/

/-- The classes and formats in which a FEB bit or HOLD may be set: V, and A in I, and X in M
(R45, R46, R55, R334). The memory and address forms of class 001 and 100, and FENCE, are format M. -/
def Instr.febPos (i : Instr) : List Nat :=
  let op := i.opNum
  if op == 0x32 || op == 0xE0 then []
  else if (0x36 ≤ op && op ≤ 0x38) || (0x80 ≤ op && op ≤ 0x8A) then [2]
  else if op == 0x21 || op == 0x34 || op == 0x35 || op == 0x41 || op == 0x5F then [1]
  else if (0x20 ≤ op && op ≤ 0x33) || op == 0x3B || op == 0x3C || (0x40 ≤ op && op ≤ 0x73) ||
      op == 0xA0 || op == 0xA1 then [1, 2, 3]
  else []

/-- The field at a position. -/
def fieldAt (fs : List Fld) (pos : Nat) : Option Fld := fs.find? (fun f => f.pos == pos)

/-- A FEB bit is clear, or governs a source that is not a latch or zero (R45). -/
def febBitOk (i : Instr) (fs : List Fld) (pos : Nat) (bit : Bool) : Bool :=
  !bit || (i.febPos.contains pos &&
    match fieldAt fs pos with
    | some f => f.kind.isSource && !(isHl f.code || f.code == 643)
    | none => false)

/-- HOLD captures only a vector register or kv register that a field reads (R46, R334, R386). -/
def holdOk (i : Instr) (h : Hdr) (fs : List Fld) : Bool :=
  if h.holdSrc == 0#2 then h.holdEnt == 0#2
  else h.holdEnt != 3#2 && i.febPos.contains h.holdSrc.toNat && i.opNum != 0xA0 &&
    i.opNum != 0xA1 &&
    match fieldAt fs h.holdSrc.toNat with
    | some f =>
      f.kind.isVSrc && (isV f.code || (isKv f.code && f.kind != .vmem))
    | none => false

/-- PRED 15 carries PNEG 0; some instructions carry PRED 15 (R44, R213, R253, R192). -/
def predOk (i : Instr) (h : Hdr) : Bool :=
  (h.pred != 15#4 || h.pneg == 0#1) &&
  (h.pred == 15#4 || !([0x01, 0x08, 0x0B, 0x0D, 0x0E, 0x10, 0x12, 0x13, 0x14, 0x78].contains i.opNum))

/-- FMT 15 is never legal; class 000 carries FMT 14 (R47, R253, R213). -/
def fmtOk (i : Instr) (h : Hdr) : Bool :=
  h.fmt != 15#4 && (0x20 ≤ i.opNum || h.fmt == 14#4)

/-- The header of an instruction (R43 to R47). -/
def Instr.hdrOk (i : Instr) : Bool :=
  let h := Instr.hdr i
  let fs := Instr.fields i
  predOk i h && fmtOk i h && febBitOk i fs 1 (h.feb.getLsbD 2) && febBitOk i fs 2 (h.feb.getLsbD 1) &&
  febBitOk i fs 3 (h.feb.getLsbD 0) && holdOk i h fs

/-- Every operand code is one its field admits, with every register of its run in its file
(R48, R49, R334). -/
def Instr.fieldsOk (budget : Nat) (i : Instr) : Bool :=
  (Instr.fields i).all (fun f =>
    f.kind.admits budget f.code && (f.code == 643 || spanOk f.kind budget f.code f.span))

/-! ## REP -/

/-- A code moved by j steps (R58). -/
def stepCode (c : RCode) (on : BitVec 1) (step : BitVec 4) (j : Nat) : RCode :=
  if on == 1#1 then BitVec.ofInt 10 ((c.toNat : Int) + step.toInt * (j : Int)) else c

/-- The kind range a code lies in (R48, R58). -/
def codeRange (c : Nat) : Nat :=
  if isV c then 0 else if isHl c then 1 else if c == 643 then 2 else if isKv c then 3
  else if isA c then 5 else if isS c then 6 else 4

def FV.stepped (f : FV) (p : FP) (j : Nat) : FV :=
  { f with d := stepCode f.d p.sd p.stepD j, a := stepCode f.a p.sa p.stepA j,
           b := stepCode f.b p.sb p.stepB j, c := stepCode f.c p.sc p.stepC j }

def FI.stepped (f : FI) (p : FP) (j : Nat) : FI :=
  { f with d := stepCode f.d p.sd p.stepD j, a := stepCode f.a p.sa p.stepA j }

def FM.stepped (f : FM) (p : FP) (j : Nat) : FM :=
  { f with d := stepCode f.d p.sd p.stepD j, a := stepCode f.a p.sa p.stepA j,
           x := stepCode f.x p.sb p.stepB j }

/-- Repetition j of an instruction of format V, I or M; none for any other format (R58). -/
def Instr.stepped (p : FP) (j : Nat) : Instr → Option Instr
  | .smov h f => some (.smov h (f.stepped p j))
  | .smovi h f => some (.smovi h (f.stepped p j))
  | .sadd h f => some (.sadd h (f.stepped p j))
  | .ssub h f => some (.ssub h (f.stepped p j))
  | .smul h f => some (.smul h (f.stepped p j))
  | .smulh h f => some (.smulh h (f.stepped p j))
  | .sand h f => some (.sand h (f.stepped p j))
  | .sor h f => some (.sor h (f.stepped p j))
  | .sxor h f => some (.sxor h (f.stepped p j))
  | .sshl h f => some (.sshl h (f.stepped p j))
  | .sshr h f => some (.sshr h (f.stepped p j))
  | .ssar h f => some (.ssar h (f.stepped p j))
  | .smin h f => some (.smin h (f.stepped p j))
  | .smax h f => some (.smax h (f.stepped p j))
  | .scmp h f => some (.scmp h (f.stepped p j))
  | .ssel h f => some (.ssel h (f.stepped p j))
  | .spopc h f => some (.spopc h (f.stepped p j))
  | .sclz h f => some (.sclz h (f.stepped p j))
  | .alea h f => some (.alea h (f.stepped p j))
  | .amov h f => some (.amov h (f.stepped p j))
  | .amovi h f => some (.amovi h (f.stepped p j))
  | .ahi h f => some (.ahi h (f.stepped p j))
  | .sld h f => some (.sld h (f.stepped p j))
  | .sst h f => some (.sst h (f.stepped p j))
  | .satom h f => some (.satom h (f.stepped p j))
  | .pmov h f => some (.pmov h (f.stepped p j))
  | .plog h f => some (.plog h (f.stepped p j))
  | .vmov h f => some (.vmov h (f.stepped p j))
  | .vmovi h f => some (.vmovi h (f.stepped p j))
  | .vtag h f => some (.vtag h (f.stepped p j))
  | .vadd h f => some (.vadd h (f.stepped p j))
  | .vsub h f => some (.vsub h (f.stepped p j))
  | .vmul h f => some (.vmul h (f.stepped p j))
  | .vmulh h f => some (.vmulh h (f.stepped p j))
  | .vmad h f => some (.vmad h (f.stepped p j))
  | .vabsd h f => some (.vabsd h (f.stepped p j))
  | .vmin h f => some (.vmin h (f.stepped p j))
  | .vmax h f => some (.vmax h (f.stepped p j))
  | .vand h f => some (.vand h (f.stepped p j))
  | .vor h f => some (.vor h (f.stepped p j))
  | .vxor h f => some (.vxor h (f.stepped p j))
  | .vbool h f => some (.vbool h (f.stepped p j))
  | .vshl h f => some (.vshl h (f.stepped p j))
  | .vshr h f => some (.vshr h (f.stepped p j))
  | .vsar h f => some (.vsar h (f.stepped p j))
  | .vpopc h f => some (.vpopc h (f.stepped p j))
  | .vclz h f => some (.vclz h (f.stepped p j))
  | .vbrev h f => some (.vbrev h (f.stepped p j))
  | .vbfx h f => some (.vbfx h (f.stepped p j))
  | .vbfi h f => some (.vbfi h (f.stepped p j))
  | .vcmpReg h f => some (.vcmpReg h (f.stepped p j))
  | .vcmpImm h f => some (.vcmpImm h (f.stepped p j))
  | .vsel h f => some (.vsel h (f.stepped p j))
  | .vlane h f => some (.vlane h (f.stepped p j))
  | .vperm h f => some (.vperm h (f.stepped p j))
  | .qxch h f => some (.qxch h (f.stepped p j))
  | .vred h f => some (.vred h (f.stepped p j))
  | .vscan h f => some (.vscan h (f.stepped p j))
  | .vvote h f => some (.vvote h (f.stepped p j))
  | .fadd h f => some (.fadd h (f.stepped p j))
  | .fsub h f => some (.fsub h (f.stepped p j))
  | .fmul h f => some (.fmul h (f.stepped p j))
  | .ffma h f => some (.ffma h (f.stepped p j))
  | .fmin h f => some (.fmin h (f.stepped p j))
  | .fmax h f => some (.fmax h (f.stepped p j))
  | .fcmp h f => some (.fcmp h (f.stepped p j))
  | .fclass h f => some (.fclass h (f.stepped p j))
  | .frcp h f => some (.frcp h (f.stepped p j))
  | .frsq h f => some (.frsq h (f.stepped p j))
  | .fsqrt h f => some (.fsqrt h (f.stepped p j))
  | .fexp2 h f => some (.fexp2 h (f.stepped p j))
  | .flog2 h f => some (.flog2 h (f.stepped p j))
  | .fsin h f => some (.fsin h (f.stepped p j))
  | .fcos h f => some (.fcos h (f.stepped p j))
  | .frnd h f => some (.frnd h (f.stepped p j))
  | .fdot2 h f => some (.fdot2 h (f.stepped p j))
  | .vcvt h f => some (.vcvt h (f.stepped p j))
  | .vpack h f => some (.vpack h (f.stepped p j))
  | .vunpk h f => some (.vunpk h (f.stepped p j))
  | .vld h f => some (.vld h (f.stepped p j))
  | .vst h f => some (.vst h (f.stepped p j))
  | .vldf h f => some (.vldf h (f.stepped p j))
  | .vstf h f => some (.vstf h (f.stepped p j))
  | .vatom h f => some (.vatom h (f.stepped p j))
  | .vldsh h f => some (.vldsh h (f.stepped p j))
  | .vstsh h f => some (.vstsh h (f.stepped p j))
  | .vatomsh h f => some (.vatomsh h (f.stepped p j))
  | .ldacc h f => some (.ldacc h (f.stepped p j))
  | .stacc h f => some (.stacc h (f.stepped p j))
  | .vpref h f => some (.vpref h (f.stepped p j))
  | .mma h f => some (.mma h (f.stepped p j))
  | .mmap h f => some (.mmap h (f.stepped p j))
  | .fence h f => some (.fence h (f.stepped p j))
  | _ => none

/-- An S bit names a register field of the prefixed instruction (R58). The spec does not say whether a predicate field is
one; it counts as one here, so that a REP may step it (DESIGN CHOICE; log 31). -/
def repFieldOk (fs : List Fld) (pos : Nat) (on : BitVec 1) : Bool :=
  on == 0#1 || match fieldAt fs pos with
    | some f => f.kind != .none643
    | none => false

/-- No repetition moves a code outside the kind range it started in (R58). -/
def repRangeOk (fs gs : List Fld) : Bool :=
  fs.all (fun f => match fieldAt gs f.pos with
    | some g => codeRange f.code == codeRange g.code
    | none => false)

end Sys2Proof
end

