-- ==== Sys2Proof/Machine/Float.lean ====
section
/-!
DEFINITION. Machine/Float.lean: number formats, exact values, and the one rounding that ends every
floating-point operation (R109 to R124, R162 to R173).
A value is a NaN, an infinity, or sign * m * 2^e with m a natural number; a zero keeps its sign.
-/

namespace Sys2Proof.Machine

open Sys2Proof

/-- The exact values floating-point work is done in (R121). -/
inductive FVal where
  | nan (signalling : Bool)
  | inf (neg : Bool)
  | fin (neg : Bool) (m : Nat) (e : Int)
deriving DecidableEq, Repr

/-! ## Flags -/

/-- The five flags in the bit order of FXA: NV, DZ, OF, UF, NX (R132). -/
abbrev FFlags := BitVec 5

def flagNV : FFlags := 0x01#5
def flagDZ : FFlags := 0x02#5
def flagOF : FFlags := 0x04#5
def flagUF : FFlags := 0x08#5
def flagNX : FFlags := 0x10#5

/-- A flag when a condition holds. -/
def flagIf (c : Bool) (f : FFlags) : FFlags := if c then f else 0#5

/-! ## Elements of a word -/

/-- The width of an element of a format (R109). -/
def fmtWidth (f : BitVec 4) : Nat := 32 / fmtElems f

/-- Element e of a word of w-bit elements (R110). -/
def elemBits (w : Nat) (x : Word) (e : Nat) : Nat := (x.toNat >>> (w * e)) % 2 ^ w

/-- A word from its elements, element 0 lowest (R110). -/
def packElems (w : Nat) : List Nat → Nat
  | [] => 0
  | x :: xs => x % 2 ^ w + 2 ^ w * packElems w xs

/-- A word whose element e is g e (R110). -/
def mapElems (w n : Nat) (g : Nat → Nat) : Word :=
  BitVec.ofNat 32 (packElems w ((List.range n).map g))

/-- A w-bit value read as two's complement. -/
def signedOf (w v : Nat) : Int := if v < 2 ^ (w - 1) then (v : Int) else (v : Int) - 2 ^ w

/-- Whether an integer format is signed (R109). -/
def fmtSigned (f : BitVec 4) : Bool := f == 0#4 || f == 2#4 || f == 4#4

/-- An integer element, signed or unsigned by its format (R143). -/
def intOf (f : BitVec 4) (v : Nat) : Int := if fmtSigned f then signedOf (fmtWidth f) v else v

/-- The least value of an integer format. -/
def intLo (f : BitVec 4) : Int := if fmtSigned f then -(2 ^ (fmtWidth f - 1)) else 0

/-- The greatest value of an integer format. -/
def intHi (f : BitVec 4) : Int :=
  if fmtSigned f then 2 ^ (fmtWidth f - 1) - 1 else 2 ^ fmtWidth f - 1

/-- The two's-complement bits of an integer in w bits. -/
def bitsOfInt (w : Nat) (x : Int) : Nat := (x % (2 ^ w : Int)).toNat

/-- x limited to [lo, hi] (R121). -/
def satInt (x lo hi : Int) : Int := if x < lo then lo else if x > hi then hi else x

/-! ## Floating-point formats -/

/-- A floating-point format: width, fraction bits, exponent bits, bias (R115, R116). -/
structure FFmt where
  width : Nat
  frac : Nat
  exp : Nat
  bias : Nat
deriving DecidableEq, Repr

/-- The layout of a format code (R109, R115, R116); F32 where the code is not floating. -/
def ffmt (f : BitVec 4) : FFmt :=
  match f.toNat with
  | 7 => { width := 16, frac := 7, exp := 8, bias := 127 }
  | 8 => { width := 16, frac := 10, exp := 5, bias := 15 }
  | 9 => { width := 8, frac := 3, exp := 4, bias := 7 }
  | 10 => { width := 8, frac := 2, exp := 5, bias := 15 }
  | _ => { width := 32, frac := 23, exp := 8, bias := 127 }

/-- Precision in bits, the hidden bit included (R121). -/
def FFmt.p (f : FFmt) : Nat := f.frac + 1

/-- The exponent of the spacing of the subnormal grid (R121). -/
def FFmt.qmin (f : FFmt) : Int := 1 - (f.bias : Int) - (f.frac : Int)

/-- Whether the format is E4M3, which has no infinity (R116). -/
def FFmt.isE4M3 (f : FFmt) : Bool := f.exp == 4

/-- The mantissa and exponent of the largest finite value (R115, R116). -/
def FFmt.maxM (f : FFmt) : Nat := if f.isE4M3 then 14 else 2 ^ f.p - 1
def FFmt.maxE (f : FFmt) : Int :=
  if f.isE4M3 then 5 else (2 ^ f.exp - 2 : Int) - (f.bias : Int) - (f.frac : Int)

/-- The canonical quiet NaN (R117). -/
def FFmt.qnan (f : FFmt) : Nat :=
  if f.isE4M3 then 0x7F else (2 ^ f.exp - 1) * 2 ^ f.frac + 2 ^ (f.frac - 1)

/-- The sign bit as a number. -/
def FFmt.sign (f : FFmt) (neg : Bool) : Nat := if neg then 2 ^ (f.width - 1) else 0

/-- The bits of an infinity (R115, R116). -/
def FFmt.infBits (f : FFmt) (neg : Bool) : Nat := f.sign neg + (2 ^ f.exp - 1) * 2 ^ f.frac

/-- The bits of the largest finite value of a sign. -/
def FFmt.maxBits (f : FFmt) (neg : Bool) : Nat :=
  f.sign neg + (if f.isE4M3 then 0x7E else (2 ^ f.exp - 1) * 2 ^ f.frac - 1)

/-- The value of a floating-point element (R115 to R117). -/
def FFmt.decode (f : FFmt) (b : Nat) : FVal :=
  let neg := b / 2 ^ (f.width - 1) % 2 == 1
  let ex := b / 2 ^ f.frac % 2 ^ f.exp
  let fr := b % 2 ^ f.frac
  if f.isE4M3 then
    if ex == 15 && fr == 7 then .nan false
    else if ex == 0 then .fin neg fr f.qmin
    else .fin neg (fr + 8) (f.qmin + (ex : Int) - 1)
  else if ex == 2 ^ f.exp - 1 then
    if fr == 0 then .inf neg else .nan (fr / 2 ^ (f.frac - 1) == 0)
  else if ex == 0 then .fin neg fr f.qmin
  else .fin neg (fr + 2 ^ f.frac) (f.qmin + (ex : Int) - 1)

/-- The number of bits of a natural number. -/
def bitLen (m : Nat) : Nat := if m = 0 then 0 else Nat.log2 m + 1

/-- The bits of a value n * 2^q that the format represents (R121). -/
def FFmt.encode (f : FFmt) (neg : Bool) (n : Nat) (q : Int) : Nat :=
  if n = 0 then f.sign neg
  else
    -- bring n to p bits, or to the subnormal grid
    let top := (bitLen n : Int) + q
    let g := max f.qmin (top - (f.p : Int))
    let m := if q ≥ g then n * 2 ^ (q - g).toNat else n / 2 ^ (g - q).toNat
    if m < 2 ^ f.frac then f.sign neg + m
    else f.sign neg + ((g - f.qmin).toNat + 1) * 2 ^ f.frac + (m - 2 ^ f.frac)

/-! ## Rounding -/

/-- m * 2^e rounded to a multiple of 2^q under RND: the multiple and whether it is exact
(R119; 0 nearest even, 1 toward zero, 2 up, 3 down, 4 as 0). -/
def roundGrid (neg : Bool) (m : Nat) (e q : Int) (rnd : Nat) : Nat × Bool :=
  if e ≥ q then (m * 2 ^ (e - q).toNat, true)
  else
    let s := (q - e).toNat
    let n := m / 2 ^ s
    let r := m % 2 ^ s
    if r = 0 then (n, true)
    else
      let up := match rnd with
        | 1 => false
        | 2 => !neg
        | 3 => neg
        | _ => 2 * r > 2 ^ s || (2 * r == 2 ^ s && n % 2 == 1)
      (if up then n + 1 else n, false)

/-- Compare m * 2^e with n * 2^q: whether the first is greater. -/
def mgGt (m : Nat) (e : Int) (n : Nat) (q : Int) : Bool :=
  if e ≥ q then m * 2 ^ (e - q).toNat > n else m > n * 2 ^ (q - e).toNat

/-- What an infinity, or a finite value beyond the range, is delivered as (R120). -/
def FFmt.special (f : FFmt) (neg source : Bool) (rnd clamp : Nat) : Nat :=
  let toInf := match rnd with
    | 1 => false
    | 2 => !neg
    | 3 => neg
    | _ => true
  if clamp == 3 then f.maxBits neg
  else if f.width == 8 && rnd == 4 then f.maxBits neg
  else if f.isE4M3 then (if toInf then f.qnan else f.maxBits neg)
  else if source || toInf then f.infBits neg
  else f.maxBits neg

/-- to_fmt of R121: an exact value in a format, with the flags it sets. -/
def toFmt (x : FVal) (fmt : BitVec 4) (rnd clamp : Nat) : Nat × FFlags :=
  let f := ffmt fmt
  match x with
  | .nan s => (f.qnan, flagIf s flagNV)
  | .inf neg => (f.special neg true rnd clamp, 0#5)
  | .fin neg m e =>
    if m = 0 then (f.sign neg, 0#5)
    else
      let qu := (bitLen m : Int) + e - (f.p : Int)
      let q := max f.qmin qu
      let (n, exact) := roundGrid neg m e q rnd
      let (nu, _) := roundGrid neg m e qu rnd
      let tiny := mgGt 1 (1 - (f.bias : Int)) nu qu
      let fl := flagIf (!exact) flagNX ||| flagIf (!exact && tiny) flagUF
      if mgGt n q f.maxM f.maxE then
        (f.special neg false rnd clamp, fl ||| flagOF ||| flagNX)
      else (f.encode neg n q, fl)

/-! ## Exact arithmetic -/

/-- The absolute value and the negation of a source, on the sign alone (R51). -/
def FVal.neg : FVal → FVal
  | .nan s => .nan s
  | .inf b => .inf (!b)
  | .fin b m e => .fin (!b) m e

def FVal.abs : FVal → FVal
  | .nan s => .nan s
  | .inf _ => .inf false
  | .fin _ m e => .fin false m e

/-- The modifiers A, then N, of a source (R51). -/
def fmods (a n : BitVec 1) (x : FVal) : FVal :=
  let y := if a == 1#1 then x.abs else x
  if n == 1#1 then y.neg else y

/-- Whether a value is a signalling NaN. -/
def FVal.isSnan : FVal → Bool
  | .nan s => s
  | _ => false

def FVal.isNan : FVal → Bool
  | .nan _ => true
  | _ => false

/-- The signed mantissa of a finite value on the grid 2^q, q at most its exponent. -/
def gridInt (neg : Bool) (m : Nat) (e q : Int) : Int :=
  let v : Int := (m * 2 ^ (e - q).toNat : Nat)
  if neg then -v else v

/-- A NaN result with the flags R163 gives: NV when a source is signalling. -/
def quietNan : FVal := .nan false

/-- The exact sum of a list of terms, its flags, and the sign of an exact zero by RND
(R118, R163, R168, R388): NaN when a term is one; NV for infinities of both signs, whatever the other terms are. -/
def sumVals (xs : List FVal) (rnd : Nat) : FVal × FFlags :=
  let pinf := xs.any (fun x => x == .inf false)
  let ninf := xs.any (fun x => x == .inf true)
  if xs.any FVal.isNan then (quietNan, flagIf (xs.any FVal.isSnan || (pinf && ninf)) flagNV)
  else
    if pinf && ninf then (quietNan, flagNV)
    else if pinf then (.inf false, 0#5)
    else if ninf then (.inf true, 0#5)
    else
      let q := xs.foldl (fun q x => match x with | .fin _ _ e => min q e | _ => q) (0 : Int)
      let s := xs.foldl (fun s x => match x with | .fin b m e => s + gridInt b m e q | _ => s) (0 : Int)
      if s = 0 then
        let allNeg := xs.all (fun x => match x with | .fin b _ _ => b | _ => false)
        let allPos := xs.all (fun x => match x with | .fin b _ _ => !b | _ => true)
        (.fin (if allNeg then true else if allPos then false else rnd == 3) 0 q, 0#5)
      else (.fin (s < 0) s.natAbs q, 0#5)

/-- The exact product (R162, R163): infinity times zero is a NaN with NV. -/
def mulVals (x y : FVal) : FVal × FFlags :=
  match x, y with
  | .nan s, z => (quietNan, flagIf (s || z.isSnan) flagNV)
  | _, .nan s => (quietNan, flagIf s flagNV)
  | .inf b, .inf c => (.inf (b != c), 0#5)
  | .inf b, .fin c m _ => if m = 0 then (quietNan, flagNV) else (.inf (b != c), 0#5)
  | .fin b m _, .inf c => if m = 0 then (quietNan, flagNV) else (.inf (b != c), 0#5)
  | .fin b m e, .fin c n g => (.fin (b != c) (m * n) (e + g), 0#5)

/-- The exact sum of products and a value; flags of the products and of the sum are joined, and a
signalling NaN anywhere sets NV (R163, R168). -/
def dotVals (c : FVal) (ps : List (FVal × FVal)) (rnd : Nat) : FVal × FFlags :=
  let ms := ps.map (fun p => mulVals p.1 p.2)
  let pf := ms.foldl (fun a m => a ||| m.2) 0#5
  let (s, sf) := sumVals (c :: ms.map (·.1)) rnd
  (s, pf ||| sf ||| flagIf c.isSnan flagNV)

/-- x * 2^k, exact (R51). -/
def scaleVal (k : Int) : FVal → FVal
  | .fin b m e => .fin b m (e + k)
  | x => x

/-- Whether a finite value lies below (or is) another: x < y. -/
def FVal.lt : FVal → FVal → Bool
  | .nan _, _ => false
  | _, .nan _ => false
  | .inf a, .inf b => a && !b
  | .inf a, .fin _ _ _ => a
  | .fin _ _ _, .inf b => !b
  | .fin a m e, .fin b n g => let q := min e g; gridInt a m e q < gridInt b n g q

/-- Ordered equality; +0 equals -0 (R75). -/
def FVal.eqv : FVal → FVal → Bool
  | .nan _, _ => false
  | _, .nan _ => false
  | x, y => !x.lt y && !y.lt x

/-- CLAMP 1 and 2 of R51: a NaN is left, an infinity goes to the interval's end. -/
def clampVal (clamp : Nat) (x : FVal) : FVal :=
  if clamp == 1 then
    if x.lt (.fin false 0 0) then .fin false 0 0
    else if (FVal.fin false 1 0).lt x then .fin false 1 0 else x
  else if clamp == 2 then
    if x.lt (.fin true 1 0) then .fin true 1 0
    else if (FVal.fin false 1 0).lt x then .fin false 1 0 else x
  else x

/-! ## Integer and half-step results -/

/-- m * 2^e with sign rounded to an integer under RND, 4 as 0 (R143, R172). -/
def roundInt (neg : Bool) (m : Nat) (e : Int) (rnd : Nat) : Int × Bool :=
  let (n, exact) := roundGrid neg m e 0 rnd
  (if neg then -(n : Int) else n, exact)

/-- An exact value in an integer format, saturated (R120, R172). -/
def toIntFmt (x : FVal) (fmt : BitVec 4) (rnd : Nat) : Nat × FFlags :=
  let w := fmtWidth fmt
  match x with
  | .nan _ => (0, flagNV)
  | .inf neg => (bitsOfInt w (if neg then intLo fmt else intHi fmt), flagNV)
  | .fin neg m e =>
    let (n, exact) := roundInt neg m e rnd
    let y := satInt n (intLo fmt) (intHi fmt)
    (bitsOfInt w y, if y != n then flagNV ||| flagOF ||| flagNX else flagIf (!exact) flagNX)

/-- The floor of s * 2^e for a signed mantissa. -/
def floorInt (neg : Bool) (m : Nat) (e : Int) : Int :=
  if e ≥ 0 then gridInt neg m e 0
  else
    let d : Int := 2 ^ (-e).toNat
    (if neg then -(m : Int) else m) / d

/-- The half-step code of an exact value under RND, before saturation, and whether it is exact
(R123): the neighbours of x are floor(x - 1/2) and the code above it. -/
def halfStep (neg : Bool) (m : Nat) (e : Int) (rnd : Nat) : Int × Bool :=
  -- work with 2x = s * 2^(e+1): half steps are the odd values of 2x
  let f2 := floorInt neg m (e + 1)
  let whole2 := e + 1 ≥ 0 || m % 2 ^ (-(e + 1)).toNat == 0
  if whole2 && f2 % 2 == 1 then ((f2 - 1) / 2, true)
  else
    -- x lies strictly between two half steps lo + 1/2 and lo + 3/2, or is the integer lo + 1
    let lo := (f2 - 1) / 2
    let isInt := whole2
    let nearLo : Bool :=
      -- distance to lo + 1/2 smaller: x < lo + 1, that is floor(2x) < 2 lo + 2
      f2 < 2 * lo + 2
    let c := match rnd with
      | 2 => lo + 1
      | 3 => lo
      | 1 =>
        if lo == -1 then (if neg then lo else lo + 1)
        else if lo ≥ 0 then lo else lo + 1
      | _ => if isInt then (if lo % 2 == 0 then lo else lo + 1)
             else if nearLo then lo else lo + 1
    (c, false)

/-- An exact value in an HS format, saturated (R120, R123, R172). -/
def toHsFmt (x : FVal) (fmt : BitVec 4) (rnd : Nat) : Nat × FFlags :=
  let k := hsBits fmt
  let lo : Int := -(2 ^ (k - 1))
  let hi : Int := 2 ^ (k - 1) - 1
  match x with
  | .nan _ => (0, flagNV)
  | .inf neg => (bitsOfInt k (if neg then lo else hi), flagNV)
  | .fin neg m e =>
    let (c, exact) := halfStep neg m e rnd
    let y := satInt c lo hi
    (bitsOfInt k y, if y != c then flagNV ||| flagOF ||| flagNX else flagIf (!exact) flagNX)

/-- The exact value of an element of any format (R110, R122, R172). -/
def elemVal (fmt : BitVec 4) (b : Nat) : FVal :=
  if hsBits fmt != 0 then
    let v := 2 * signedOf (hsBits fmt) b + 1
    .fin (v < 0) v.natAbs (-1)
  else if isIntFmt fmt then
    let v := intOf fmt b
    .fin (v < 0) v.natAbs 0
  else if fmt == 14#4 then .fin false b 0
  else (ffmt fmt).decode b

/-- An exact value in any format (R172): one rounding, saturation by R120. -/
def cvtVal (x : FVal) (fmt : BitVec 4) (rnd clamp : Nat) : Nat × FFlags :=
  if hsBits fmt != 0 then toHsFmt x fmt rnd
  else if isIntFmt fmt then toIntFmt x fmt rnd
  else toFmt x fmt rnd clamp

/-- SCALE, CLAMP 1 and 2, then the rounding (R51, R162, R172). -/
def finishVal (x : FVal) (fmt : BitVec 4) (scale : Int) (clamp rnd : Nat) : Nat × FFlags :=
  cvtVal (clampVal clamp (scaleVal scale x)) fmt rnd clamp

/-! ## Minimum, maximum, comparison, class -/

/-- x below y, with -0 below +0 (R164). -/
def FVal.ltz (x y : FVal) : Bool :=
  match x, y with
  | .fin a m _, .fin b n _ => if m = 0 && n = 0 then a && !b else x.lt y
  | _, _ => x.lt y

/-- FMIN (max = false) and FMAX on element bits: the result is one of the sources (R164). -/
def minMax (fmt : BitVec 4) (isMax : Bool) (x y : FVal) : Nat × FFlags :=
  let fl := flagIf (x.isSnan || y.isSnan) flagNV
  let pick (v : FVal) : Nat := (toFmt v fmt 0 0).1
  match x.isNan, y.isNan with
  | true, true => ((ffmt fmt).qnan, fl)
  | true, false => (pick y, fl)
  | false, true => (pick x, fl)
  | false, false =>
    let less := x.ltz y
    (if isMax then (if less then pick y else pick x) else (if y.ltz x then pick y else pick x), fl)

/-- A floating-point comparison and its NV (R75, R133). -/
def fcmpVal (cond : Nat) (x y : FVal) : Bool × FFlags :=
  let uno := x.isNan || y.isNan
  let res := match cond with
    | 0 => x.eqv y
    | 1 => !uno && !x.eqv y
    | 2 => x.lt y
    | 3 => !uno && !y.lt x
    | 4 => y.lt x
    | 5 => !uno && !x.lt y
    | 6 => !uno
    | 7 => uno
    | 8 => uno || x.eqv y
    | 9 => uno || !x.eqv y
    | 10 => uno || x.lt y
    | 11 => uno || !y.lt x
    | 12 => uno || y.lt x
    | _ => uno || !x.lt y
  let anyNan := (2 ≤ cond && cond ≤ 5) || 10 ≤ cond
  (res, flagIf (x.isSnan || y.isSnan || (anyNan && uno)) flagNV)

/-- The class bit of an element (R166). -/
def classBit (fmt : BitVec 4) (b : Nat) : Nat :=
  let f := ffmt fmt
  match f.decode b with
  | .nan s => if s then 0 else 1
  | .inf neg => if neg then 2 else 9
  | .fin neg m _ =>
    let sub := b / 2 ^ f.frac % 2 ^ f.exp == 0
    if m = 0 then (if neg then 5 else 6)
    else if sub then (if neg then 4 else 7)
    else (if neg then 3 else 8)

/-- An integer comparison (R75). -/
def icmpVal (cond : Nat) (x y : Int) : Bool :=
  match cond with
  | 0 => x == y
  | 1 => x != y
  | 2 => x < y
  | 3 => x ≤ y
  | 4 => x > y
  | _ => x ≥ y

/-! ## Special functions -/

/-- The integer square root by bits, from bit k downward. -/
def isqrtGo (n : Nat) : Nat → Nat → Nat
  | 0, r => r
  | k + 1, r => let c := r + 2 ^ k; isqrtGo n k (if c * c ≤ n then c else r)

def isqrt (n : Nat) : Nat := isqrtGo n (bitLen n / 2 + 1) 0

/-- A quotient with a sticky last bit: exact up to 2^-k, and odd when inexact. -/
def stickyDiv (a b k : Nat) : Nat :=
  let n := a * 2 ^ k
  2 * (n / b) + (if n % b = 0 then 0 else 1)

/-- 1 / x for finite x, as a value that rounds as the exact quotient does (R169). -/
def recipVal (neg : Bool) (m : Nat) (e : Int) : FVal :=
  let k := bitLen m + 40
  .fin neg (stickyDiv 1 m k) (-e - (k : Int) - 1)

/-- The square root of m * 2^e, as a value that rounds as the exact root does (R169). -/
def sqrtVal (m : Nat) (e : Int) : FVal :=
  -- make the exponent even and give 80 more bits
  let odd := e % 2 != 0
  let m1 := (if odd then 2 * m else m) * 2 ^ 80
  let e1 := (if odd then e - 1 else e) - 80
  let r := isqrt m1
  .fin false (2 * r + (if r * r = m1 then 0 else 1)) (e1 / 2 - 1)

/-- 1 / sqrt(m * 2^e): the floor on a fine grid with a sticky bit (R169). -/
def rsqrtVal (m : Nat) (e : Int) : FVal :=
  let odd := e % 2 != 0
  let m1 := if odd then 2 * m else m
  let e1 := if odd then e - 1 else e
  let k := 2 * (bitLen m1 + 60)
  let n := 2 ^ k
  let r := isqrt (n / m1)
  .fin false (2 * r + (if r * r * m1 = n then 0 else 1)) (-(e1 / 2) - (k / 2 : Nat) - 1)

/-- ln 2 and pi in units of 2^-96. -/
def ln2Fix : Nat := 54916777467707473351141471128
def piFix : Nat := 248902613312231085230521944622

/-- Sum of the series with terms t, t*z/(k+1), ... in fixed point of 96 bits. -/
def expSeries (z : Nat) : Nat → Nat → Nat → Nat → Nat
  | 0, _, _, s => s
  | n + 1, k, t, s => let t1 := t * z / 2 ^ 96 / k; expSeries z n (k + 1) t1 (s + t1)

/-- 2^f for f in units of 2^-96 below 1, in units of 2^-96. -/
def exp2Fix (f : Nat) : Nat := expSeries (f * ln2Fix / 2 ^ 96) 26 1 (2 ^ 96) (2 ^ 96)

/-- The alternating series of the sine, z2 the square of the argument. -/
def sinSeries (z2 : Nat) : Nat → Nat → Nat → Int → Int
  | 0, _, _, s => s
  | n + 1, k, t, s =>
    let t1 := t * z2 / 2 ^ 96 / ((2 * k) * (2 * k + 1))
    sinSeries z2 n (k + 1) t1 (if k % 2 == 1 then s - t1 else s + t1)

/-- sin(pi * r) for r in units of 2^-96 up to 1/2, in units of 2^-96. -/
def sinFix (r : Nat) : Nat :=
  let z := r * piFix / 2 ^ 96
  (sinSeries (z * z / 2 ^ 96) 16 1 z z).toNat

/-- Fraction bits of log2 of m / 2^96 in [1, 2), by repeated squaring. -/
def logBits : Nat → Nat → Nat → Nat
  | 0, _, acc => acc
  | n + 1, m, acc =>
    let q := m * m / 2 ^ 96
    if q ≥ 2 ^ 97 then logBits n (q / 2) (2 * acc + 1) else logBits n q (2 * acc)

/-- log2 of m * 2^e: signed, in units of 2^-48. -/
def log2Fix (m : Nat) (e : Int) : Int :=
  let b := bitLen m
  let norm := if b ≤ 97 then m * 2 ^ (97 - b) else m / 2 ^ (b - 97)
  ((b : Int) - 1 + e) * 2 ^ 48 + (logBits 48 norm 0 : Nat)

/-- Representable values in order: the position of a value rounded under RND, counted in codes from
zero, negative below it. -/
def codeRound (f : FFmt) (rnd : Nat) (x : FVal) : Int :=
  match x with
  | .fin neg m e =>
    let qu := (bitLen m : Int) + e - (f.p : Int)
    let q := max f.qmin qu
    let (n, _) := roundGrid neg m e q rnd
    let c : Int := (f.encode false n q : Nat)
    if neg then -c else c
  | _ => 0

/-- The bits of the representable value at a position; a zero has the sign given. -/
def codeBits (f : FFmt) (zeroNeg : Bool) (c : Int) : Nat := f.sign (c < 0 || (c == 0 && zeroNeg)) + c.natAbs

/-- The positions, least and greatest, of the finite representable values from lo to hi, both finite; the first is above
the second when there is none. -/
def codesWithin (f : FFmt) (lo hi : FVal) : Int × Int :=
  (max (codeRound f 2 lo) (-((f.maxBits false : Nat) : Int)), min (codeRound f 3 hi) (f.maxBits false : Nat))

/-- The free choice of R169 among the representable values from lo to hi, by index; when none lies inside, the nearest
to either end. -/
def pickWithin (f : FFmt) (lo hi : FVal) (choice : Nat) : Int :=
  let r := codesWithin f lo hi
  if r.2 < r.1 then satInt (codeRound f 0 (if choice % 2 = 0 then lo else hi)) (-((f.maxBits false : Nat) : Int)) (f.maxBits false : Nat)
  else r.1 + ((choice % ((r.2 - r.1).toNat + 1) : Nat) : Int)

/-- An approximate result: v is the exact value in units of 2^q, but for an error of the fixed-point work that bound,
the accuracy of R169 in the same units, has been made smaller by. The values within bound are limited by CLAMP 1 or 2
(R51), and one of the representable values that this leaves is chosen, so that every choice keeps the accuracy. It is
inexact (NX), UF and OF are those of the exact value, limited in the same way, and a zero has that value's sign
(R118, R121; log 9). -/
def approxResult (fmt : BitVec 4) (v : Int) (q : Int) (bound : Nat) (clamp choice : Nat) :
    Nat × FFlags :=
  let f := ffmt fmt
  let val (x : Int) : FVal := clampVal clamp (.fin (x < 0) x.natAbs q)
  -- a bit below the grid: the exact value is never a multiple of the unit
  let mid := clampVal clamp (.fin (v < 0) (2 * v.natAbs + 1) (q - 1))
  let d := toFmt mid fmt 4 clamp
  if d.2 &&& flagOF != 0#5 then d
  else
    (codeBits f (match mid with | .fin b _ _ => b | _ => false) (pickWithin f (val (v - bound)) (val (v + bound)) choice),
      d.2 ||| flagNX)

/-- 2 ulp of the format at the exact value v in units of 2^q, in the same units (at least 1). The spec says 'ulp at
the result'; that the result meant is the exact one is the model's choice, which matters at a power of two only
(DESIGN CHOICE; log 9). -/
def twoUlp (f : FFmt) (v : Int) (q : Int) : Nat :=
  let g := max f.qmin ((bitLen v.natAbs : Int) + q - (f.p : Int)) + 1
  if g ≥ q then 2 ^ (g - q).toNat else 1

/-- The fractional position of a finite value in units of 2^-96, and its floor. -/
def splitFix (neg : Bool) (m : Nat) (e : Int) : Int × Nat :=
  let fl := floorInt neg m e
  let s : Int := if neg then -(m : Int) else m
  let v := if e ≥ -96 then s * 2 ^ (e + 96).toNat else s / 2 ^ (-(e + 96)).toNat
  (fl, (v - fl * 2 ^ 96).toNat)

/-- Whether a finite value is an integer. -/
def isWhole (m : Nat) (e : Int) : Bool := e ≥ 0 || m % 2 ^ (-e).toNat == 0

/-- FRCP, FSQRT: correctly rounded (R169, R170). -/
def frcpVal (x : FVal) : FVal × FFlags :=
  match x with
  | .nan s => (quietNan, flagIf s flagNV)
  | .inf b => (.fin b 0 0, 0#5)
  | .fin b m e => if m = 0 then (.inf b, flagDZ) else (recipVal b m e, 0#5)

def fsqrtVal (x : FVal) : FVal × FFlags :=
  match x with
  | .nan s => (quietNan, flagIf s flagNV)
  | .inf b => if b then (quietNan, flagNV) else (.inf false, 0#5)
  | .fin b m e =>
    if m = 0 then (.fin b 0 0, 0#5) else if b then (quietNan, flagNV) else (sqrtVal m e, 0#5)

/-- A power of four: an even power of two (R169). -/
def isPow2 (m : Nat) : Bool := m != 0 && m == 2 ^ Nat.log2 m

/-- FRSQ (R169, R170): exact for an integer power of 4, else one of the two neighbours. -/
def frsqBits (fmt : BitVec 4) (x : FVal) (scale : Int) (clamp choice : Nat) : Nat × FFlags :=
  match x with
  | .nan s => ((ffmt fmt).qnan, flagIf s flagNV)
  | .inf b =>
    if b then ((ffmt fmt).qnan, flagNV) else finishVal (.fin false 0 0) fmt scale clamp 4
  | .fin b m e =>
    if m = 0 then
      let (r, fl) := finishVal (.inf b) fmt scale clamp 4
      (r, fl ||| flagDZ)
    else if b then ((ffmt fmt).qnan, flagNV)
    else
      let exact := isPow2 m && ((Nat.log2 m : Int) + e) % 2 == 0
      let y := clampVal clamp (scaleVal scale (rsqrtVal m e))
      if exact then toFmt y fmt 4 clamp
      else
        let r := toFmt y fmt (if choice % 2 == 0 then 3 else 2) clamp
        let d := toFmt y fmt 4 clamp
        (if (r.2 ||| d.2) &&& flagOF != 0#5 then d.1 else r.1, d.2 ||| flagNX)

/-- FEXP2 (R169, R170): a result below the smallest subnormal is rounded under R121. The accuracy is that of the result
after SCALE (DESIGN CHOICE; log 9). -/
def fexp2Bits (fmt : BitVec 4) (x : FVal) (scale : Int) (clamp choice : Nat) : Nat × FFlags :=
  match x with
  | .nan s => ((ffmt fmt).qnan, flagIf s flagNV)
  | .inf b => finishVal (if b then .fin false 0 0 else .inf false) fmt scale clamp 4
  | .fin b m e =>
    if m = 0 then finishVal (.fin false 1 0) fmt scale clamp 4
    else
      let (n, f) := splitFix b m e
      let big : Int := 1000
      let n := satInt n (-big) big
      let whole := isWhole m e
      if whole then toFmt (clampVal clamp (.fin false 1 (n + scale))) fmt 4 clamp
      else
        let v : Int := (exp2Fix f : Nat)
        let q := n + scale - 96
        if n + scale < (ffmt fmt).qmin then toFmt (clampVal clamp (.fin false v.natAbs q)) fmt 4 clamp
        else approxResult fmt v q (twoUlp (ffmt fmt) v q - 2 ^ 12) clamp choice

/-- FLOG2 (R169, R170). The bound of 2^-22, and the ulp, are taken of the result after SCALE; the exact zero at x = 1 is
+0, since the spec gives it no sign (DESIGN CHOICE; log 9). -/
def flog2Bits (fmt : BitVec 4) (x : FVal) (scale : Int) (clamp choice : Nat) : Nat × FFlags :=
  match x with
  | .nan s => ((ffmt fmt).qnan, flagIf s flagNV)
  | .inf b =>
    if b then ((ffmt fmt).qnan, flagNV) else finishVal (.inf false) fmt scale clamp 4
  | .fin b m e =>
    if m = 0 then
      let (r, fl) := finishVal (.inf true) fmt scale clamp 4
      (r, fl ||| flagDZ)
    else if b then ((ffmt fmt).qnan, flagNV)
    else if isPow2 m then
      let n := (Nat.log2 m : Int) + e
      finishVal (.fin (n < 0) n.natAbs 0) fmt scale clamp 4
    else
      let v := log2Fix m e
      let q := scale - 48
      approxResult fmt v q (max (twoUlp (ffmt fmt) v q) (2 ^ (26 - scale).toNat) - 2) clamp choice

/-- sin(pi x) for finite x that is no multiple of 1/2, in units of 2^-96 (R169). -/
def sinPi (neg : Bool) (m : Nat) (e : Int) : Int :=
  let (n, f) := splitFix neg m e
  -- x = n + f / 2^96; sin(pi x) = (-1)^n sin(pi f)
  let g := if f > 2 ^ 95 then 2 ^ 96 - f else f
  let s : Int := (sinFix g : Nat)
  if n % 2 == 0 then s else -s

/-- FSIN (R169, R170): for an x so small that no bits of it would be left, pi times x. The bound of 2^-22 is taken of the
result after SCALE (DESIGN CHOICE; log 9). -/
def fsinBits (fmt : BitVec 4) (x : FVal) (scale : Int) (clamp choice : Nat) : Nat × FFlags :=
  match x with
  | .nan s => ((ffmt fmt).qnan, flagIf s flagNV)
  | .inf _ => ((ffmt fmt).qnan, flagNV)
  | .fin b m e =>
    if isWhole m e then finishVal (.fin b 0 0) fmt scale clamp 4
    else if isWhole m (e + 1) then
      let n := floorInt b m e
      finishVal (.fin (n % 2 != 0) 1 0) fmt scale clamp 4
    else if (bitLen m : Int) + e < -40 then
      approxResult fmt (if b then -((m * piFix : Nat) : Int) else (m * piFix : Nat)) (e + scale - 96)
        (2 ^ (74 - scale - e).toNat - m) clamp choice
    else
      approxResult fmt (sinPi b m e) (scale - 96) (2 ^ (74 - scale).toNat - 2 ^ 12) clamp choice

/-- FCOS (R169, R170): cos(pi x) = sin(pi (x + 1/2)). The bound of 2^-22 is taken of the result after SCALE (DESIGN
CHOICE; log 9). -/
def fcosBits (fmt : BitVec 4) (x : FVal) (scale : Int) (clamp choice : Nat) : Nat × FFlags :=
  match x with
  | .nan s => ((ffmt fmt).qnan, flagIf s flagNV)
  | .inf _ => ((ffmt fmt).qnan, flagNV)
  | .fin b m e =>
    if isWhole m e then
      let n := floorInt b m e
      finishVal (.fin (n % 2 != 0) 1 0) fmt scale clamp 4
    else if isWhole m (e + 1) then finishVal (.fin false 0 0) fmt scale clamp 4
    else
      let q := min e (-1)
      let s := gridInt b m e q + 2 ^ (-1 - q).toNat
      approxResult fmt (sinPi (s < 0) s.natAbs q) (scale - 96) (2 ^ (74 - scale).toNat - 2 ^ 12)
        clamp choice

end Sys2Proof.Machine
end

