-- ==== Sys2Proof/Machine/State.lean ====
section
/-!
DEFINITION. Machine/State.lean: all the state the spec gives the machine, as plain data.
One State holds a whole UALink domain: every package, its cores, warps, teams and launches, and all memory.
Keys: a core is g = 320 * package + 160 * die + core of the die (R6); a warp is 48 * g + slot;
a team is 320 * launch + team number; a ring slot is 65536 * ring + slot.
Every table is sparse: what it does not list has the default value of its kind (see Machine/Ops.lean).
-/

namespace Sys2Proof.Machine

/-- A sparse table, keys strictly rising. -/
abbrev Tbl (α : Type) := List (Nat × α)

/-- A sparse map of words: keys strictly rising, no zero word listed; an unlisted key holds zero. -/
abbrev Sparse (w : Nat) := List (Nat × BitVec w)

/-- Memory: addresses strictly rising, no zero byte listed; an unlisted byte reads as zero
(log 1: the spec gives no contents at reset, R317). -/
abbrev Memory := List Host.Cell

/-! ## Registers of a warp -/

/-- A vector or kv register (R84, R87): TAG with its parity bit TPAR, EMPTY, and 96 lane words, each with its
two copies of POISON. words holds DATA as it was written, and CHECK follows from it; flips lists, by lane, the
bits of CHECK (38 to 32) and of DATA (31 to 0) that soft errors have turned since (R88). -/
structure VReg where
  tag : BitVec 4
  tpar : Bool
  empty : Bool
  words : Vector Word 96
  poison : Lanes
  poison2 : Lanes
  flips : Tbl (BitVec 39)
deriving DecidableEq, Repr

/-- The contents R26 gives v1 upward: zero, tag B32 (of odd weight, so TPAR is 1), full, clear. -/
def VReg.zero : VReg :=
  { tag := 14#4, tpar := true, empty := false, words := Vector.replicate 96 0#32, poison := 0#96,
    poison2 := 0#96, flips := [] }

/-- A scalar register (R84). -/
structure SReg where
  val : Word
  empty : Bool
  poison : Bool
deriving DecidableEq, Repr

/-- An address register (R84). -/
structure AReg where
  val : A80
  poison : Bool
deriving DecidableEq, Repr

/-- A predicate register, with a poison bit for each 32-bit beat (R84). -/
structure PReg where
  bits : Lanes
  poison : BitVec 3
deriving DecidableEq, Repr

/-- A held-operand latch entry (R99); an entry that is not listed is invalid. -/
structure Latch where
  reg : VReg
  life : Nat
deriving DecidableEq, Repr

/-- The A-reuse latch when valid (R103). -/
structure AReuse where
  base : Nat
  regs : List VReg
deriving DecidableEq, Repr

/-- An entry of a fast file: a staged register's words with their tag and full/empty bit, and whether it was written
while staged (R90, R91). -/
structure FastReg where
  reg : VReg
  written : Bool
deriving DecidableEq, Repr

/-- A range of a working set: first register and length (R59). -/
structure WsRange where
  base : Nat
  len : Nat
deriving DecidableEq, Repr

/-- One entry of the split table (R234), with the readiness R246 and R259 use.
The stack lists (depth, token slot), depth 1 outermost. -/
structure Split where
  valid : Bool
  offset : Word
  atJoin : Bool
  rgWait : Bool
  inRep : Bool
  repJ : Nat
  stack : Tbl Nat
  members : Lanes
  active : Lanes
  tpoint : Word
  tused : Bool
  tdepth : Nat
  tlanes : Lanes
  wph : Option (BitVec 16)
  lastIssue : Nat
  aged : Bool
  yielded : Bool
deriving DecidableEq, Repr

/-- A free entry with its token slot free. -/
def Split.free : Split :=
  { valid := false, offset := 0#32, atJoin := false, rgWait := false, inRep := false, repJ := 0,
    stack := [], members := 0#96, active := 0#96, tpoint := 0#32, tused := false, tdepth := 0,
    tlanes := 0#96, wph := none, lastIssue := 0, aged := false, yielded := false }

/-- The trap split (R208): offset, mask, the position inside a REP, the phase a BWAIT waits on, and the
readiness R246 and R259 use. -/
structure TrapSplit where
  offset : Word
  mask : Lanes
  inRep : Bool
  repJ : Nat
  wph : Option (BitVec 16)
  lastIssue : Nat
  aged : Bool
  yielded : Bool
deriving DecidableEq, Repr

/-- Lanes of one vector register that a long-latency producer will write (R104). -/
structure VWrite where
  reg : Nat
  mask : Lanes
  words : Vector Word 96
  poison : Lanes
deriving DecidableEq, Repr

/-- A scalar that a long-latency producer will write (R104); entry is the split that issued it, 8 the
trap split, whose mask a write to s0 to s2 changes (R236). -/
structure SWrite where
  entry : Nat
  reg : Nat
  val : Word
  poison : Bool
deriving DecidableEq, Repr

/-- An issued long-latency producer that has not written back (R104): the registers it emptied,
what it will write, its FXA flags (R134), whether it is a memory access, a float instruction, an
acquire (R350), whether its L1 action is still to come (R365), or a request the transform pipe answers, and
how many fabric answers it still awaits (R437). -/
structure Writeback where
  id : Nat
  vregs : List Nat
  sregs : List Nat
  vwrites : List VWrite
  swrites : List SWrite
  flags : BitVec 5
  isLoad : Bool
  isFloat : Bool
  acquires : Bool
  l1Action : Bool
  byPipe : Bool
  holes : Nat
deriving DecidableEq, Repr

/-- Where an outstanding write will be acknowledged (R365). -/
inductive AckKind where
  | slice
  | pcie
  | fabric
deriving DecidableEq, Repr

/-- A write not yet acknowledged (R350, R365). -/
structure Ack where
  id : Nat
  kind : AckKind
deriving DecidableEq, Repr

/-- The registers of a warp as an instruction reads them before its first pass (R141). -/
structure Sources where
  vregs : Tbl VReg
  fast : Tbl FastReg
  sregs : Tbl SReg
  aregs : Tbl AReg
  pregs : Tbl PReg
  upsets : Tbl Bool
  kvregs : Tbl VReg
  hl : Tbl Latch
deriving DecidableEq, Repr

/-- What the passes of an instruction that have completed leave for those to come: took lists plane, instruction
and the lanes that took part; moves the lanes that transferred and where to, shifts those that change plane (R260),
point the reconvergence point named; fresh the latch entries captured, counted whether the latch lives have
counted the instruction (R99, R100); pre its sources before the first pass (R141); wb its long-latency producer
(R104). -/
structure Progress where
  took : List (Nat × Instr × Lanes)
  moves : List (Lanes × Word)
  shifts : List (Lanes × Nat)
  point : Option Word
  fresh : List Nat
  counted : Bool
  pre : Option Sources
  wb : Option Nat
deriving DecidableEq, Repr

/-- An instruction of which no pass has completed. -/
def Progress.start : Progress :=
  { took := [], moves := [], shifts := [], point := none, fresh := [], counted := false, pre := none, wb := none }

/-- The other instruction of a pair (R39): its slot, whether it is the second, the planes it has to pass and its
progress; apart says that the second waits, so that the first goes on in its planes alone. -/
structure Mate where
  offset : Word
  second : Bool
  todo : List Nat
  apart : Bool
  progress : Progress
deriving DecidableEq, Repr

/-- Where an instruction of a split stands whose issue is to go on: after a wait in a later pass, after ERET
(R215) or after a page-fault service (R220): its slot, the planes still to issue, the lanes of one of them, and
what its passes have done. pinned says that the warp's other splits wait for it (R220, R349), checked that its decode
checks are made. -/
structure Reissue where
  offset : Word
  planes : BitVec 4
  low : Option (Nat × Lanes)
  checked : Bool
  pinned : Bool
  mate : Option Mate
  progress : Progress
deriving DecidableEq, Repr

/-- A translation fault recorded for firmware, with the address and the access of every lane it names
(R220), and where the instruction stands; more says that a REP has repetitions left after it. -/
structure FaultRec where
  entry : Nat
  cause : BitVec 8
  pc : BitVec 64
  more : Bool
  va : A80
  lanes : Lanes
  named : List (A80 × Nat)
  decoded : Bool
  stand : Reissue
deriving DecidableEq, Repr

/-- Why a warp issues nothing (R212, R214, R220). -/
inductive Park where
  | no
  | pageFault (f : FaultRec)
  | breakpoint
  | sysc (service : Nat) (reported : Word) (second : Word) (offset : Word)
  | stopped
deriving DecidableEq, Repr

/-- One of the 64 newest batches (R394, R396, R480). -/
structure Batch where
  closed : Bool
  commands : Nat
  flags : BitVec 5
  sat : Bool
  returned : Bool
deriving DecidableEq, Repr

/-- A descriptor read (R398): the split whose command reads, the addresses wanted, and what came back. -/
structure DescRead where
  entry : Nat
  va : A80
  len : Nat
  returned : Bool
  bytes : List Byte
  poisoned : Bool
deriving DecidableEq, Repr

/-- A warp. vregs holds the words of the main file, fast those of its scheduler's fast file for the registers that
are staged (R90, R91); lastIssued is the turn of its last issue, waiting says that its last attempt to issue ended in a wait
(R94). trapDone is what the trapped instruction had done (R215), reissues where each split's instruction stands, by
entry, 8 for the trap split. upsets lists the scalar and address registers, by code, and the beats of predicates, as
2000 + 3n + b, that soft errors have struck: false for one bit, true for two (R84, R486). -/
structure Warp where
  team : Nat
  warpid : Nat
  role : BitVec 2
  local_ : Nat
  budget : Nat
  granules : List Nat
  live : Lanes
  helper : Lanes
  exited : Lanes
  plane0 : Lanes
  plane1 : Lanes
  vregs : Tbl VReg
  sregs : Tbl SReg
  aregs : Tbl AReg
  pregs : Tbl PReg
  upsets : Tbl Bool
  mcols : Tbl (BitVec 256)
  gang : List Nat
  kregs : Tbl Word
  kvregs : Tbl VReg
  hl : Tbl Latch
  areuse : Option AReuse
  ws : List WsRange
  staged : Bool
  fast : Tbl FastReg
  lastIssued : Nat
  waiting : Bool
  splits : Tbl Split
  unseated : Lanes
  uactive : Lanes
  uoffset : Tbl Word
  fxa : Word
  evsel : Word
  evcnt : Tbl Word
  trapMode : Bool
  trapCause : Word
  trapPc : BitVec 64
  trapVa : A80
  trapLanes : Lanes
  trapPc0 : BitVec 64
  trapEntry : Nat
  trapDone : Progress
  savedWs : List WsRange
  savedHl : Tbl Latch
  trapSplit : Option TrapSplit
  save : Tbl VReg
  batchNext : BitVec 16
  batchDone : BitVec 16
  batches : Tbl Batch
  park : Park
  reissues : Tbl Reissue
  pend : List Writeback
  acks : List Ack
  desc : List DescRead
  frozen : List (Nat × Nat)
  walkFails : List (Nat × BitVec 8)
  entryUnchecked : Bool
  retired : Bool
deriving DecidableEq, Repr

/-! ## State of a core -/

/-- The states of a tile (R266). -/
inductive TileState where
  | empty
  | filling
  | ready
  | draining
deriving DecidableEq, Repr

/-- A tile-table entry (R266); fills counts the fills to it still outstanding (R269). -/
structure Tile where
  owner : Nat
  filled : Nat
  bytes : Nat
  dim1 : Nat
  dim0 : Nat
  pitch : Nat
  base : Nat
  readers : Nat
  sealed : Bool
  gen : BitVec 10
  fmt : BitVec 4
  state : TileState
  fills : Nat
deriving DecidableEq, Repr

/-- The levels of a barrier (R465). -/
inductive Level where
  | team
  | span
  | grid
deriving DecidableEq, Repr

/-- A barrier record (R465), with the warps waiting in REGROUP in arrival order (R264):
WARPID, first register, count, and the phase the arrival counted toward. -/
structure Barrier where
  expb : Nat
  initb : Nat
  bytes : Nat
  ph : BitVec 16
  level : Level
  up : Bool
  initw : Nat
  arr : Nat
  regroup : List (Nat × Nat × Nat × Nat)
deriving DecidableEq, Repr

/-- An L1 line (R323): the line's place in global memory, its bytes and their poison. -/
structure L1Line where
  full : Bool
  tag : Nat
  epoch : Word
  dirty : BitVec 128
  hint : BitVec 2
  data : BitVec 1024
  poison : BitVec 32
deriving DecidableEq, Repr

/-- A TLB entry (R285): address-space number, page number, page size and the leaf. -/
structure TlbEntry where
  asn : Nat
  big : Bool
  page : Nat
  leaf : BitVec 64
deriving DecidableEq, Repr

/-- A request to the transform pipe (R194, R195), with every source read at issue. -/
structure XRequest where
  warp : Nat
  wb : Nat
  instr : Instr
  lanes : Lanes
  vsrcs : List VReg
  ssrcs : List Word
  started : Bool
deriving DecidableEq, Repr

/-- What a matrix command does (R387, R391). -/
inductive MatrixOp where
  | mma (instr : Instr)
  | zero (base : Nat) (count : Nat)
deriving DecidableEq, Repr

/-- One member's rows of a matrix command (R382, R384). -/
structure MatrixRows where
  warp : Nat
  rows : Lanes
  regs : List VReg
  batch : BitVec 16
deriving DecidableEq, Repr

/-- A command of the matrix queue (R392): operands read at release, and after its start the words
it will write. -/
structure MatrixCmd where
  op : MatrixOp
  team : Nat
  members : List MatrixRows
  tile : Nat
  reader : Nat
  dbase : Nat
  cbase : Nat
  columns : BitVec 256
  started : Bool
  writes : List (Nat × Word × Bool)
  flags : BitVec 5
  sat : Bool
deriving DecidableEq, Repr

/-- A rendezvous entry (R379): the word and gang it was opened with, and who has joined:
warp key, split entry, whether a REP has repetitions left after it (R58), rows that take part, A registers. -/
structure Rendezvous where
  leader : Nat
  word : Instr
  gang : List Nat
  joined : List (Nat × Nat × Bool × Lanes × List VReg)
deriving DecidableEq, Repr

/-- The copy commands (R404). -/
inductive CopyKind where
  | tcopy
  | tstore
  | tgather
  | tmcast
  | tpref
deriving DecidableEq, Repr

/-- A command of the copy queue (R405 to R411): nextRow of rows rows are done, credit bytes go to the
team's barrier and credits to those of other teams, begun that it has had an access, place is the next column of the row,
held the elements read for the engine access in progress, with their poison, or of a TPREF the lines done (R406, R411,
R412), inFlight deliveries have not arrived, dropped lists the teams whose delivery lost a byte, stopped is the fault
that holds it (R412). -/
structure CopyCmd where
  id : Nat
  kind : CopyKind
  warp : Nat
  team : Nat
  desc : List Byte
  coords : List Word
  tile : Nat
  reader : Nat
  row0 : Nat
  bar : Option Nat
  index : List Word
  gd : Nat
  firstTeam : Nat
  mask : BitVec 16
  level : Nat
  pin : Bool
  rows : Nat
  nextRow : Nat
  begun : Bool
  place : Nat
  held : List (Nat × Bool)
  credit : Nat
  credits : Tbl Nat
  inFlight : Nat
  dropped : List Nat
  stopped : Option (BitVec 8 × A80)
deriving DecidableEq, Repr

/-- A reader of a tile that has issued (R271). -/
structure Reader where
  id : Nat
  tile : Nat
  finished : Bool
deriving DecidableEq, Repr

/-- A core. Each word of accumulator memory has its two copies of POISON, and accumFlips lists the bits of its CHECK
(38 to 32) and DATA (31 to 0) that soft errors have turned since it was written (R370). copyNext is the identifier of the
copy command that wrote a row last (R406). -/
structure Core where
  shared : Memory
  sharedPoison : Sparse 1
  sharedUpset : Sparse 2
  accum : Sparse 32
  accumPoison : Sparse 2
  accumFlips : Sparse 39
  tiles : Tbl Tile
  barriers : Tbl Barrier
  l1 : Tbl L1Line
  l1Ways : Tbl Nat
  epoch : Word
  icache : Tbl (BitVec 512)
  icacheNext : Nat
  tlb : List TlbEntry
  pipe : List XRequest
  matrix : List MatrixCmd
  rendezvous : List Rendezvous
  copies : List CopyCmd
  copyNext : Nat
  readers : List Reader
  events : Tbl (BitVec 64)
  cycle : BitVec 64
  lastRole : Tbl (BitVec 2)
  withdrawn : Bool
deriving DecidableEq, Repr

/-! ## Teams and launches -/

/-- A handle queue (R415). -/
structure HQueue where
  ring : Nat
  decl : Bool
  size : Nat
  count : Nat
  head : Nat
deriving DecidableEq, Repr

/-- A channel endpoint (R424). -/
structure Endpoint where
  base : Nat
  peer : Nat
  peerEp : Nat
  slots : Nat
  size : Nat
  cnt : Nat
  idx : Nat
  held : Bool
  closed : Bool
  decl : Bool
deriving DecidableEq, Repr

/-- The context image of a pre-empted team (R223), its sections as data; the byte layout is given
by the serialisation of Machine/Image.lean. -/
structure Image where
  warps : Tbl Warp
  slots : Tbl Nat
  shared : Memory
  sharedPoison : Sparse 1
  accum : Sparse 32
  accumPoison : Sparse 1
  tiles : List Tile
  barriers : List Barrier
deriving DecidableEq, Repr

/-- How far a team has come (R34, R221, R228). -/
inductive TeamRun where
  | reserved
  | running
  | preempted
  | retired
  | ended
deriving DecidableEq, Repr

/-- A team; resuming says that firmware has chosen to resume it and that no core fits yet (R222). -/
structure Team where
  launch : Nat
  number : Nat
  core : Nat
  run : TeamRun
  sharedBlocks : List Nat
  accumBlocks : List Nat
  tileMap : List Nat
  barMap : List Nat
  warpSlots : List Nat
  hqs : Tbl HQueue
  sends : Tbl Endpoint
  recvs : Tbl Endpoint
  image : Option Image
  resuming : Bool
deriving DecidableEq, Repr

/-- A pending end of a launch's teams (R228, R304). -/
structure EndReq where
  status : BitVec 8
  cause : BitVec 8
  detail : Word
  team : Nat
deriving DecidableEq, Repr

/-- One role's part of a launch record (R18). -/
structure RoleRec where
  entry : Word
  lanes : Nat
  budget : Nat
deriving DecidableEq, Repr

/-- A checked launch record (R18). -/
structure LaunchRec where
  codebase : A80
  planes : BitVec 2
  pstride : Nat
  roles : List RoleRec
  shared : Nat
  accum : Nat
  tiles : Nat
  barT : Nat
  barS : Nat
  barG : Nat
  teams : Nat
  fuse : Bool
  coll : Bool
  veer : Bool
  hqs : List (Option Nat)
  sends : List (Option (Nat × Nat × Nat × Nat))
  recvs : List (Option (Nat × Nat × Nat × Nat))
deriving DecidableEq, Repr

/-- A launch (R306, R307). -/
structure Launch where
  pkg : Nat
  ring : Nat
  slot : Nat
  info : LaunchRec
  recAddr : A80
  args : A80
  handler : A80
  root : Nat
  asn : Nat
  tkey : BitVec 8
  prio : Nat
  granted : Bool
  replayable : Bool
  replays : Nat
  outputs : List (A80 × Nat)
  ending : Option EndReq
  replaying : Bool
  combiners : Tbl Nat
  arrivals : List (Nat × Nat)
  releases : List (Nat × Nat)
  finished : Bool
deriving DecidableEq, Repr

/-! ## State of a package -/

/-- A ring (R295), with its live counts, its prefetched records, and the mismatches met by each prefetch that is being
reread (R299 to R301). -/
structure Ring where
  base : A80
  logSlots : Nat
  root : Nat
  asn : Nat
  tkey : BitVec 8
  live : Tbl Nat
  prefetched : Tbl (List Byte)
  torn : Tbl Nat
deriving DecidableEq, Repr

/-- How far a run of a node has come (R301 to R306): ready to start; its record being reread; its record
being read to load its live count; waiting for a mapping, with the access that failed (R506); waiting to
be placed; running; waiting for a word; done. tries counts the mismatches met (R299). -/
inductive NodePhase where
  | ready
  | reread (tries : Nat)
  | loading (tries : Nat)
  | waitFault (cause : BitVec 8) (what : Nat) (tries : Nat)
  | waitPlace
  | running (launch : Nat)
  | waitWord
  | done
deriving DecidableEq, Repr

/-- A run of a node (R301 to R305): record is the copy it executes, lrec and outputs what was read of a
KERNEL's launch record and OUTLIST, release lists the successor references it releases, listed says that
the overflow list has been read, written that its completion word is settled. -/
structure NodeRun where
  ring : Nat
  slot : Nat
  phase : NodePhase
  record : Option (List Byte)
  blocking : Bool
  status : BitVec 8
  cause : BitVec 8
  detail : Word
  team : Nat
  replays : Nat
  lrec : Option LaunchRec
  outputs : List (A80 × Nat)
  release : List Nat
  listed : Bool
  written : Bool
deriving DecidableEq, Repr

/-- A region of HBM physical space (R288). -/
inductive RegionState where
  | mapA
  | mapB
  | migrating
  | unbacked
deriving DecidableEq, Repr

/-- The interleave of one die (R288, R289, R290). -/
structure DieMap where
  mapA : List Nat
  mapB : List Nat
  useB : Bool
  regions : Tbl RegionState
  cxlSlices : Tbl (List Nat)
  withdrawing : Option Nat
deriving DecidableEq, Repr

/-- A CXL window (R290). -/
structure CxlWindow where
  base : Nat
  size : Nat
  ports : BitVec 4
deriving DecidableEq, Repr

/-- A line of a memory-side segment or of an L2 slice (R293, R327), with the tenant key of its last access
(R292, R294). behind is what the level behind it holds, bytes and the poison of their words, when the line is newer
than it (R327, R328). -/
structure CacheLine where
  tag : Nat
  cls : Nat
  tkey : BitVec 8
  pin : Bool
  owner : Nat
  behind : Option (BitVec 1024 × BitVec 32)
deriving DecidableEq, Repr

/-- A promotion-table entry (R366): whether the releasing core's L1 was fused, and whether an acquire
has asked for the promotion. -/
structure Promo where
  line : Nat
  core : Nat
  epoch : Word
  fuse : Bool
  asked : Bool
deriving DecidableEq, Repr

/-- A translation miss waiting for a walk or being walked (R286), queued in the cluster of a core: waiters lists the
warps that wait, each with the code of its access and its split's entry (Machine/Ops.lean), lines the code lines that IPREF
asks for, by core (R261). -/
structure Walk where
  core : Nat
  root : Nat
  asn : Nat
  page : Nat
  started : Bool
  waiters : List (Nat × Nat)
  lines : List (Nat × Nat)
deriving DecidableEq, Repr

/-- What a fabric request does at its target (R437). -/
inductive FabricOp where
  | load
  | store (data : List Byte)
  | atomic (fn : BitVec 4) (fmt : BitVec 4) (data : List Byte) (swap : List Byte) (keep : Bool)
deriving DecidableEq, Repr

/-- An outstanding KIND 4 request (R436 to R438); entry is the split that a scalar result belongs to, place is
the key that the target's translation gave (none: no package answers), poa its poison on access (R284), acquires that it is an acquire of
die scope or wider, tag the release epoch that a team-scope release carries (R363, R366). -/
structure FabricReq where
  id : Nat
  warp : Nat
  wb : Nat
  entry : Nat
  lane : Nat
  regs : List Nat
  scalar : Bool
  op : FabricOp
  target : Nat
  offset : Nat
  bytes : Nat
  tkey : BitVec 8
  narrowSigned : Bool
  place : Option Nat
  poa : Bool
  acquires : Bool
  tag : Option Word
deriving DecidableEq, Repr

/-- A channel delivery in flight (R425). -/
structure ChDelivery where
  launch : Nat
  fromTeam : Nat
  fromEp : Nat
  toTeam : Nat
  toEp : Nat
  slot : Nat
  bytes : List Byte
  poison : List Bool
  warp : Nat
  after : List Nat
deriving DecidableEq, Repr

/-- A channel credit in flight (R426). -/
structure ChCredit where
  launch : Nat
  toTeam : Nat
  toEp : Nat
deriving DecidableEq, Repr

/-- A multicast delivery in flight: 128 bytes of a tile row, from byte first of the row, for one team (R279, R406, R409). -/
structure McDelivery where
  core : Nat
  cmd : Nat
  launch : Nat
  toTeam : Nat
  tile : Nat
  row : Nat
  first : Nat
  bytes : List Byte
  poison : List Bool
deriving DecidableEq, Repr

/-- A notification to the host (R214, R289, R487, R506). -/
inductive Notice where
  | notify (teamid : Word) (warpid : Word) (offset : Word) (first : Word) (second : Word)
  | vacate (die : Nat) (region : Nat)
  | capacity (die : Nat)
  | nodeUnreadable (ring : Nat) (slot : Nat)
  | completionUnwritten (ring : Nat) (slot : Nat) (status : BitVec 8)
deriving DecidableEq, Repr

/-- A completion posted to the host (R316), with its phase bit. -/
structure CmdDone where
  tag : Nat
  status : Nat
  phase : Bool
  result : Nat
deriving DecidableEq, Repr

/-- A firmware complex: the image it runs, its security version (R310, R311), and the cycles of its own clock
(R488). -/
structure Firmware where
  image : Nat
  secVersion : Nat
  cycles : BitVec 64
deriving DecidableEq, Repr

/-- A die-link module (R430, R431): its direction, and how far a reversal has come. -/
structure Module where
  toward1 : Bool
  taken : Bool
  drained : Bool
deriving DecidableEq, Repr

/-- A combining slot of a gateway (R454): the die of the gateway, the instance and chunk that it serves, and the members
whose contributions its partial combines; the combinations made in slots give the same bits for any grouping (R450), so
that the members' parts determine the partial. -/
structure CombSlot where
  die : Nat
  inst : Nat
  chunk : Nat
  members : List Nat
deriving DecidableEq, Repr

/-- A package. turnQueue lists the turnaround requests, the one in service first; turnActive is the count
in progress and whether the starvation guard asked for it; guards lists the raises that wait, steerDue counts the
requests of firmware that find the queue full (R431, R432, R434).
walkNext is, by die, the cluster whose waiting walk is granted next (R286), reads the answers of inbound reads (R314,
R490), each the bytes and whether the completion is poisoned, done counts the commands completed (R316). bar0 and bar2
are the bus addresses that the host gave BAR0 and BAR2 (R313), queueRegs the bytes written to the command queue
registers of BAR0, by offset (log 40), bells the doorbell writes of the package's own stores that have not reached it
(R296), inbound the requests through BAR2 that wait, oldest first: whether each writes, the keys and lengths of its pieces,
and its bytes (R490). slots lists the combining slots of the package's gateways (R454). -/
structure Package where
  number : Nat
  inDomain : Bool
  rings : Tbl Ring
  runs : List NodeRun
  partitions : Tbl (BitVec 160)
  collSize : Nat
  grants : BitVec 256
  dies : Tbl DieMap
  cxlWindows : Tbl CxlWindow
  residency : Tbl (BitVec 128)
  phases : Tbl (BitVec 4)
  sweepDue : Tbl Bool
  segLines : Tbl CacheLine
  segWays : Tbl Nat
  l2Lines : Tbl CacheLine
  l2Ways : Tbl Nat
  promos : Tbl (List Promo)
  clusterTlb : Tbl (List TlbEntry)
  walks : List Walk
  walkNext : Tbl Nat
  fabric : List FabricReq
  chDeliveries : List ChDelivery
  chCredits : List ChCredit
  multicasts : List McDelivery
  modules : Tbl Module
  turnQueue : List Nat
  turnActive : Option (Nat × Bool)
  guards : List Bool
  steerDue : Nat
  dieEvents : Tbl (BitVec 64)
  errors : Tbl (BitVec 64)
  capacity : Tbl (BitVec 512)
  stations : Tbl Nat
  meshCycles : Tbl (BitVec 64)
  linkCycles : Tbl (BitVec 64)
  firmware : Tbl Firmware
  activeFw : Nat
  fwPending : Option (Nat × Nat × Nat)
  notifyQueue : Option (Nat × Nat)
  notices : List Notice
  completions : List CmdDone
  done : Nat
  reads : List (List Byte × Bool)
  bar2Size : Nat
  wbase0 : Nat
  wbase1 : Nat
  linksDown : Tbl Bool
  bar0 : Option Nat
  bar2 : Option Nat
  queueRegs : Tbl Byte
  bells : List (Nat × BitVec 64)
  inbound : List (Bool × List (Nat × Nat) × List Byte)
  slots : List CombSlot
deriving DecidableEq, Repr

/-! ## Collective instances -/

/-- One contributing lane of a collective (R447). -/
structure CollLane where
  lane : Nat
  member : Nat
  all : Bool
  remote : Nat
  local_ : Nat
  data : List Byte
  poison : List Bool
deriving DecidableEq, Repr

/-- The kinds of instance and their parameters (R441). -/
inductive CollParams where
  | clred (fmt : BitVec 4) (op : Nat) (frac : Nat) (countw : Nat)
  | clput (countw : Nat)
  | clget (countw : Nat)
  | repart (curve : Nat) (nf : Nat) (widths : List Nat) (flags : Nat) (isz : Nat) (koff : Nat) (woff : Nat)
deriving DecidableEq, Repr

/-- An item of a REPART source: key, weight, source index, poisoned key or weight (R460, R464). -/
structure RepItem where
  key : Nat
  weight : Nat
  index : Nat
  poisoned : Bool
deriving DecidableEq, Repr

/-- A member that has joined an instance (R444): written marks the bytes of its shared memory that the
instance wrote, by blocks of 64; listed says that the residue list is written, credited that the barrier has its
credit; faulted is the access that waits for a mapping, and whether it writes
(R443, R464). -/
structure CollJoin where
  member : Nat
  pkg : Nat
  team : Nat
  params : CollParams
  lanes : List CollLane
  compl : A80
  deadline : Nat
  bar : Option Nat
  src : A80
  nsrc : Nat
  land : A80
  cap : Nat
  res : A80
  items : Option (List RepItem)
  written : Tbl (BitVec 64)
  landed : Nat
  residue : Nat
  listed : Bool
  credited : Bool
  completed : Bool
  faulted : Option (BitVec 8 × A80 × Bool)
deriving DecidableEq, Repr

/-- A run into a member's shared memory (R447): who sends it and from which lane, the member and offset it is
written at, the offset it is read from for CLGET, its bytes, and whether it is of ALL. -/
structure CollRun where
  src : Nat
  lane : Nat
  dst : Nat
  off : Nat
  start : Nat
  all : Bool
  data : List (Byte × Bool)
deriving DecidableEq, Repr

/-- A chunk of an instance (R454): its destination member (or all), its block of 64 bytes, the members that have sent
their part since the chunk began or was rerun, those whose part the root has, the runs sent, as they were read when
they were sent, and the members lost; late counts the deadlines passed since a rerun request that a member has not
answered, asked says that a rerun is asked for, direct that parts go to the root without combining (R455, R456). -/
structure Chunk where
  dest : Nat
  all : Bool
  block : Nat
  sent : List Nat
  got : List Nat
  parts : List CollRun
  lost : List Nat
  late : Tbl Nat
  asked : Bool
  direct : Bool
  done : Bool
deriving DecidableEq, Repr

/-- A collective or REPART instance (R440). -/
structure Inst where
  table : List (BitVec 64)
  number : Word
  joins : List CollJoin
  chunks : Option (List Chunk)
  status : Nat
  flags : BitVec 5
  range : Bool
  reruns : Nat
deriving DecidableEq, Repr

/-! ## The whole machine -/

/-- How the issue in progress stands after a pass. -/
inductive IssueStatus where
  | running
  | waiting
  | held
  | trapped
  | finished
deriving DecidableEq, Repr

/-- The issue in progress: the instruction of one split, one pass per occupied plane (R237).
lines holds every plane to issue with its fetch line, todo the planes whose pass is still to come,
lowest first; low restricts the lanes of one plane (R215); checked says that the checks of R42, R73 and R114 are
made, issued that a pass has been made since the issue began, pinned that the warp's other splits wait until the pass
to come has been made whole (R349); took, moves, shifts, point, fresh, counted, pre and wb are
its progress, mate the other instruction of a pair (R39); trap says that the trap split issues. -/
structure Issue where
  warp : Nat
  entry : Nat
  offset : Word
  occupied : BitVec 4
  lines : List (Nat × BitVec 512)
  todo : List Nat
  low : Option (Nat × Lanes)
  checked : Bool
  issued : Bool
  pinned : Bool
  took : List (Nat × Instr × Lanes)
  moves : List (Lanes × Word)
  shifts : List (Lanes × Nat)
  point : Option Word
  fresh : List Nat
  counted : Bool
  rep : Option Nat
  pre : Option Sources
  wb : Nat
  mate : Option Mate
  trap : Bool
  status : IssueStatus
deriving DecidableEq, Repr

/-- A write posted on a PCIe port (R282, R365): the package and die whose port carried it, the bus
address and the bytes; of an AtomicOp, its code of R80 and the swap value (R346). -/
structure Posted where
  pkg : Nat
  port : Nat
  addr : Nat
  bytes : List Byte
  atomic : Option (BitVec 4 × List Byte)
deriving DecidableEq, Repr

/-- What a soft error strikes (R41, R84, R87, R88, R370, R486; log 33): bits of a lane word, as the files store it;
a bit of the tag of a vector or kv register, 4 being TPAR, each in the main file or, of a staged register, in the fast
file; bits of a word of a core's accumulator memory as it is stored; a scalar or address register or a beat of a predicate
(numbered as in Warp.upsets), a word of a core's shared memory, the word of global memory that
holds the byte at a key, each in one bit or in two; a bit of a code line that an instruction cache holds (R41). -/
inductive Strike where
  | lane (warp : Nat) (code : Nat) (main : Bool) (lane : Nat) (bits : BitVec 41)
  | tag (warp : Nat) (code : Nat) (main : Bool) (bit : Nat)
  | file (warp : Nat) (code : Nat) (two : Bool)
  | shared (core : Nat) (word : Nat) (two : Bool)
  | accum (core : Nat) (word : Nat) (bits : BitVec 41)
  | mem (key : Nat) (two : Bool)
  | line (core : Nat) (line : Nat) (bit : Nat)
deriving DecidableEq, Repr

/-- What moves next (log 4): an event, the selection of a split to issue, a soft error (log 33), the host's assignment of
a bus address to BAR0 or to BAR2 (log 11), or the 64 bytes of a command taken from the host's queue (R316, log 27). -/
inductive Move where
  | event (i : Instr)
  | issue (warp : Nat) (entry : Nat)
  | strike (what : Strike)
  | bar0 (pkg : Nat) (base : Option Nat)
  | bar2 (pkg : Nat) (base : Option Nat)
  | command (pkg : Nat) (bytes : List Byte)
deriving DecidableEq, Repr

/-- The machine (R2, and R435 for the domain of packages). posted lists the writes that have left through
PCIe ports, oldest first; fresh counts the bus reads made, each of which takes a free value (log 11). -/
structure State where
  pkgs : Tbl Package
  cores : Tbl Core
  warps : Tbl Warp
  teams : Tbl Team
  launches : Tbl Launch
  mem : Memory
  memPoison : Sparse 1
  memUpset : Sparse 2
  posted : List Posted
  insts : Tbl Inst
  cur : Option Issue
  oracle : List Move
  waited : List (Nat × Nat)
  readyAt : Tbl Nat
  turn : Nat
  fresh : Nat
  nextId : Nat
deriving DecidableEq, Repr

/-- Why the machine stops with a fault. -/
inductive Fault where
  /-- An event names a unit no package has (a die above 1, a core above 159, a clock of one).
  Raised by the events; safe: the hardware has no such event. -/
  | absentUnit
deriving DecidableEq, Repr

/-- Why an instruction or event has no meaning here. -/
inductive Refusal where
  /-- The instruction is not modelled yet. Raised by the dispatch alone; safe. -/
  | notModelled (mnemonic : String)
  /-- An instruction was handed to the machine while no split is issuing. Raised by every
  instruction's meaning; safe: the hardware executes instructions only through a split. -/
  | noIssue
deriving DecidableEq, Repr

/-- A core after device reset (R317, R323, R465, R485). -/
def Core.reset : Core :=
  { shared := [], sharedPoison := [], sharedUpset := [], accum := [], accumPoison := [],
    accumFlips := [], tiles := [], barriers := [], l1 := [], l1Ways := [], epoch := 0#32,
    icache := [], icacheNext := 0, tlb := [], pipe := [], matrix := [], rendezvous := [], copies := [],
    copyNext := 0, readers := [], events := [], cycle := 0#64, lastRole := [], withdrawn := false }

/-- The interleave of a die after device reset: map A lists slices 0 to 255 in order (R288). -/
def DieMap.reset : DieMap :=
  { mapA := List.range 256, mapB := [], useB := false, regions := [], cxlSlices := [],
    withdrawing := none }

/-- A package after device reset (R288, R295, R308, R310, R314, R430, R485; log 7 for the values the
spec does not state). -/
def Package.reset : Package :=
  { number := 0, inDomain := false, rings := [], runs := [], partitions := [], collSize := 0,
    grants := 0#256, dies := [], cxlWindows := [], residency := [], phases := [], sweepDue := [],
    segLines := [], segWays := [], l2Lines := [], l2Ways := [], promos := [], clusterTlb := [],
    walks := [], walkNext := [], fabric := [], chDeliveries := [], chCredits := [], multicasts := [], modules := [],
    turnQueue := [], turnActive := none, guards := [], steerDue := 0, dieEvents := [], errors := [],
    capacity := [], stations := [], meshCycles := [], linkCycles := [], firmware := [],
    activeFw := 0, fwPending := none, notifyQueue := none, notices := [], completions := [], done := 0, reads := [],
    bar2Size := 17179869184, wbase0 := 0, wbase1 := 0, linksDown := [], bar0 := none, bar2 := none, queueRegs := [],
    bells := [], inbound := [], slots := [] }

/-- The machine right after device reset: no launch, no warp, nothing bound (R26, R295; log 3 says
how a program comes to run). -/
def State.reset : State :=
  { pkgs := [], cores := [], warps := [], teams := [], launches := [], mem := [], memPoison := [],
    memUpset := [], posted := [], insts := [], cur := none, oracle := [], waited := [], readyAt := [], turn := 0, fresh := 0, nextId := 0 }

end Sys2Proof.Machine
end

