-- ==== Sys2Proof/Machine/Tables.lean ====
section
/-!
DEFINITION. Machine/Tables.lean: sparse tables and sets of lanes, the parts of the State by key, and
the event and error counters (R482 to R487).
-/

namespace Sys2Proof.Machine

open Sys2Proof

/-! ## Sparse tables -/

/-- The entry of a key. -/
def tget {α : Type} : Tbl α → Nat → Option α
  | [], _ => none
  | (a, x) :: r, k => if a = k then some x else tget r k

/-- The table with a key's entry set; keys stay rising. -/
def tput {α : Type} : Tbl α → Nat → α → Tbl α
  | [], k, v => [(k, v)]
  | (a, x) :: r, k, v =>
    if k < a then (k, v) :: (a, x) :: r else if k = a then (k, v) :: r else (a, x) :: tput r k v

/-- The table without a key's entry. -/
def tdel {α : Type} : Tbl α → Nat → Tbl α
  | [], _ => []
  | (a, x) :: r, k => if a = k then r else (a, x) :: tdel r k

/-- Keys strictly rising, from a bound upward. -/
def twfFrom {α : Type} : Nat → Tbl α → Bool
  | _, [] => true
  | b, (a, _) :: r => b ≤ a && twfFrom (a + 1) r

/-- The canonical form of a table: keys strictly rising. -/
def twf {α : Type} (t : Tbl α) : Bool := twfFrom 0 t

/-- A word of a sparse map; what is not listed is zero. -/
def sget {w : Nat} (t : Sparse w) (k : Nat) : BitVec w := (tget t k).getD 0#w

/-- A sparse map with a word set; zero words are not listed. -/
def sput {w : Nat} (t : Sparse w) (k : Nat) (v : BitVec w) : Sparse w :=
  if v = 0#w then tdel t k else tput t k v

/-- The canonical form of a sparse map: keys strictly rising, no zero word listed. -/
def swf {w : Nat} (t : Sparse w) : Bool := twf t && t.all (fun c => c.2 != 0#w)

/-- One byte of memory (log 1: unlisted bytes read as zero). -/
def mget (m : Memory) (a : Nat) : Byte := sget (w := 8) m a

/-- One byte of memory set. -/
def mput (m : Memory) (a : Nat) (b : Byte) : Memory := sput (w := 8) m a b

/-- The canonical form of memory: addresses strictly rising, no byte listed that an unlisted address
reads as. -/
def Memory.wf (m : Memory) : Bool := swf (w := 8) m

/-- n bytes from an address. -/
def mgets (m : Memory) (a : Nat) : Nat → List Byte
  | 0 => []
  | n + 1 => mget m a :: mgets m (a + 1) n

/-- Bytes stored from an address upward. -/
def mputs (m : Memory) (a : Nat) : List Byte → Memory
  | [] => m
  | b :: bs => mputs (mput m a b) (a + 1) bs

/-- The entry at a position of a list. -/
def lget {α : Type} : List α → Nat → Option α
  | [], _ => none
  | x :: _, 0 => some x
  | _ :: r, n + 1 => lget r n

/-- A list with the entry at a position replaced. -/
def lset {α : Type} : List α → Nat → α → List α
  | [], _, _ => []
  | _ :: r, 0, v => v :: r
  | x :: r, n + 1, v => x :: lset r n v

/-- A list without the entry at a position. -/
def ldel {α : Type} : List α → Nat → List α
  | [], _ => []
  | _ :: r, 0 => r
  | x :: r, n + 1 => x :: ldel r n

/-- The numbers from a to a + n - 1. -/
def span (a n : Nat) : List Nat := (List.range n).map (a + ·)

/-- The least number below n that satisfies f. -/
def firstBelow (n : Nat) (f : Nat → Bool) : Option Nat := (List.range n).find? f

/-! ## Sets of lanes -/

/-- The number whose bit l is f l, for l below n. -/
def bitsNat (f : Nat → Bool) : Nat → Nat
  | 0 => 0
  | n + 1 => bitsNat f n + (if f n then 2 ^ n else 0)

/-- The set of lanes that satisfy f. -/
def mkLanes (f : Nat → Bool) : Lanes := BitVec.ofNat 96 (bitsNat f 96)

/-- The lanes of a set, ascending. -/
def lanesOf (m : Lanes) : List Nat := (List.range 96).filter (fun l => m.getLsbD l)

/-- The number of lanes of a set. -/
def laneCount (m : Lanes) : Nat := (lanesOf m).length

/-- The lowest lane of a set. -/
def lowLane (m : Lanes) : Option Nat := firstBelow 96 (fun l => m.getLsbD l)

/-- A set holding the lanes of a list. -/
def lanesOfList (ls : List Nat) : Lanes := mkLanes (fun l => ls.contains l)

/-- Whether a set has no lane. -/
def noLanes (m : Lanes) : Bool := m == 0#96

/-- A register's words, lane by lane. -/
def mkWords (f : Nat → Word) : Vector Word 96 := Vector.ofFn (fun i => f i.val)

/-- The word of a lane; no word beyond lane 95. -/
def wordAt (v : Vector Word 96) (l : Nat) : Word := (lget v.toList l).getD 0#32

/-! ## Parts of the State -/

/-- A warp slot that holds no warp. -/
def Warp.blank : Warp :=
  { team := 0, warpid := 0, role := 0#2, local_ := 0, budget := 0, granules := [], live := 0#96,
    helper := 0#96, exited := 0#96, plane0 := 0#96, plane1 := 0#96, vregs := [], sregs := [], aregs := [],
    pregs := [], upsets := [], mcols := [], gang := [], kregs := [], kvregs := [], hl := [], areuse := none,
    ws := [], staged := true, fast := [], lastIssued := 0, waiting := false, splits := [], unseated := 0#96, uactive := 0#96, uoffset := [],
    fxa := 0#32, evsel := 0#32, evcnt := [], trapMode := false, trapCause := 0#32,
    trapPc := 0#64, trapVa := 0#80, trapLanes := 0#96, trapPc0 := 0#64, trapEntry := 0, trapDone := Progress.start,
    savedWs := [], savedHl := [], trapSplit := none, save := [], batchNext := 0#16,
    batchDone := 0xFFFF#16, batches := [], park := .no, reissues := [], pend := [], acks := [],
    desc := [], frozen := [], walkFails := [], entryUnchecked := false, retired := false }

/-- The record of a launch that is not there. -/
def LaunchRec.blank : LaunchRec :=
  { codebase := 0#80, planes := 0#2, pstride := 0, roles := [], shared := 0, accum := 0, tiles := 0,
    barT := 0, barS := 0, barG := 0, teams := 0, fuse := false, coll := false, veer := false,
    hqs := [], sends := [], recvs := [] }

/-- A launch that is not there. -/
def Launch.blank : Launch :=
  { pkg := 0, ring := 0, slot := 0, info := LaunchRec.blank, recAddr := 0#80, args := 0#80,
    handler := 0#80, root := 0, asn := 0, tkey := 0#8, prio := 0, granted := false,
    replayable := false, replays := 0, outputs := [], ending := none, replaying := false,
    combiners := [], arrivals := [], releases := [], finished := true }

/-- A team that is not there. -/
def Team.blank : Team :=
  { launch := 0, number := 0, core := 0, run := .ended, sharedBlocks := [], accumBlocks := [],
    tileMap := [], barMap := [], warpSlots := [], hqs := [], sends := [], recvs := [], image := none, resuming := false }

def State.warp (s : State) (w : Nat) : Warp := (tget s.warps w).getD Warp.blank
def State.core (s : State) (g : Nat) : Core := (tget s.cores g).getD Core.reset
def State.pkg (s : State) (p : Nat) : Package := (tget s.pkgs p).getD Package.reset
def State.team (s : State) (t : Nat) : Team := (tget s.teams t).getD Team.blank
def State.launch (s : State) (l : Nat) : Launch := (tget s.launches l).getD Launch.blank

def State.setWarp (s : State) (w : Nat) (x : Warp) : State := { s with warps := tput s.warps w x }
def State.setCore (s : State) (g : Nat) (x : Core) : State := { s with cores := tput s.cores g x }
def State.setPkg (s : State) (p : Nat) (x : Package) : State := { s with pkgs := tput s.pkgs p x }
def State.setTeam (s : State) (t : Nat) (x : Team) : State := { s with teams := tput s.teams t x }
def State.setLaunch (s : State) (l : Nat) (x : Launch) : State :=
  { s with launches := tput s.launches l x }

def State.modWarp (s : State) (w : Nat) (f : Warp → Warp) : State := s.setWarp w (f (s.warp w))
def State.modCore (s : State) (g : Nat) (f : Core → Core) : State := s.setCore g (f (s.core g))
def State.modPkg (s : State) (p : Nat) (f : Package → Package) : State := s.setPkg p (f (s.pkg p))
def State.modTeam (s : State) (t : Nat) (f : Team → Team) : State := s.setTeam t (f (s.team t))
def State.modLaunch (s : State) (l : Nat) (f : Launch → Launch) : State :=
  s.setLaunch l (f (s.launch l))

/-- A number never used before for a producer, request or command. -/
def State.takeId (s : State) : Nat × State := (s.nextId, { s with nextId := s.nextId + 1 })

/-! ## Keys (R6) -/

/-- The core of a warp, the die and package of a core, the slot and scheduler of a warp. -/
def coreOf (w : Nat) : Nat := w / 48
def slotOf (w : Nat) : Nat := w % 48
def schedOf (w : Nat) : Nat := w % 48 / 12
def pkgOf (g : Nat) : Nat := g / 320
def dieOf (g : Nat) : Nat := g % 320 / 160
def coreNum (g : Nat) : Nat := g % 160

/-- The launch of a team and of a warp. -/
def State.launchOf (s : State) (t : Nat) : Launch := s.launch (s.team t).launch
def State.warpLaunch (s : State) (w : Nat) : Launch := s.launchOf (s.warp w).team
def State.warpTeam (s : State) (w : Nat) : Team := s.team (s.warp w).team

/-- The warp slots that a team was given, by key. -/
def Team.warpKeys (t : Team) : List Nat := t.warpSlots.map (48 * t.core + ·)

/-- The warps of a team that still have their slots. -/
def State.teamWarps (s : State) (t : Nat) : List Nat :=
  (s.team t).warpKeys.filter (fun k => match tget s.warps k with | some w => w.team == t | none => false)

/-- The planes of a kernel: 1, 2 or 4 (R18). -/
def LaunchRec.planeCount (r : LaunchRec) : Nat := 2 ^ r.planes.toNat

/-- The split table entry e of a warp. -/
def Warp.split (w : Warp) (e : Nat) : Split := (tget w.splits e).getD Split.free

def Warp.setSplit (w : Warp) (e : Nat) (x : Split) : Warp := { w with splits := tput w.splits e x }

def Warp.modSplit (w : Warp) (e : Nat) (f : Split → Split) : Warp := w.setSplit e (f (w.split e))

/-- The plane of a lane (R231). -/
def Warp.planeOf (w : Warp) (l : Nat) : Nat :=
  (if w.plane0.getLsbD l then 1 else 0) + (if w.plane1.getLsbD l then 2 else 0)

/-- The live lanes of a plane. -/
def Warp.planeLanes (w : Warp) (p : Nat) : Lanes :=
  (if p % 2 = 1 then w.plane0 else ~~~w.plane0) &&& (if p / 2 % 2 = 1 then w.plane1 else ~~~w.plane1)

/-- The entries of a warp's split table that hold a split. -/
def Warp.validEntries (w : Warp) : List Nat := (List.range 8).filter (fun e => (w.split e).valid)

/-! ## Counters (R482 to R487) -/

/-- n more in a counter of a table. -/
def bump (t : Tbl (BitVec 64)) (k n : Nat) : Tbl (BitVec 64) :=
  if n = 0 then t else tput t k ((tget t k).getD 0#64 + BitVec.ofNat 64 n)

/-- n events of a core code (scope C). -/
def countCore (code n g : Nat) (s : State) : State :=
  if n = 0 then s else s.modCore g (fun c => { c with events := bump c.events code n })

/-- The event code that EVk selects (R191). -/
def evSel (w : Warp) (k : Nat) : Nat := (fieldOf w.evsel (8 * k) 8).toNat

/-- EVCNT0 to EVCNT3 after n events of a code (R483). -/
def Warp.counted (w : Warp) (code n : Nat) : Warp :=
  { w with evcnt := (List.range 4).foldl (fun t k =>
      if evSel w k == code then tput t k ((tget t k).getD 0#32 + BitVec.ofNat 32 n) else t) w.evcnt }

/-- n events of a warp code (scope W): the warp's counters and its core's. -/
def countWarp (code n w : Nat) (s : State) : State :=
  if n = 0 then s
  else countCore code n (coreOf w) (s.modWarp w (fun x => x.counted code n))

/-- n events of a die code (scope D). Keys are 64 * die + code - 64. -/
def countDie (code n p d : Nat) (s : State) : State :=
  s.modPkg p (fun x => { x with dieEvents := bump x.dieEvents (64 * d + (code - 64)) n })

/-- n more in error counter i of a die (R486). Keys are 16 * die + i. -/
def countError (i n p d : Nat) (s : State) : State :=
  if n = 0 then s else s.modPkg p (fun x => { x with errors := bump x.errors (16 * d + i) n })

/-- An error counter of the die of a core. -/
def countErrorAt (i n g : Nat) (s : State) : State := countError i n (pkgOf g) (dieOf g) s

end Sys2Proof.Machine
end

