-- ==== Sys2Proof/Machine/Flags.lean ====
section
/-!
DEFINITION. Machine/Flags.lean: the flag register FXA (R132 to R136). The condition of each flag is
computed with the result it belongs to, in Machine/Float.lean and Machine/Matrix.lean.
-/

namespace Sys2Proof.Machine

open Sys2Proof

/-- The sticky flags of a warp. -/
def Warp.flags (w : Warp) : FFlags := fieldOf w.fxa 0 5

/-- The flags joined into FXA: hardware only sets them (R132). -/
def Warp.orFlags (w : Warp) (f : FFlags) : Warp := { w with fxa := w.fxa ||| f.setWidth 32 }

/-- The bits of FXA that software writes (R132). -/
def fxaMask : Word := 0x1F1F#32

/-- FXA written by SWR: a reserved bit stays 0 (R132). -/
def Warp.writeFxa (w : Warp) (v : Word) : Warp := { w with fxa := v &&& fxaMask }

/-- Whether a flag is set whose enable is set (R135). -/
def Warp.fpPending (w : Warp) : Bool := fieldOf w.fxa 0 5 &&& fieldOf w.fxa 8 5 != 0#5

/-- Whether a float instruction of the warp has not written back (R135). -/
def Warp.floatsOut (w : Warp) : Bool := w.pend.any (·.isFloat)

end Sys2Proof.Machine
end

