-- ==== Sys2Proof/Machine/Operands.lean ====
section
/-!
DEFINITION. Machine/Operands.lean: every operand form: vector registers with their tags and poison,
kv registers, latches, zero and the scalar broadcast; scalars with the execution mask in s0 to s2;
addresses; predicates; and which of them wait, trap or are poisoned (R48, R84 to R114, R217, R236).
-/

namespace Sys2Proof.Machine

open Sys2Proof

/-! ## Vector registers -/

/-- The lanes that exist in a warp: live lanes, those that have exited among them, and helper lanes
(R12, R85, R258). -/
def Warp.present (w : Warp) : Lanes := w.live ||| w.helper ||| w.exited

/-- The words of register n in the main file. -/
def Warp.mainReg (w : Warp) (n : Nat) : VReg := (tget w.vregs n).getD VReg.zero

/-- The register a code 0 to 639 or 644 to 647 names: in the fast file while it is staged, else in the main file
(R90, R95). -/
def Warp.vreg (w : Warp) (c : Nat) : VReg :=
  if isKv c then (tget w.kvregs (c - 644)).getD VReg.zero
  else match tget w.fast c with
    | some x => x.reg
    | none => w.mainReg c

/-- A register replaced where it stands, as a correction of its words does (R88): whether it was written while staged
stays. -/
def Warp.keepVreg (w : Warp) (c : Nat) (r : VReg) : Warp :=
  if isKv c then { w with kvregs := tput w.kvregs (c - 644) r }
  else match tget w.fast c with
    | some x => { w with fast := tput w.fast c { x with reg := r } }
    | none => { w with vregs := tput w.vregs c r }

/-- The register a code names, written. A staged register is now written while staged (R91); a write to a latched A
register makes the A-reuse latch invalid (R103). -/
def Warp.setVreg (w : Warp) (c : Nat) (r : VReg) : Warp :=
  if isKv c then { w with kvregs := tput w.kvregs (c - 644) r }
  else { w with
    vregs := if (tget w.fast c).isSome then w.vregs else tput w.vregs c r
    fast := if (tget w.fast c).isSome then tput w.fast c { reg := r, written := true } else w.fast
    areuse := match w.areuse with
      | some a => if a.base ≤ c && c < a.base + 8 then none else some a
      | none => none }

/-- A vector source as an instruction sees it: tag, words, poison; free is set for zero and a scalar
broadcast, which pass every tag check (R48, R113). -/
structure Src where
  tag : BitVec 4
  word : Nat → Word
  poison : Lanes
  free : Bool

/-- The exclusive OR of the bits of a value. -/
def parityOf {n : Nat} (x : BitVec n) : Bool :=
  (List.range n).foldl (fun b i => b != x.getLsbD i) false

/-- TPAR no longer fits TAG: a soft error in the field (R87, R88). -/
def VReg.tagError (r : VReg) : Bool := r.tpar != parityOf r.tag

/-- The flips of a lane word. -/
def VReg.flipsOf (r : VReg) (l : Nat) : BitVec 39 := (tget r.flips l).getD 0#39

/-- The number of bits set. -/
def onesOf {n : Nat} (x : BitVec n) : Nat := ((List.range n).filter (fun i => x.getLsbD i)).length

/-- What SECDED makes of the flips of a lane word: an odd number is taken for one bit and corrected, an even one
is found as two (R88). -/
def flipsFatal (f : BitVec 39) : Bool := f != 0#39 && onesOf f % 2 == 0

/-- The lanes whose words hold an error that is corrected, and one that is not. -/
def VReg.weak (r : VReg) : Lanes := lanesOfList ((r.flips.filter (fun x => !flipsFatal x.2)).map (·.1))
def VReg.lost (r : VReg) : Lanes := lanesOfList ((r.flips.filter (fun x => flipsFatal x.2)).map (·.1))

/-- CHECK of a lane word: six Hamming bits over DATA, bit i the parity of the data bits whose position in the code,
counted from 1 past the powers of two, has bit i set, and the overall parity (R87; log 33). -/
def checkOf (x : Word) : BitVec 7 :=
  let place (j : Nat) : Nat :=
    if j = 0 then 3 else if j < 4 then j + 4 else if j < 11 then j + 5 else if j < 26 then j + 6 else j + 7
  let h (i : Nat) : Bool := (List.range 32).foldl (fun b j => if (place j).testBit i then b != x.getLsbD j else b) false
  let c : BitVec 7 := BitVec.ofNat 7 (bitsNat h 6)
  if parityOf x != parityOf c then c ||| 64#7 else c

/-- A lane word as the files store it: POISON copies, CHECK and DATA, with the bits that soft errors have turned
(R87). -/
def VReg.stored (r : VReg) (l : Nat) : BitVec 41 :=
  let x := wordAt r.words l
  let p : BitVec 2 := (if r.poison2.getLsbD l then 2#2 else 0#2) ||| (if r.poison.getLsbD l then 1#2 else 0#2)
  p ++ ((checkOf x ++ x) ^^^ r.flipsOf l)

/-- The tag as a read finds it: a parity error reads as B32 (R88). -/
def VReg.tagNow (r : VReg) : BitVec 4 := if r.tagError then 14#4 else r.tag

/-- The poison as a read finds it: either copy of the bit, a double-bit error of its word, or a tag error (R87,
R88). -/
def VReg.poisonNow (r : VReg) : Lanes := if r.tagError then ~~~0#96 else r.poison ||| r.poison2 ||| r.lost

/-- A register read as a source: absent lanes read zero (R85). -/
def regSrc (w : Warp) (r : VReg) : Src :=
  { tag := r.tagNow, word := fun l => if w.present.getLsbD l then wordAt r.words l else 0#32,
    poison := r.poisonNow &&& w.present, free := false }

/-- The zero source (R48). -/
def zeroSrc : Src := { tag := 14#4, word := fun _ => 0#32, poison := 0#96, free := true }

/-- A value given to every lane. -/
def wordSrc (x : Word) (poison : Bool) : Src :=
  { tag := 14#4, word := fun _ => x, poison := if poison then ~~~0#96 else 0#96, free := true }

/-! ## Scalars, addresses, predicates -/

/-- Scalar register n as stored. -/
def Warp.sreg (w : Warp) (n : Nat) : SReg :=
  (tget w.sregs n).getD { val := 0#32, empty := false, poison := false }

/-- Whether two bits of a scalar or address register, or of a beat of a predicate, are in error. -/
def Warp.lost (w : Warp) (c : Nat) : Bool := tget w.upsets c == some true

/-- Whether a read of scalar register n finds it poisoned. -/
def Warp.sPoison (w : Warp) (n : Nat) : Bool := (w.sreg n).poison || w.lost (768 + n)

/-- The execution mask of a split, or of the trap split (R236). -/
def Warp.execMask (w : Warp) (e : Nat) : Lanes :=
  if w.trapMode then (match w.trapSplit with | some t => t.mask | none => 0#96)
  else (w.split e).active

/-- Scalar n as the split of entry e reads it: s0 to s2 are its execution mask (R236). -/
def Warp.scalar (w : Warp) (e n : Nat) : Word :=
  if n < 3 then (w.execMask e).extractLsb' (32 * n) 32 else (w.sreg n).val

/-- The scalar a code names; code 643 reads 0. -/
def Warp.sval (w : Warp) (e c : Nat) : Word := if isS c then w.scalar e (c - 768) else 0#32

/-- The lanes with word k (0 to 2) replaced. -/
def setWord96 (m : Lanes) (k : Nat) (v : Word) : Lanes :=
  mkLanes (fun l => if l / 32 = k then v.getLsbD (l % 32) else m.getLsbD l)

/-- Scalar n written by the split of entry e: a write to s0 to s2 changes its execution mask, within
its members (R180, R236). -/
def Warp.setScalar (w : Warp) (e n : Nat) (v : Word) (poison : Bool) : Warp :=
  if n < 3 then
    if w.trapMode then
      { w with trapSplit := w.trapSplit.map (fun t => { t with mask := setWord96 t.mask n v &&& w.live }) }
    else w.modSplit e (fun x => { x with active := setWord96 x.active n v &&& x.members })
  else { w with sregs := tput w.sregs n { val := v, empty := false, poison := poison },
                upsets := tdel w.upsets (768 + n) }

/-- The scalar a code names, written; code 643 discards (R48). -/
def Warp.setS (w : Warp) (e c : Nat) (v : Word) : Warp :=
  if isS c then w.setScalar e (c - 768) v false else w

/-- Consecutive scalars written. -/
def Warp.setSs (w : Warp) (e c : Nat) : List Word → Warp
  | [] => w
  | v :: vs => if isS c then (w.setS e c v).setSs e (c + 1) vs else w

/-- n consecutive scalars as one value, the first lowest. -/
def Warp.svals (w : Warp) (e c : Nat) : Nat → Nat
  | 0 => 0
  | n + 1 => (w.sval e c).toNat + 2 ^ 32 * w.svals e (if isS c then c + 1 else c) n

/-- The 32-bit words of a value, lowest first. -/
def wordsOf : Nat → Nat → List Word
  | 0, _ => []
  | n + 1, v => BitVec.ofNat 32 v :: wordsOf n (v / 2 ^ 32)

/-- The address register a code 704 to 767 names. -/
def Warp.areg (w : Warp) (c : Nat) : AReg :=
  (tget w.aregs (c - 704)).getD { val := 0#80, poison := false }

def Warp.aval (w : Warp) (c : Nat) : A80 := (w.areg c).val

/-- Whether a read of an address register finds it poisoned. -/
def Warp.aPoison (w : Warp) (c : Nat) : Bool := (w.areg c).poison || w.lost c

def Warp.setA (w : Warp) (c : Nat) (v : A80) : Warp :=
  { w with aregs := tput w.aregs (c - 704) { val := v, poison := false }, upsets := tdel w.upsets c }

/-- A predicate register. -/
def Warp.preg (w : Warp) (n : Nat) : PReg := (tget w.pregs n).getD { bits := 0#96, poison := 0#3 }

/-- The bits of a predicate register; absent lanes read zero (R85). -/
def Warp.pbits (w : Warp) (n : Nat) : Lanes := (w.preg n).bits &&& w.present

/-- The beats of a predicate register that a read finds poisoned. -/
def Warp.pPoison (w : Warp) (n : Nat) : BitVec 3 :=
  (w.preg n).poison ||| BitVec.ofNat 3 (bitsNat (fun b => w.lost (2000 + 3 * n + b)) 3)

/-- The lanes of beats set in a 3-bit mask. -/
def beatLanes (b : BitVec 3) : Lanes := mkLanes (fun l => b.getLsbD (l / 32))

/-- The beats in which a set has a lane. -/
def beatsOf (m : Lanes) : BitVec 3 :=
  BitVec.ofNat 3 (bitsNat (fun b => m.extractLsb' (32 * b) 32 != 0#32) 3)

/-- Lanes of a predicate written. A beat's poison clears when every lane of the beat that exists is
written; absent lanes are not written (R85, R89). -/
def Warp.setP (w : Warp) (n : Nat) (mask bits : Lanes) : Warp :=
  let m := mask &&& w.present
  let o := w.preg n
  let kept := beatsOf (w.present &&& ~~~m)
  let x : PReg := { bits := (o.bits &&& ~~~m) ||| (bits &&& m), poison := o.poison &&& kept }
  { w with
    pregs := tput w.pregs n x
    upsets := w.upsets.filter (fun u => u.1 < 2000 + 3 * n || 2003 + 3 * n ≤ u.1 || kept.getLsbD (u.1 - 2000 - 3 * n)) }

/-! ## Vector sources and destinations -/

/-- The latch entry a code 640 to 642 names, when valid. -/
def Warp.latch (w : Warp) (c : Nat) : Option Latch := tget w.hl (c - 640)

/-- The vector source a code names: a register, a latch entry, zero, or a scalar broadcast (R48). -/
def Warp.src (w : Warp) (e c : Nat) : Src :=
  if isV c || isKv c then regSrc w (w.vreg c)
  else if isHl c then
    match w.latch c with
    | some x => regSrc w x.reg
    | none => zeroSrc
  else if isS c then wordSrc (w.scalar e (c - 768)) (3 ≤ c - 768 && w.sPoison (c - 768))
  else zeroSrc

/-- Lanes of a register written with words and poison under a tag; absent lanes are not written, and
a written word has no upset left (R85, R89, R112). -/
def VReg.write (r : VReg) (tag : BitVec 4) (m : Lanes) (f : Nat → Word) (poison : Lanes) : VReg :=
  { r with
    tag := tag
    tpar := parityOf tag
    words := mkWords (fun l => if m.getLsbD l then f l else wordAt r.words l)
    poison := (r.poison &&& ~~~m) ||| (poison &&& m)
    poison2 := (r.poison2 &&& ~~~m) ||| (poison &&& m)
    flips := r.flips.filter (fun x => !m.getLsbD x.1) }

/-- The vector destination a code names: code 643 discards; with no lane the register keeps its
contents and its tag (R48, R112). -/
def Warp.putV (w : Warp) (c : Nat) (tag : BitVec 4) (mask : Lanes) (f : Nat → Word)
    (poison : Lanes) : Warp :=
  if (isV c || isKv c) && mask != 0#96 then
    w.setVreg c ((w.vreg c).write tag (mask &&& w.present) f poison)
  else w

/-- The tag alone of a destination, written at the issue of a long-latency producer (R112). -/
def Warp.putTag (w : Warp) (c : Nat) (tag : BitVec 4) : Warp :=
  if isV c || isKv c then w.setVreg c { w.vreg c with tag := tag, tpar := parityOf tag } else w

/-- EMPTY of a vector or scalar register (R104). -/
def Warp.isEmpty (w : Warp) (c : Nat) : Bool :=
  if isV c || isKv c then (w.vreg c).empty
  else if isS c then (w.sreg (c - 768)).empty else false

def Warp.setEmpty (w : Warp) (c : Nat) (b : Bool) : Warp :=
  if isV c || isKv c then w.setVreg c { w.vreg c with empty := b }
  else if isS c then
    { w with sregs := tput w.sregs (c - 768) { w.sreg (c - 768) with empty := b } }
  else w

/-! ## What a word of an instruction names -/

/-- The codes of a field's registers; zero and a latch stand for one; a scalar broadcast for one
scalar a register. -/
def fldCodes (f : Fld) : List Nat :=
  if f.code = 643 || isHl f.code then [f.code] else span f.code f.span

/-- Every vector register an instruction names that must lie in the working set (R92). -/
def namedV (fs : List Fld) : List Nat :=
  (fs.filter (fun f => f.kind.isVSrc || f.kind.isVDst)).flatMap (fun f => (fldCodes f).filter isV)

/-- A register lies in a working set (R91). -/
def inWs (ws : List WsRange) (c : Nat) : Bool := ws.any (fun r => r.base ≤ c && c < r.base + r.len)

/-- Some field names a kv register (R48). -/
def namesKv (fs : List Fld) : Bool :=
  fs.any (fun f => (f.kind.isVSrc || f.kind.isVDst) && (fldCodes f).any isKv)

/-- Some field reads a latch entry that is invalid (R101). -/
def readsInvalidLatch (w : Warp) (fs : List Fld) : Bool :=
  fs.any (fun f => f.kind.isVSrc && isHl f.code && (w.latch f.code).isNone)

/-- Tag t passes for format x (R113). -/
def tagPasses (x t : BitVec 4) : Bool :=
  t != 14#4 && (t == x || (x.toNat ≤ 5 && t.toNat ≤ 5 && x.toNat / 2 == t.toNat / 2))

/-- A source register passes its field's tag check (R113). -/
def tagOkReg (w : Warp) (x : BitVec 4) (c : Nat) : Bool :=
  if isV c || isKv c then tagPasses x (w.vreg c).tagNow
  else if isHl c then
    match w.latch c with
    | some e => tagPasses x e.reg.tagNow
    | none => true
  else true

/-- Every source passes its tag check (R113, R114). -/
def tagsOk (w : Warp) (fs : List Fld) : Bool :=
  fs.all (fun f => !f.kind.isVSrc || match f.fmt with
    | some x => (fldCodes f).all (tagOkReg w x)
    | none => true)

/-- What an empty register does to an instruction. -/
inductive EmptyOutcome where
  | go
  | wait
  | trap
deriving DecidableEq, Repr

/-- The FEB bit that governs a position (R45). -/
def febBit (h : Hdr) (pos : Nat) : Bool :=
  if pos = 1 then h.feb.getLsbD 2 else if pos = 2 then h.feb.getLsbD 1
  else if pos = 3 then h.feb.getLsbD 0 else false

/-- The first empty register among the sources, then the destinations (R105, R106): own lists the
registers the instruction itself has emptied in an earlier pass (R104). Of two empty sources, one to wait for and one that
traps, the first in the order of the fields decides; the spec does not say which (DESIGN CHOICE; log 19). -/
def emptyCheck (w : Warp) (h : Hdr) (fs : List Fld) (own : List Nat) : EmptyOutcome :=
  let hit (c : Nat) : Bool := w.isEmpty c && !own.contains c
  let rd := fs.filter (fun f => f.kind.isVSrc || (f.kind.isSSrc && f.consume))
  let wr := fs.filter (fun f => f.kind.isVDst || f.kind.isSDst)
  match rd.find? (fun f => (fldCodes f).any hit) with
  | some f =>
    if febBit h f.pos && hit f.code then .trap else .wait
  | none => if wr.any (fun f => (fldCodes f).any hit) then .wait else .go

/-- The lanes that consume a poisoned word through the vector fields, among the live lanes that take
part (R217). -/
def poisonLanes (w : Warp) (e : Nat) (fs : List Fld) (part : Lanes) : Lanes :=
  fs.foldl (fun m f =>
    if f.kind.isVSrc && f.consume then
      (fldCodes f).foldl (fun m c => m ||| ((w.src e c).poison &&& part)) m
    else m) 0#96

/-- Whether a scalar, address or predicate field reads a poisoned word (R217). -/
def poisonScalar (w : Warp) (fs : List Fld) : Bool :=
  fs.any (fun f =>
    if f.kind.isSSrc then
      f.consume && (fldCodes f).any (fun c => isS c && 3 ≤ c - 768 && w.sPoison (c - 768))
    else if f.kind == .asrc then w.aPoison f.code
    else if f.kind == .psrc || f.kind == .psrc643 then
      f.consume && f.code ≤ 14 && w.pPoison f.code &&& beatsOf w.present != 0#3
    else false)

/-! ## Soft errors (R88) -/

/-- Whether a read of a register would find an error. -/
def VReg.struck (r : VReg) : Bool := r.tagError || !r.flips.isEmpty

/-- A register as its reads leave it: a word in error of one bit is rewritten, one in error of two is poisoned
with what it holds now, a tag in error makes the whole register poisoned B32; with the words corrected and those
newly poisoned (R88). -/
def VReg.resolve (r : VReg) : VReg × Nat × Nat :=
  if !r.struck then (r, 0, 0)
  else
    let bad := if r.tagError then ~~~0#96 else r.poison ||| r.lost
    ({ r with
        tag := r.tagNow, tpar := parityOf r.tagNow
        words := if noLanes r.lost then r.words else mkWords (fun l =>
          if r.lost.getLsbD l then wordAt r.words l ^^^ (r.flipsOf l).setWidth 32 else wordAt r.words l)
        poison := bad, poison2 := if r.tagError then ~~~0#96 else r.poison2 ||| r.lost, flips := [] },
      laneCount r.weak, laneCount (r.lost &&& ~~~(r.poison ||| r.poison2)))

/-- The registers named by codes, resolved where they stand, with the counts joined. -/
def Warp.resolveRegs (w : Warp) : List Nat → Warp × Nat × Nat
  | [] => (w, 0, 0)
  | c :: cs =>
    let r := w.vreg c
    if (isV c || isKv c) && r.struck then
      let (r1, ce, ue) := r.resolve
      let (w2, ce2, ue2) := (w.keepVreg c r1).resolveRegs cs
      (w2, ce + ce2, ue + ue2)
    else w.resolveRegs cs

/-- The main-file words of registers, resolved, with the counts joined. -/
def Warp.resolveMain (w : Warp) : List Nat → Warp × Nat × Nat
  | [] => (w, 0, 0)
  | n :: ns =>
    if (w.mainReg n).struck then
      let (r1, ce, ue) := (w.mainReg n).resolve
      let (w2, ce2, ue2) := { w with vregs := tput w.vregs n r1 }.resolveMain ns
      (w2, ce + ce2, ue + ue2)
    else w.resolveMain ns

/-- The poison of a scalar or address register, or of a beat of a predicate, set; and whether it was set
before. -/
def Warp.poisonFile (w : Warp) (c : Nat) : Warp × Bool :=
  if 2000 ≤ c then
    let n := (c - 2000) / 3
    let r := w.preg n
    let b : BitVec 3 := BitVec.ofNat 3 (2 ^ ((c - 2000) % 3))
    ({ w with pregs := tput w.pregs n { r with poison := r.poison ||| b } }, r.poison &&& b != 0#3)
  else if isS c then
    let r := w.sreg (c - 768)
    ({ w with sregs := tput w.sregs (c - 768) { r with poison := true } }, r.poison)
  else
    let r := w.areg c
    ({ w with aregs := tput w.aregs (c - 704) { r with poison := true } }, r.poison)

/-- The scalar, address and predicate words named by codes, resolved, with the words corrected and found
uncorrectable (R84, R486). -/
def Warp.resolveFile (w : Warp) : List Nat → Warp × Nat × Nat
  | [] => (w, 0, 0)
  | c :: cs =>
    match tget w.upsets c with
    | none => w.resolveFile cs
    | some two =>
      let w1 := { w with upsets := tdel w.upsets c }
      if two then
        let (w2, old) := w1.poisonFile c
        let (w3, ce, ue) := w2.resolveFile cs
        (w3, ce, if old then ue else ue + 1)
      else
        let (w3, ce, ue) := w1.resolveFile cs
        (w3, ce + 1, ue)

/-- The scalar, address and predicate words that an instruction reads. -/
def fileReads (h : Hdr) (fs : List Fld) : List Nat :=
  let beats (n : Nat) : List Nat := span (2000 + 3 * n) 3
  fs.flatMap (fun f =>
    if f.kind.isSSrc || f.kind.isVSrc then (fldCodes f).filter isS
    else if f.kind == .asrc then [f.code]
    else if f.kind == .psrc || f.kind == .psrc643 then (if f.code ≤ 14 then beats f.code else [])
    else []) ++ (if h.pred == 15#4 then [] else beats h.pred.toNat)

/-- Vector registers and file words of a warp checked, and the errors found counted (R88, R486). -/
def resolveWarp (k : Nat) (vs cs : List Nat) (s : State) : State :=
  let (w1, ce, ue) := (s.warp k).resolveRegs vs
  let (w2, ce2, ue2) := w1.resolveFile cs
  let g := coreOf k
  countErrorAt 0 ce g (countErrorAt 1 ue g (countErrorAt 2 ce2 g (countErrorAt 3 ue2 g (s.setWarp k w2))))

/-- Whether any word of a warp's files or of the vector registers named by codes is in error. -/
def Warp.struck (w : Warp) (vs : List Nat) : Bool :=
  !w.upsets.isEmpty || vs.any (fun c => (isV c || isKv c) && (w.vreg c).struck)

/-- Every register of a warp that a pass reads is checked, but for those that it reads from the A-reuse latch (R88,
R103). -/
def resolveReads (k : Nat) (h : Hdr) (fs : List Fld) (latched : List Nat) (s : State) : State :=
  let vs := ((fs.filter (fun f => f.kind.isVSrc)).flatMap fldCodes).filter (!latched.contains ·)
  if (s.warp k).struck vs then resolveWarp k vs (fileReads h fs) s else s

/-- The words of main-file registers of a warp checked, and the errors found counted (R88, R486). -/
def resolveMainFile (k : Nat) (ns : List Nat) (s : State) : State :=
  let (w1, ce, ue) := (s.warp k).resolveMain ns
  countErrorAt 0 ce (coreOf k) (countErrorAt 1 ue (coreOf k) (s.setWarp k w1))

/-- Every vector register that a warp's files list. -/
def Warp.listedV (w : Warp) : List Nat :=
  w.vregs.map (·.1) ++ (w.fast.map (·.1)).filter (fun c => (tget w.vregs c).isNone) ++ w.kvregs.map (fun e => 644 + e.1)

/-- Every register of a warp checked, as a context save reads it (R88). -/
def resolveAll (k : Nat) (s : State) : State :=
  resolveWarp k (s.warp k).listedV ((s.warp k).upsets.map (·.1)) s

/-! ## Lanes of a pass -/

/-- The helper lanes of quads in which a live lane is active (R13). -/
def helpersOf (w : Warp) (act : Lanes) : Lanes :=
  if w.helper == 0#96 then 0#96
  else mkLanes (fun l => w.helper.getLsbD l &&
    (act.getLsbD (l / 4 * 4) || act.getLsbD (l / 4 * 4 + 1) || act.getLsbD (l / 4 * 4 + 2) ||
     act.getLsbD (l / 4 * 4 + 3)))

/-- The lanes that pass the predicate of the header (R44). -/
def predLanes (w : Warp) (h : Hdr) : Lanes :=
  if h.pred == 15#4 then ~~~0#96
  else if h.pneg == 1#1 then ~~~(w.pbits h.pred.toNat) else w.pbits h.pred.toNat

/-- The active live lanes of an issue's pass in a plane (R140, R215): in trap mode every lane of the
trap split; in the restricted plane of a re-issue only its lanes. -/
def activeLanes (w : Warp) (q : Issue) (p : Nat) : Lanes :=
  let m := if w.trapMode then w.execMask q.entry &&& w.live
    else w.execMask q.entry &&& w.live &&& w.planeLanes p
  match q.low with
  | some r => if r.1 == p then m &&& r.2 else m
  | none => m

/-- The registers of a warp as they stand (R141). -/
def Warp.sources (w : Warp) : Sources :=
  { vregs := w.vregs, fast := w.fast, sregs := w.sregs, aregs := w.aregs, pregs := w.pregs, upsets := w.upsets,
    kvregs := w.kvregs, hl := w.hl }

/-- A warp seen with registers read earlier; its masks and lanes are those of now (R141, R236). -/
def Warp.withSources (w : Warp) (x : Sources) : Warp :=
  { w with vregs := x.vregs, fast := x.fast, sregs := x.sregs, aregs := x.aregs, pregs := x.pregs, upsets := x.upsets,
           kvregs := x.kvregs, hl := x.hl }

/-- The eight registers that a matrix instruction of A base reads from the A-reuse latch (R103). -/
def Warp.latchedA (w : Warp) (base : Option Nat) : List Nat :=
  match w.areuse, base with
  | some x, some b => if x.base = b then span b 8 else []
  | _, _ => []

/-- A warp as a matrix instruction of A base sees it: with a valid A-reuse latch of that base, the latched registers
(R103). -/
def Warp.withLatch (w : Warp) (base : Option Nat) : Warp :=
  match w.areuse, base with
  | some x, some b =>
    if x.base = b then
      { w with
        fast := []
        vregs := (span b 8).foldl (fun t c => match lget x.regs (c - b) with
          | some r => tput t c r
          | none => t) (w.fast.foldl (fun t (e : Nat × FastReg) => tput t e.1 e.2.reg) w.vregs) }
    else w
  | _, _ => w

/-- A snapshot with the registers that it holds as empty, and that are full now, as they are now: a read of an empty
register waits for its value (R105, R141). -/
def Sources.refreshed (x : Sources) (w : Warp) : Sources :=
  let had := w.withSources x
  let full (c : Nat) : Bool := had.isEmpty c && !w.isEmpty c
  let keys {α : Type} (t : Tbl α) : List Nat := t.map Prod.fst
  let v := (keys x.vregs ++ keys x.fast ++ (keys x.kvregs).map (644 + ·)).filter full
  let r := ((keys x.sregs).map (768 + ·)).filter full
  (r.foldl (fun (y : Warp) c => { y with sregs := tput y.sregs (c - 768) (w.sreg (c - 768)), upsets := tdel y.upsets c })
    (v.foldl (fun (y : Warp) c => y.keepVreg c (w.vreg c)) had)).sources

/-- The lanes that take part in a pass: active and passing the predicate, helper lanes with their
quad (R13, R140). -/
def partLanes (w : Warp) (q : Issue) (p : Nat) (h : Hdr) : Lanes :=
  let a := activeLanes w q p
  (a ||| helpersOf w a) &&& predLanes w h

/-- Whether the predicate register of the header is poisoned in a beat that holds an active live
lane. -/
def guardPoisoned (w : Warp) (h : Hdr) (act : Lanes) : Bool :=
  h.pred != 15#4 && w.pPoison h.pred.toNat &&& beatsOf act != 0#3

end Sys2Proof.Machine
end

