-- ==== Sys2Proof/Machine/Memory.lean ====
section
/-!
DEFINITION. Machine/Memory.lean: page-table walks and TLBs, the interleave and the home slices, the
segments and L2 slices, the L1, and reads, writes and atomic steps of global, shared and accumulator
memory (R281 to R293, R317 to R328, R365, R366).
-/

namespace Sys2Proof.Machine

open Sys2Proof

/-! ## Places of global memory -/

/-- The key of a byte: package, KIND of the leaf, address. -/
def gkey (p kind a : Nat) : Nat := 2 ^ 59 * p + 2 ^ 56 * kind + a

/-- KIND, package and address of a key. -/
def keyKind (k : Nat) : Nat := k / 2 ^ 56 % 8
def keyPkg (k : Nat) : Nat := k / 2 ^ 59
def keyAddr (k : Nat) : Nat := k % 2 ^ 56

/-- The little-endian 64-bit word at a key. -/
def read64 (s : State) (k : Nat) : BitVec 64 := BitVec.ofNat 64 (leValue (mgets s.mem k 8))

/-- Whether a word of memory that holds a byte is poisoned, an upset of two bits included (R88). -/
def wordPoisoned (s : State) (k : Nat) : Bool :=
  sget s.memPoison (k / 4) == 1#1 || sget s.memUpset (k / 4) == 2#2

/-! ## The interleave (R288, R290) -/

def Package.dieMap (x : Package) (d : Nat) : DieMap := (tget x.dies d).getD DieMap.reset

/-- The slices of the map in force of a die. -/
def DieMap.list (m : DieMap) : List Nat := if m.useB then m.mapB else m.mapA

/-- The state of a region of 512 MiB. -/
def DieMap.region (m : DieMap) (q : Nat) : RegionState :=
  (tget m.regions q).getD (if m.useB then .mapB else .mapA)

/-- The home slice of a line of HBM (R288); none for an unbacked region. -/
def DieMap.home (m : DieMap) (a : Nat) : Option Nat :=
  let l := a / 128
  let h := l ^^^ (l >>> 11) ^^^ (l >>> 22)
  match m.region (a / 2 ^ 29) with
  | .mapA => lget m.mapA (h % m.mapA.length)
  | .mapB => lget m.mapB (h % m.mapB.length)
  | .migrating => lget m.list (h % m.list.length)
  | .unbacked => none

/-- The window and port of a CXL address of a die, ports interleaved at 4 KiB (R290). -/
def Package.cxlPort (x : Package) (d a : Nat) : Option Nat :=
  match (List.range 16).find? (fun w => match tget x.cxlWindows (16 * d + w) with
      | some c => c.size != 0 && c.base ≤ a && a < c.base + c.size
      | none => false) with
  | some w =>
    match tget x.cxlWindows (16 * d + w) with
    | some c =>
      let ps := (List.range 4).filter (fun p => c.ports.getLsbD p)
      lget ps ((a - c.base) / 4096 % ps.length)
    | none => none
  | none => none

/-- The healthy slices of a CXL port, all eight unless withdrawn (R290). -/
def DieMap.cxlList (m : DieMap) (p : Nat) : List Nat := (tget m.cxlSlices p).getD (List.range 8)

/-- The die that a key's memory belongs to: the HBM of die KIND, or the die ADDR[55] of CXL (R282). -/
def keyDie (k : Nat) : Nat :=
  match keyKind k with
  | 0 => 0
  | 1 => 1
  | _ => keyAddr k / 2 ^ 55

/-- The home slice of the line of a key, keyed 288 * die + slice: of CXL, the L mod m-th of the m healthy slices of
the port, in ascending order (R288, R290). -/
def homeOf (s : State) (k : Nat) : Option Nat :=
  let x := s.pkg (keyPkg k)
  let d := keyDie k
  let m := x.dieMap d
  if keyKind k ≤ 1 then (m.home (keyAddr k)).map (288 * d + ·)
  else
    let a := keyAddr k % 2 ^ 55
    match x.cxlPort d a with
    | some p =>
      let l := keyAddr k / 128 % 2 ^ 31
      (lget (m.cxlList p) (l % (m.cxlList p).length)).map (fun i => 288 * d + 256 + 8 * p + i)
    | none => none

/-- Whether a key lies in an unbacked, or in a migrating, region (R289). -/
def regionIs (s : State) (k : Nat) (r : RegionState) : Bool :=
  keyKind k ≤ 1 && ((s.pkg (keyPkg k)).dieMap (keyDie k)).region (keyAddr k / 2 ^ 29) == r

/-! ## The BARs (R313, R314) -/

/-- The key of an offset of BAR2: its lower half opens die 0, its upper half die 1 (R314). -/
def bar2Key (x : Package) (p o : Nat) : Nat :=
  if o < x.bar2Size / 2 then gkey p 0 (x.wbase0 + o) else gkey p 1 (x.wbase1 + (o - x.bar2Size / 2))

/-- The offset of a bus address in a window of n bytes from a base. -/
def windowOffset (base : Option Nat) (n a : Nat) : Option Nat :=
  match base with
  | some b => if b ≤ a && a < b + n then some (a - b) else none
  | none => none

/-- The offset in a package's own BAR0, of 1 MiB, of a bus address (R313). -/
def bar0Offset (x : Package) (a : Nat) : Option Nat := windowOffset x.bar0 (2 ^ 20) a

/-- Where a bus address lies in the BARs of a package: the offset in BAR0 (false) or in BAR2 (true). -/
def barOf (x : Package) (a : Nat) : Option (Bool × Nat) :=
  match bar0Offset x a with
  | some o => some (false, o)
  | none => (windowOffset x.bar2 x.bar2Size a).map (true, ·)

/-- The package whose BAR a bus address of package p reaches, its own before the others: a peer's BAR is reached over
PCIe (R4, R318). The spec does not say which packages share a bus; here all of them do that have an address
(DESIGN CHOICE; log 11). -/
def busTarget (s : State) (p a : Nat) : Option (Nat × Bool × Nat) :=
  match barOf (s.pkg p) a with
  | some r => some (p, r)
  | none => (s.pkgs.map (·.1)).findSome? (fun q => (barOf (s.pkg q) a).map (q, ·))

/-- Whether an access of package p to a bus address has to wait: the BAR2 it reaches opens a MIGRATING region there
(R289), or requests that came before it wait (R490). -/
def busStalls (s : State) (p a : Nat) : Bool :=
  match busTarget s p a with
  | some (q, true, o) => regionIs s (bar2Key (s.pkg q) q o) .migrating || !(s.pkg q).inbound.isEmpty
  | _ => false

/-! ## Page tables (R281 to R284) -/

/-- What an access asks of a leaf (R284). -/
inductive Access where
  | read
  | write
  | atomic
  | fetch
  | prefetch
deriving DecidableEq, Repr

/-- The code of an access in a walk's list of waiters. -/
def Access.code : Access → Nat
  | .read => 0
  | .write => 1
  | .atomic => 2
  | .fetch => 3
  | .prefetch => 4

def Access.ofCode (n : Nat) : Access :=
  match n with
  | 0 => .read
  | 1 => .write
  | 2 => .atomic
  | 3 => .fetch
  | _ => .prefetch

/-- What a walk finds. -/
inductive WalkResult where
  | leaf (entry : BitVec 64) (big : Bool)
  | fault (cause : BitVec 8)
  | bad
  | stall
deriving DecidableEq, Repr

def causePageFault : BitVec 8 := 0x10#8
def causeProtection : BitVec 8 := 0x11#8

/-- The kind and address fields of an entry. -/
def pteKind (e : BitVec 64) : Nat := (fieldOf e 8 3).toNat
def pteAddr (e : BitVec 64) : Nat := 2 ^ 16 * (fieldOf e 16 40).toNat

/-- The reserved bits, PORT and KIND of a valid entry are legal (R283). -/
def pteLegal (e : BitVec 64) : Bool :=
  fieldOf e 12 4 == 0#4 && fieldOf e 6 2 == 0#2 && pteKind e ≤ 4 &&
  (!e.getLsbD 11 || (e.getLsbD 1 && pteKind e == 3))

/-- A pointer entry obeys R282. -/
def ptePointerOk (e : BitVec 64) : Bool :=
  pteKind e ≤ 1 && fieldOf e 2 4 == 0#4 && !e.getLsbD 11 && fieldOf e 56 8 == 0#8 &&
  pteAddr e < 2 ^ 38

/-- A leaf's address lies in the range of its KIND (R282, R283). -/
def pteRangeOk (e : BitVec 64) (big : Bool) : Bool :=
  (pteKind e ≥ 2 || pteAddr e < 2 ^ 38) && (!big || fieldOf e 16 13 == 0#13)

/-- The walk from a table's key down the levels left, each with the position and width of its index
bits (R281): an entry of a MIGRATING region stalls it (R289), one that cannot be read is bad (R218). -/
def walkGo (s : State) (p va : Nat) : List (Nat × Nat) → Nat → WalkResult
  | [], _ => .fault causeProtection
  | (lo, n) :: rest, table =>
    let k := table + 8 * (va / 2 ^ lo % 2 ^ n)
    let e := read64 s k
    if regionIs s k .migrating then .stall
    else if wordPoisoned s k || wordPoisoned s (k + 4) || regionIs s k .unbacked then .bad
    else if !e.getLsbD 0 then .fault causePageFault
    else if !pteLegal e then .fault causeProtection
    else if e.getLsbD 1 then
      if lo > 29 then .fault causeProtection
      else if !pteRangeOk e (lo == 29) then .fault causeProtection
      else .leaf e (lo == 29)
    else if rest.isEmpty || !ptePointerOk e then .fault causeProtection
    else walkGo s p va rest (gkey p (pteKind e) (pteAddr e))

/-- The index bits of the levels, L0 first (R281). -/
def levels : List (Nat × Nat) := [(68, 12), (55, 13), (42, 13), (29, 13), (16, 13)]

/-- The walk of an address from a root (R281, R283). -/
def walk (s : State) (p root va : Nat) : WalkResult :=
  walkGo s p va levels (gkey p (root / 2 ^ 38 % 2) (root % 2 ^ 38))

/-- The entries that a walk reads, first to last. -/
def walkKeys (s : State) (p va : Nat) : List (Nat × Nat) → Nat → List Nat
  | [], _ => []
  | (lo, n) :: rest, table =>
    let k := table + 8 * (va / 2 ^ lo % 2 ^ n)
    let e := read64 s k
    if e.getLsbD 0 && pteLegal e && !e.getLsbD 1 && ptePointerOk e && !regionIs s k .migrating then
      k :: walkKeys s p va rest (gkey p (pteKind e) (pteAddr e))
    else [k]

/-- Why a leaf refuses an access of a tenant (R283, R284). -/
def leafFault (e : BitVec 64) (tkey : BitVec 8) (a : Access) : Option (BitVec 8) :=
  if fieldOf e 56 8 != 0#8 && fieldOf e 56 8 != tkey then some causeProtection
  else
    let r := e.getLsbD 2
    let w := e.getLsbD 3
    let x := e.getLsbD 4
    let poa := e.getLsbD 5
    let ok := match a with
      | .read => r
      | .write => w && !poa
      | .atomic => r && w && !poa
      | .fetch => x && pteKind e ≤ 1
      | .prefetch => true
    if ok then none else some causeProtection

/-- A translated address: the key, the PCIe port of KIND 3, poison on access, and whether a KIND 4 leaf led to it, so
that it is reached through the gateway (R436). -/
structure Place where
  key : Nat
  port : Nat
  poa : Bool
  far : Bool
deriving DecidableEq, Repr

/-- What a translation answers. -/
inductive Trans where
  | ok (p : Place)
  | fault (cause : BitVec 8)
  | miss
  | stall
deriving DecidableEq, Repr

/-- The place a leaf gives an address; a CXL address outside every window, and an address of a
migrating region, reached directly or through a BAR2, have no place now (R282, R289, R290). -/
def leafPlace (s : State) (p : Nat) (e : BitVec 64) (big : Bool) (va : Nat) : Trans :=
  let a := pteAddr e + va % (if big then 2 ^ 29 else 2 ^ 16)
  let k := gkey (if pteKind e = 3 then 0 else p) (pteKind e) a
  if pteKind e = 2 && ((s.pkg p).cxlPort (a / 2 ^ 55) (a % 2 ^ 55)).isNone then .fault causeProtection
  else if regionIs s k .migrating || (pteKind e = 3 && busStalls s p a) then .stall
  else .ok { key := k, port := if e.getLsbD 11 then 1 else 0, poa := e.getLsbD 5, far := false }

/-- The TLB entry that holds an address. -/
def tlbHit (t : List TlbEntry) (asn va : Nat) : Option TlbEntry :=
  t.find? (fun e => e.asn == asn && e.page == (if e.big then va / 2 ^ 29 else va / 2 ^ 16))

/-- The entry of the core's TLB, or of its cluster's (R285). -/
def State.tlbFind (s : State) (g asn va : Nat) : Option TlbEntry :=
  match tlbHit (s.core g).tlb asn va with
  | some e => some e
  | none => tlbHit ((tget (s.pkg (pkgOf g)).clusterTlb (g % 320 / 4)).getD []) asn va

/-- A TLB with an entry added, the oldest of n dropped. -/
def tlbAdd (t : List TlbEntry) (e : TlbEntry) (n : Nat) : List TlbEntry :=
  (e :: t.filter (· != e)).take n

/-- A set of a cluster's TLB: 512 sets of 8 ways by the low bits of the page number (log 28). -/
def tlbSet (e : TlbEntry) : Nat := e.page % 512

/-- A cluster's TLB with an entry added, the oldest of a full set dropped (R285). -/
def tlbAddSet (t : List TlbEntry) (e : TlbEntry) : List TlbEntry :=
  let rest := t.filter (· != e)
  let mine := rest.filter (fun x => tlbSet x == tlbSet e)
  e :: (if mine.length < 8 then rest
    else match mine.getLast? with | some y => rest.filter (· != y) | none => rest)

/-- An entry added to the core's and the cluster's TLB (R285). -/
def State.tlbFill (s : State) (g : Nat) (e : TlbEntry) : State :=
  (s.modCore g (fun c => { c with tlb := tlbAdd c.tlb e 256 })).modPkg (pkgOf g) (fun x =>
    let t := tlbAddSet ((tget x.clusterTlb (g % 320 / 4)).getD []) e
    { x with clusterTlb := tput x.clusterTlb (g % 320 / 4) t })

/-- The TLB entry of a leaf found by a walk. -/
def tlbOf (asn va : Nat) (e : BitVec 64) (big : Bool) : TlbEntry :=
  { asn := asn, big := big, page := if big then va / 2 ^ 29 else va / 2 ^ 16, leaf := e }

/-- The translation of an access by a core through the TLBs: a miss when neither holds the page
(R285, R286). -/
def translate (s : State) (g : Nat) (l : Launch) (va : A80) (a : Access) : Trans :=
  match s.tlbFind g l.asn va.toNat with
  | none => .miss
  | some t =>
    match leafFault t.leaf l.tkey a with
    | some c => .fault c
    | none => leafPlace s (pkgOf g) t.leaf t.big va.toNat

/-! ## Segments and L2 slices (R291 to R293, R327) -/

/-- The fields of a residency entry (R291). -/
def resClass (e : BitVec 128) : Nat := (fieldOf e 19 2).toNat

/-- Whether a residency entry governs a line for a tenant in a phase (R292). -/
def resMatches (e : BitVec 128) (kind addr : Nat) (tkey : BitVec 8) (phase : Nat) : Bool :=
  let base := 2 ^ 16 * (fieldOf e 88 40).toNat
  e.getLsbD 0 && (fieldOf e 45 3).toNat == kind && base ≤ addr &&
  addr < base + 2 ^ 16 * (fieldOf e 48 40).toNat &&
  (fieldOf e 37 8 == 0#8 || fieldOf e 37 8 == tkey) && (fieldOf e 21 16).getLsbD phase

/-- The class of a line for an access of a tenant: 0 PIN, 1 KEEP, 2 STREAM, 3 EVICT-FIRST (R292). -/
def classOf (s : State) (k : Nat) (tkey : BitVec 8) : Nat :=
  let x := s.pkg (keyPkg k)
  let d := keyDie k
  let phase := ((tget x.phases (256 * d + tkey.toNat)).getD 0#4).toNat
  match (x.residency.filter (fun e => e.1 / 1024 == d &&
      resMatches e.2 (keyKind k) (keyAddr k) tkey phase)).head? with
  | some e => resClass e.2
  | none => 1

/-- The keys of the 16 ways of a set of a cache, sets numbered globally. -/
def waysOf (set : Nat) : List Nat := span (16 * set) 16

/-- The way of a set that holds a line. -/
def findWay (t : Tbl CacheLine) (set line : Nat) : Option Nat :=
  (waysOf set).find? (fun w => match tget t w with | some x => x.tag == line | none => false)

/-- The first way at or after a pointer, in circular order, that satisfies f. -/
def circular (set ptr : Nat) (f : Nat → Bool) : Option Nat :=
  ((List.range 16).map (fun i => 16 * set + (ptr + i) % 16)).find? f

/-- The way a segment gives a line: the lowest invalid one, else STREAM, EVICT-FIRST, KEEP (R293). -/
def segVictim (t : Tbl CacheLine) (set ptr : Nat) : Option Nat :=
  let isCls (c w : Nat) : Bool := match tget t w with | some x => x.cls == c | none => false
  match (waysOf set).find? (fun w => (tget t w).isNone) with
  | some w => some w
  | none =>
    match circular set ptr (isCls 2) with
    | some w => some w
    | none =>
      match circular set ptr (isCls 3) with
      | some w => some w
      | none => circular set ptr (isCls 1)

/-- The number of PIN lines of a set, but for a given way. -/
def pinCount (t : Tbl CacheLine) (set : Nat) (but : Nat) : Nat :=
  ((waysOf set).filter (fun w => w != but &&
    match tget t w with | some x => x.cls == 0 | none => false)).length

/-- A line of a key placed in the segment of its home slice with a class, or its class set there
(R293); a marked line keeps its class (R411). owner names the launch whose TPREF marks it, 0 for none. -/
def segPlace (k cls : Nat) (pin : Bool) (owner : Nat) (tkey : BitVec 8) (s : State) : State :=
  match homeOf s k with
  | none => s
  | some home =>
    let p := keyPkg k
    let x := s.pkg p
    let line := k / 128
    let set := 16384 * home + line % 16384
    match findWay x.segLines set line with
    | some w =>
      let marked := match tget x.segLines w with | some y => y.pin | none => false
      let old := (tget x.segLines w).bind (·.behind)
      if marked && !pin then s
      else
        let full := cls == 0 && pinCount x.segLines set w ≥ 12
        let c := if full then 1 else cls
        let s1 := s.setPkg p { x with
          segLines := tput x.segLines w { tag := line, cls := c, tkey := tkey, pin := pin && !full, owner := owner, behind := old } }
        if full then countDie 0x44 1 p (home / 288) s1 else s1
    | none =>
      if cls = 2 then s
      else
        let ptr := (tget x.segWays set).getD 0
        match segVictim x.segLines set ptr with
        | none => s
        | some w =>
          let full := cls == 0 && pinCount x.segLines set w ≥ 12
          let c := if full then 1 else cls
          let evicts := (tget x.segLines w).isSome
          let s1 := s.setPkg p { x with
            segLines := tput x.segLines w { tag := line, cls := c, tkey := tkey, pin := pin && !full, owner := owner, behind := none }
            segWays := if evicts then tput x.segWays set ((w % 16 + 1) % 16) else x.segWays }
          if full then countDie 0x44 1 p (home / 288) s1 else s1

/-- What a line of global memory holds: its bytes, and the poison of its words. -/
def lineImage (s : State) (k : Nat) : BitVec 1024 × BitVec 32 :=
  let b := k / 128 * 128
  (BitVec.ofNat 1024 (leValue (mgets s.mem b 128)), BitVec.ofNat 32 (bitsNat (fun j => wordPoisoned s (b + 4 * j)) 32))

/-- A dirty L2 victim: it goes to its segment where that holds or allocates the line, else to memory (R327). What
memory held stays behind the segment's line, unless that line was newer than memory already. -/
def spillL2 (v : CacheLine) (s : State) : State :=
  match v.behind with
  | none => s
  | some b =>
    let k := 128 * v.tag
    let s1 := segPlace k (classOf s k v.tkey) false 0 v.tkey s
    match homeOf s1 k with
    | none => s1
    | some home =>
      s1.modPkg (keyPkg k) (fun x => match findWay x.segLines (16384 * home + v.tag % 16384) v.tag with
        | some w => { x with segLines := tput x.segLines w (match tget x.segLines w with
            | some y => if y.behind.isSome then y else { y with behind := some b }
            | none => { v with cls := 1 }) }
        | none => x)

/-- A line placed in its home L2 slice, round-robin in its set (R327). -/
def l2Place (k : Nat) (tkey : BitVec 8) (s : State) : State :=
  match homeOf s k with
  | none => s
  | some home =>
    let p := keyPkg k
    let x := s.pkg p
    let line := k / 128
    let set := 512 * home + line % 512
    match findWay x.l2Lines set line with
    | some w => s.setPkg p { x with l2Lines := tput x.l2Lines w (match tget x.l2Lines w with
        | some y => { y with tkey := tkey }
        | none => { tag := line, cls := 1, tkey := tkey, pin := false, owner := 0, behind := none }) }
    | none =>
      let ptr := (tget x.l2Ways set).getD 0
      let w := match (waysOf set).find? (fun w => (tget x.l2Lines w).isNone) with
        | some w => w
        | none => 16 * set + ptr
      let s1 := match tget x.l2Lines w with
        | some v => spillL2 v s
        | none => s
      s1.modPkg p (fun x => { x with
        l2Lines := tput x.l2Lines w { tag := line, cls := 1, tkey := tkey, pin := false, owner := 0, behind := none }
        l2Ways := tput x.l2Ways set ((w % 16 + 1) % 16) })

/-- Lines of a cache marked newer than the level behind. -/
def dirtyWay (t : Tbl CacheLine) (w : Option Nat) (b : BitVec 1024 × BitVec 32) : Tbl CacheLine :=
  match w with
  | none => t
  | some w => match tget t w with
    | some y => if y.behind.isSome then t else tput t w { y with behind := some b }
    | none => t

/-- A line about to be written at its home slice is newer from now on than the level behind the one that takes the
write: its L2 slice, else its segment, else memory itself (R293, R327). -/
def dirtyHome (k : Nat) (s : State) : State :=
  match homeOf s k with
  | none => s
  | some home =>
    let p := keyPkg k
    let x := s.pkg p
    let line := k / 128
    let l2 := findWay x.l2Lines (512 * home + line % 512) line
    if l2.isSome then s.setPkg p { x with l2Lines := dirtyWay x.l2Lines l2 (lineImage s k) }
    else s.setPkg p { x with segLines := dirtyWay x.segLines (findWay x.segLines (16384 * home + line % 16384) line) (lineImage s k) }

/-! ## Bytes at the home slice -/

/-- Whether a line stands in its L2 slice or in its memory-side segment. -/
def cachedHome (s : State) (k : Nat) : Bool :=
  match homeOf s k with
  | none => false
  | some home =>
    let x := s.pkg (keyPkg k)
    (findWay x.l2Lines (512 * home + k / 128 % 512) (k / 128)).isSome ||
      (findWay x.segLines (16384 * home + k / 128 % 16384) (k / 128)).isSome

/-- An error of a word counted where the word stands: in an L2 slice or a segment, or in HBM; the spec names no counter
for CXL memory (R486). -/
def countMem (two : Nat) (k : Nat) (s : State) : State :=
  if cachedHome s k then countError (8 + two) 1 (keyPkg k) (keyDie k) s
  else if keyKind k ≤ 1 then countError (10 + two) 1 (keyPkg k) (keyDie k) s
  else s

/-- Reading resolves an upset of a word: one flipped bit is corrected and counted, two poison it
(R88, R486). -/
def resolveMem (k : Nat) (s : State) : State :=
  let u := sget s.memUpset (k / 4)
  if u = 0#2 then s
  else
    let s1 := { s with memUpset := sput s.memUpset (k / 4) 0#2 }
    if u = 2#2 then
      if sget s.memPoison (k / 4) = 1#1 then s1
      else countMem 1 k { s1 with memPoison := sput s1.memPoison (k / 4) 1#1 }
    else countMem 0 k s1

/-- Every upset of a line resolved, as a read of the whole line does. -/
def resolveLine (k : Nat) (s : State) : State :=
  (s.memUpset.filter (fun e => e.1 / 32 == k / 128)).foldl (fun t e => resolveMem (4 * e.1) t) s

/-- An access of a tenant reaches the home slice of a line: the slice and the segment hold it as R293
and R327 say. A line that neither holds is read from memory first, which resolves its upsets (R88, R486). Placement
changes timing only. A pinned line keeps its class. -/
def touchHome (k : Nat) (tkey : BitVec 8) (s : State) : State :=
  if keyKind k ≤ 2 then
    let s1 := if cachedHome s k then s else resolveLine k s
    segPlace k (classOf s1 k tkey) false 0 tkey (l2Place k tkey s1)
  else s

/-- n bytes at the home slice, each with the poison of its word; an unbacked region delivers poison
(R289). -/
def homeRead (k n : Nat) (s : State) : List (Byte × Bool) :=
  (List.range n).map (fun i => (mget s.mem (k + i), wordPoisoned s (k + i) || regionIs s k .unbacked))

/-- Bytes written at the home slice with the poison their words are to have: none leaves a word's
poison, some sets it. A write to an unbacked region is dropped and counted (R289). -/
def homeWrite (k : Nat) (bs : List Byte) (s : State) : State :=
  if regionIs s k .unbacked then countError 14 1 (keyPkg k) (keyDie k) s
  else
    let s1 := dirtyHome k s
    let s2 := if (k + bs.length - 1) / 128 = k / 128 then s1 else dirtyHome (k + bs.length - 1) s1
    { s2 with mem := mputs s2.mem k bs }

/-- The poison of the word at a key set or cleared, its upset gone. -/
def setWordPoison (k : Nat) (b : Bool) (s : State) : State :=
  { s with
    memPoison := sput s.memPoison (k / 4) (if b then 1#1 else 0#1)
    memUpset := sput s.memUpset (k / 4) 0#2 }

/-- The entries of a walk read through their home slices: each is placed there, and its upsets are resolved (R285). -/
def walkReads (s : State) (p root va : Nat) (tkey : BitVec 8) : State :=
  (walkKeys s p va levels (gkey p (root / 2 ^ 38 % 2) (root % 2 ^ 38))).foldl
    (fun t k => resolveMem (k + 4) (resolveMem k (touchHome k tkey t))) s

/-- The translation of an engine's access, its walk made at once: the answer, whether an entry could
not be read (R218), and the state with the TLBs filled. -/
def translateNow (s : State) (g root asn : Nat) (tkey : BitVec 8) (va : A80) (a : Access) :
    Trans × Bool × State :=
  match s.tlbFind g asn va.toNat with
  | some t =>
    match leafFault t.leaf tkey a with
    | some c => (.fault c, false, s)
    | none => (leafPlace s (pkgOf g) t.leaf t.big va.toNat, false, s)
  | none =>
    let s := walkReads s (pkgOf g) root va.toNat tkey
    match walk s (pkgOf g) root va.toNat with
    | .leaf e big =>
      match leafFault e tkey a with
      | some c => (.fault c, false, s)
      | none =>
        (leafPlace s (pkgOf g) e big va.toNat, false, s.tlbFill g (tlbOf asn va.toNat e big))
    | .fault c => (.fault c, false, s)
    | .bad => (.fault causePageFault, true, s)
    | .stall => (.stall, false, s)

/-- The words that n bytes from a key cover whole. -/
def wholeWords (k n : Nat) : List Nat :=
  ((List.range (n / 4 + 1)).map (fun i => (k + 3) / 4 * 4 + 4 * i)).filter (fun a => a + 4 ≤ k + n)

/-- A store's bytes at the home slice: words covered whole lose their poison (R340). -/
def homeStore (k : Nat) (bs : List Byte) (s : State) : State :=
  if regionIs s k .unbacked then homeWrite k bs s
  else (wholeWords k bs.length).foldl (fun t a => setWordPoison a false t) (homeWrite k bs s)

/-- Bytes moved by an engine with their poison: words covered whole take the poison moved, a word
covered in part becomes poisoned when a poisoned byte is moved into it (R218). -/
def homeMove (k : Nat) (bs : List (Byte × Bool)) (s : State) : State :=
  if regionIs s k .unbacked then homeWrite k (bs.map (·.1)) s
  else
    let s1 := homeStore k (bs.map (·.1)) s
    ((List.range bs.length).filter (fun i => match lget bs i with | some b => b.2 | none => false)).foldl
      (fun t i => setWordPoison (k + i) true t) s1

/-! ## The bus (KIND 3) -/

/-- The port that carries an access of a port: the other one while its link is down (R4). While both are down the spec
names no port, and the access stays with its own (DESIGN CHOICE; log 11). -/
def carriedBy (x : Package) (port : Nat) : Nat :=
  let down (d : Nat) : Bool := (tget x.linksDown d).getD false
  if down port && !down (1 - port) then 1 - port else port

/-- A capacity record: healthy cores, HBM-side slices, CXL-side slices and stations, 16 bits each, and the
bytes of HBM (R487). -/
def capacityRecord (cores slices cxl stations : Nat) : BitVec 512 :=
  BitVec.ofNat 512 (cores + 2 ^ 16 * slices + 2 ^ 32 * cxl + 2 ^ 48 * stations + 2 ^ 64 * (2 ^ 30 * slices))

/-- The counter region of R485: byte o of it, from its start. -/
def counterByte (s : State) (p o : Nat) : Option Byte :=
  let x := s.pkg p
  let part (v : Option (BitVec 64)) : Option Byte := some (fieldOf (v.getD 0#64) (8 * (o % 8)) 8)
  if o < 0x400 then part (tget x.dieEvents (64 * (o / 0x200) + o % 0x200 / 8))
  else if o < 0x500 then part (tget x.errors (16 * ((o - 0x400) / 0x80) + o % 0x80 / 8))
  else if o < 0x580 then
    some (fieldOf ((tget x.capacity ((o - 0x500) / 0x40)).getD (capacityRecord 160 256 32 9)) (8 * (o % 0x40)) 8)
  else if o < 0x5A0 then
    part (tget (if o % 0x10 < 8 then x.meshCycles else x.linkCycles) ((o - 0x580) / 0x10))
  else if 0x1000 ≤ o && o < 0x29000 then
    part (tget (s.core (320 * p + 160 * ((o - 0x1000) / 0x14000) + (o - 0x1000) % 0x14000 / 0x200)).events
      (o % 0x200 / 8))
  else none

/-- The bytes of a write to BAR0 outside the doorbell pages: the capability list and the counter region ignore it, the
command queue registers take it (R313, R315, R485; log 40). -/
def bar0Write (q o : Nat) (bs : List Byte) (s : State) : State :=
  if (0x40 ≤ o && o < 0x100) || (0x10000 ≤ o && o < 0x39000) then s
  else s.modPkg q (fun x => { x with
    queueRegs := (List.range bs.length).foldl (fun t i => tput t (o + i) ((lget bs i).getD 0#8)) x.queueRegs })

/-- A posted write through BAR2, performed at the home slice of the line it reaches (R314, R490). -/
def bar2Write (q o : Nat) (bs : List Byte) (s : State) : State :=
  let k := bar2Key (s.pkg q) q o
  homeStore k bs (touchHome k 0#8 s)

/-- n bytes at a key read through BAR2 at their home slice, under tenant key 0 (R88, R314). -/
def keyRead (k n : Nat) (s : State) : List (Byte × Bool) × State :=
  let s1 := (List.range ((k % 4 + n + 3) / 4)).foldl (fun t i => resolveMem (k / 4 * 4 + 4 * i) t) (touchHome k 0#8 s)
  (homeRead k n s1, s1)

/-- A read through BAR2, performed at the home slice of the line it reaches: the bytes with their poison (R314, R490). -/
def bar2Read (q o n : Nat) (s : State) : List (Byte × Bool) × State :=
  keyRead (bar2Key (s.pkg q) q o) n s

/-- A write of a package that leaves through a PCIe port (R282). One to a BAR0 is a doorbell, when it is
8 bytes to offset 0 of a doorbell page; another write to those pages is dropped and counted (R296, R313). One to a BAR2
is performed at the home slice it reaches (R490). -/
def busPost (p : Nat) (pl : Place) (bs : List Byte) (s : State) : State :=
  match busTarget s p (keyAddr pl.key) with
  | none => { s with posted := s.posted ++ [{ pkg := p, port := carriedBy (s.pkg p) pl.port, addr := keyAddr pl.key, bytes := bs, atomic := none }] }
  | some (q, true, o) => bar2Write q o bs s
  | some (q, false, o) =>
    if 0x80000 ≤ o && o < 0xC0000 then
      if o % 4096 == 0 && bs.length == 8 then
        s.modPkg q (fun x => { x with bells := x.bells ++ [((o - 0x80000) / 4096, BitVec.ofNat 64 (leValue bs))] })
      else countDie 0x43 1 q 0 s
    else bar0Write q o bs s

/-- The capability records of BAR0 (R315): TYPE, the place from 0x40 on in steps of 32, and the 32-bit words of the
body: the part number and the dies; the rings and the offset of their doorbell pages; the offset of the command queue
registers; the firmware's version and the active complex; the offset of the counters (R485); the cores of each die in the
collective partition. What the spec does not state is a constant of Config (log 40). -/
def capBody (x : Package) (type : Nat) : List Nat :=
  match type with
  | 1 => [Config.partCode "GL-S84-A1", 2]
  | 2 => [64, 0x80000]
  | 3 => [Config.queueOffset]
  | 4 => [Config.firmwareVersion (((tget x.firmware x.activeFw).map (·.image)).getD 0), x.activeFw]
  | 5 => [0x10000]
  | _ => [x.collSize]

/-- Byte o of BAR0 in the capability list: TYPE, VERSION, a zero byte, NEXT, the body (R315; log 40). -/
def capByte (x : Package) (o : Nat) : Byte :=
  let i := (o - 0x40) / 32
  let b := o % 32
  let byteOf (v n : Nat) : Byte := BitVec.ofNat 8 (v / 2 ^ (8 * n))
  if b < 2 then byteOf (i + 1) b
  else if b = 2 then byteOf (Config.capVersion (i + 1)) 0
  else if b = 3 then byteOf 0 0
  else if b < 8 then byteOf (if i = 5 then 0 else 0x40 + 32 * (i + 1)) (b - 4)
  else byteOf ((lget (capBody x (i + 1)) ((b - 8) / 4)).getD 0) (b % 4)

/-- Byte o of a package's BAR0: the capability list, the counter region, and elsewhere the command queue registers as they
were last written (R313, R315, R485; log 40). -/
def bar0Byte (s : State) (p o : Nat) : Byte :=
  let held := (tget (s.pkg p).queueRegs o).getD (Config.queueReg o)
  if 0x40 ≤ o && o < 0x100 then capByte (s.pkg p) o
  else if 0x10000 ≤ o && o < 0x39000 then (counterByte s p (o - 0x10000)).getD held
  else held

/-- n bytes that a bus read of a package answers: those of a BAR0 (R313, R315, R485), those that a BAR2 opens (R490), else
free values (log 11). -/
def busTake (p : Nat) (pl : Place) (n : Nat) (s : State) : List (Byte × Bool) × State :=
  let a := keyAddr pl.key
  let s1 := { s with fresh := s.fresh + 1 }
  match busTarget s p a with
  | some (q, true, o) => bar2Read q o n s1
  | some (q, false, o) => ((span o n).map (fun i => (bar0Byte s q i, false)), s1)
  | none => ((span a n).map (fun i => (Config.busByte s.fresh i, false)), s1)

/-! ## L1 (R323 to R326) -/

/-- The core whose L1 holds a line for a core: with fused L1s, the core of the cluster that PA[8:7]
selects (R326). -/
def l1Core (g : Nat) (fuse : Bool) (k : Nat) : Nat := if fuse then g / 4 * 4 + k / 128 % 4 else g

/-- The set of an L1 that a line goes to: of a fused L1, whose core PA[8:7] selects, by the bits above (R323, R326;
log 26). -/
def l1Set (fuse : Bool) (k : Nat) : Nat := if fuse then k / 512 % 128 else k / 128 % 128

/-- The way of a core's L1 that holds the line of a key. -/
def l1Find (c : Core) (k : Nat) : Option Nat :=
  (waysOf (l1Set false k) ++ waysOf (l1Set true k)).find?
    (fun w => match tget c.l1 w with | some x => x.tag == k / 128 | none => false)

/-- Byte b of a line. -/
def L1Line.byte (x : L1Line) (b : Nat) : Byte := fieldOf x.data (8 * b) 8

/-- A line with byte b replaced. -/
def L1Line.setByte (x : L1Line) (b : Nat) (v : Byte) : L1Line :=
  { x with data := (x.data &&& ~~~((0xFF#1024) <<< (8 * b))) ||| ((v.setWidth 1024) <<< (8 * b)) }

/-- Bit b of a mask set to a value. -/
def setBit {w : Nat} (m : BitVec w) (b : Nat) (v : Bool) : BitVec w :=
  if v then m ||| ((1 : BitVec w) <<< b) else m &&& ~~~((1 : BitVec w) <<< b)

/-- The tenant key under which a core's L1 writes lines back: that of the launch of its lowest team (log 26). -/
def coreTkey (s : State) (g : Nat) : BitVec 8 :=
  match s.teams.find? (fun t => t.2.core == g && t.2.run == .running) with
  | some t => (s.launch t.2.launch).tkey
  | none => 0#8

/-- The write-back of a line: its dirty bytes go to the home slice; a word dirty as a whole carries its
poison there, a word dirty in part leaves the poison it finds (R324, R340). To an UNBACKED region it is one dropped
write (R289). -/
def writeBack (g : Nat) (x : L1Line) (s : State) : State :=
  let base := 128 * x.tag
  if x.dirty = 0#128 then s
  else if regionIs s base .unbacked then countError 14 1 (keyPkg base) (keyDie base) s
  else
    let s1 := touchHome base (coreTkey s g) s
    (List.range 32).foldl (fun t j =>
      let bs := (span (4 * j) 4).filter (fun b => x.dirty.getLsbD b)
      if bs.isEmpty then t
      else
        let t1 := bs.foldl (fun u b => homeWrite (base + b) [x.byte b] u) t
        if bs.length = 4 then setWordPoison (base + 4 * j) (x.poison.getLsbD j) t1
        else t1) s1

/-- The line of a key in a core's L1 written back, and kept clean. -/
def cleanLine (g k : Nat) (s : State) : State :=
  match l1Find (s.core g) k with
  | none => s
  | some w =>
    match tget (s.core g).l1 w with
    | none => s
    | some x =>
      if x.dirty = 0#128 then s
      else (writeBack g x s).modCore g (fun c => { c with l1 := tput c.l1 w { x with dirty := 0#128 } })

/-- Whether a core's L1, or its fused L1, holds dirty bytes of a MIGRATING region, whose write-back stalls at its slice
(R289). -/
def l1Stalled (s : State) (g : Nat) (fuse : Bool) : Bool :=
  (if fuse then span (g / 4 * 4) 4 else [g]).any (fun h => (s.core h).l1.any (fun e =>
    e.2.dirty != 0#128 && regionIs s (128 * e.2.tag) .migrating))

/-- The line of a key written back and made invalid (R325). -/
def dropLine (g k : Nat) (s : State) : State :=
  let s1 := cleanLine g k s
  match l1Find (s1.core g) k with
  | none => s1
  | some w => s1.modCore g (fun c => { c with l1 := tdel c.l1 w })

/-- The way a set gives a new line: the lowest invalid one, else stream, normal or bypass, keep
(R325). -/
def l1Victim (c : Core) (set : Nat) : Option Nat :=
  let ptr := (tget c.l1Ways set).getD 0
  let isHint (h : Nat → Bool) (w : Nat) : Bool := match tget c.l1 w with | some x => h x.hint.toNat | none => false
  match (waysOf set).find? (fun w => (tget c.l1 w).isNone) with
  | some w => some w
  | none =>
    match circular set ptr (isHint (· == 1)) with
    | some w => some w
    | none =>
      match circular set ptr (isHint (· != 2)) with
      | some w => some w
      | none => circular set ptr (fun _ => true)

/-- A line placed in a core's L1 with its victim written back; answers the way. -/
def l1Alloc (g : Nat) (fuse : Bool) (k : Nat) (hint : BitVec 2) (s : State) : Nat × State :=
  let set := l1Set fuse k
  let w := (l1Victim (s.core g) set).getD (16 * set)
  let s1 := match tget (s.core g).l1 w with
    | some x => writeBack g x s
    | none => s
  let evicts := (tget (s.core g).l1 w).isSome
  (w, s1.modCore g (fun c => { c with
    l1 := tput c.l1 w { full := false, tag := k / 128, epoch := 0#32, dirty := 0#128, hint := hint,
                        data := 0#1024, poison := 0#32 }
    l1Ways := if evicts then tput c.l1Ways set ((w % 16 + 1) % 16) else c.l1Ways }))

/-- A line filled from its home slice, keeping its dirty bytes (R324). -/
def fillLine (x : L1Line) (s : State) : L1Line :=
  let base := 128 * x.tag
  let y := (List.range 128).foldl (fun y b =>
    if x.dirty.getLsbD b then y else y.setByte b (mget s.mem (base + b))) x
  let z := (List.range 32).foldl (fun y j =>
    if (span (4 * j) 4).any (fun b => x.dirty.getLsbD b) then y
    else { y with poison := setBit y.poison j (wordPoisoned s (base + 4 * j) || regionIs s base .unbacked) }) y
  { z with full := true }

/-- n bytes of a line with their poison. -/
def L1Line.bytes (x : L1Line) (b n : Nat) : List (Byte × Bool) :=
  (span b n).map (fun i => (x.byte i, x.poison.getLsbD (i / 4)))

/-- A load through L1: a hit returns its bytes, a miss fills the line first (R324). -/
def l1Load (g : Nat) (fuse : Bool) (k n : Nat) (hint : BitVec 2) (tkey : BitVec 8) (s : State) :
    List (Byte × Bool) × State :=
  let b := k % 128
  let (w, s1) := match l1Find (s.core g) k with
    | some w => (w, s)
    | none => l1Alloc g fuse k hint s
  match tget (s1.core g).l1 w with
  | none => ([], s1)
  | some x =>
    if x.full || (span b n).all (fun i => x.dirty.getLsbD i) then (x.bytes b n, s1)
    else
      let s2 := resolveLine k (touchHome k tkey s1)
      let y := fillLine x s2
      (y.bytes b n, s2.modCore g (fun c => { c with l1 := tput c.l1 w y }))

/-- A store into L1: the bytes are marked dirty, and EPOCH is the core's when the line first becomes
dirty (R323, R325). -/
def l1Store (g : Nat) (fuse : Bool) (k : Nat) (bs : List Byte) (hint : BitVec 2) (s : State) : State :=
  let b0 := k % 128
  let (w, s1) := match l1Find (s.core g) k with
    | some w => (w, s)
    | none => l1Alloc g fuse k hint s
  match tget (s1.core g).l1 w with
  | none => s1
  | some x =>
    let x1 := if x.dirty = 0#128 then { x with epoch := (s1.core g).epoch } else x
    let whole := wholeWords k bs.length
    let x2 := (List.range bs.length).foldl (fun y i =>
      let b := b0 + i
      let fresh := !y.full && !(span (b / 4 * 4) 4).any (fun c => y.dirty.getLsbD c)
      let y1 := if fresh then { y with poison := setBit y.poison (b / 4) (wordPoisoned s1 (k + i)) } else y
      { (y1.setByte b ((lget bs i).getD 0#8)) with dirty := setBit y1.dirty b true }) x1
    let x3 := whole.foldl (fun y a => { y with poison := setBit y.poison (a % 128 / 4) false }) x2
    s1.modCore g (fun c => { c with l1 := tput c.l1 w x3 })

/-- A present L1 copy takes bytes that go to the home slice, clean, with the poison that they give their words there
(R218, R325, R367, R410). -/
def l1TakeClean (g k : Nat) (bs : List (Byte × Bool)) (s : State) : State :=
  match l1Find (s.core g) k with
  | none => s
  | some w =>
    match tget (s.core g).l1 w with
    | none => s
    | some x =>
      let b0 := k % 128
      let y := (List.range bs.length).foldl (fun y i =>
        { (y.setByte (b0 + i) ((lget bs i).getD (0#8, false)).1) with
            dirty := setBit y.dirty (b0 + i) false }) x
      let z := (wholeWords k bs.length).foldl (fun y a =>
        { y with poison := setBit y.poison (a % 128 / 4) false }) y
      let v := (List.range bs.length).foldl (fun y i =>
        if ((lget bs i).getD (0#8, false)).2 then { y with poison := setBit y.poison ((b0 + i) / 4) true } else y) z
      s.modCore g (fun c => { c with l1 := tput c.l1 w v })

/-- Every dirty byte of a core's L1, or of its fused L1, written back (R365). -/
def l1CleanAll (g : Nat) (fuse : Bool) (s : State) : State :=
  let one (g : Nat) (s : State) : State :=
    (s.core g).l1.foldl (fun t e =>
      if e.2.dirty = 0#128 then t
      else (writeBack g e.2 t).modCore g (fun c => { c with l1 := tput c.l1 e.1 { e.2 with dirty := 0#128 } })) s
  if fuse then (span (g / 4 * 4) 4).foldl (fun t h => one h t) s else one g s

/-- The L1 action of an acquire of die scope or wider: clean bytes become invalid, dirty ones stay
(R365). -/
def l1Invalidate (g : Nat) (fuse : Bool) (s : State) : State :=
  let one (g : Nat) (s : State) : State :=
    s.modCore g (fun c => { c with
      l1 := (c.l1.filter (fun e => e.2.dirty != 0#128)).map (fun e => (e.1, { e.2 with full := false })) })
  if fuse then (span (g / 4 * 4) 4).foldl (fun t h => one h t) s else one g s

/-- The lines of a core whose EPOCH is at or below e, written back (R366 step 4). -/
def l1CleanEpoch (g : Nat) (e : Word) (s : State) : State :=
  (s.core g).l1.foldl (fun t x =>
    if x.2.dirty = 0#128 || x.2.epoch.toNat > e.toNat then t
    else (writeBack g x.2 t).modCore g (fun c => { c with l1 := tput c.l1 x.1 { x.2 with dirty := 0#128 } })) s

/-! ## Promotion (R366) -/

/-- The promotion table of a slice, oldest entry first. -/
def Package.promoOf (x : Package) (slice : Nat) : List Promo := (tget x.promos slice).getD []

/-- The cores whose L1s a core uses: its own, or the four of its cluster when they are fused (R326). -/
def l1Cores (g : Nat) (fuse : Bool) : List Nat := if fuse then span (g / 4 * 4) 4 else [g]

/-- Steps 3 and 4 of R366 for an entry: the releasing core writes back, the entry goes, and the
promotion is counted. -/
def promote (p slice : Nat) (e : Promo) (s : State) : State :=
  let s1 := (l1Cores e.core e.fuse).foldl (fun t g => l1CleanEpoch g e.epoch t) s
  countCore 0x24 1 e.core (s1.modPkg p (fun x =>
    let rest := (x.promoOf slice).filter (fun y => !(y.line == e.line && y.core == e.core))
    { x with promos := tput x.promos slice rest }))

/-- Whether the write-back that an entry's promotion makes meets a MIGRATING region (R289, R366). -/
def promoStalled (s : State) (e : Promo) : Bool :=
  (l1Cores e.core e.fuse).any (fun g => (s.core g).l1.any (fun x =>
    x.2.dirty != 0#128 && x.2.epoch.toNat ≤ e.epoch.toNat && regionIs s (128 * x.2.tag) .migrating))

/-- A team-scope release raises the core's release epoch, or the cluster's (R366 step 1). -/
def bumpEpoch (g : Nat) (fuse : Bool) (s : State) : State :=
  let e := (l1Cores g fuse).foldl (fun m h => max m (s.core h).epoch.toNat) 0 + 1
  (l1Cores g fuse).foldl (fun t h => t.modCore h (fun c => { c with epoch := BitVec.ofNat 32 e })) s

/-- Whether an entry that a team-scope release write by core g would have promoted must wait for a MIGRATING region
(R289, R366). -/
def recordStalled (s : State) (k g : Nat) : Bool :=
  match if keyKind k ≤ 2 then homeOf s k else none with
  | none => false
  | some home =>
    let t := (s.pkg (keyPkg k)).promoOf home
    (t.filter (fun e => e.line == k / 128 && e.core != g)).any (promoStalled s) ||
    (256 ≤ t.length && (t.head?).any (promoStalled s))

/-- A team-scope release write by a core recorded in the home slice of its line: an entry of another
core for the line, or the oldest entry of a full table, is promoted first (R366). -/
def promoRecord (k g : Nat) (fuse : Bool) (epoch : Word) (s0 : State) : State :=
  match homeOf s0 k with
  | none => s0
  | some home =>
    let p := keyPkg k
    let line := k / 128
    let old := ((s0.pkg p).promoOf home).find? (fun e => e.line == line && e.core != g)
    let s1 := match old with
      | some e => promote p home e s0
      | none => s0
    let t := ((s1.pkg p).promoOf home).filter (fun e => !(e.line == line && e.core == g))
    let s2 := match t with
      | e :: _ => if t.length ≥ 256 then promote p home e s1 else s1
      | [] => s1
    s2.modPkg p (fun x =>
      let keep := (x.promoOf home).filter (fun e => !(e.line == line && e.core == g))
      let new : Promo := { line := line, core := g, epoch := epoch, fuse := fuse, asked := false }
      { x with promos := tput x.promos home (keep ++ [new]) })

/-- The entry of another core that an acquire of a line must wait for (R366 step 3). -/
def promoPending (s : State) (k g : Nat) : Option Promo :=
  if keyKind k > 2 then none
  else
    match homeOf s k with
    | none => none
    | some home => ((s.pkg (keyPkg k)).promoOf home).find? (fun e => e.line == k / 128 && e.core != g)

/-- An acquire asks for the promotion of a line (R366 step 3). -/
def askPromotion (k g : Nat) (s : State) : State :=
  match homeOf s k with
  | none => s
  | some home => s.modPkg (keyPkg k) (fun x =>
      let es := (x.promoOf home).map (fun e =>
        if e.line == k / 128 && e.core != g then { e with asked := true } else e)
      { x with promos := tput x.promos home es })

/-! ## Reads and writes of global memory -/

/-- How an access is served: through L1 with a hint, or at the home slice (R325, R350, R365). -/
inductive Serve where
  | cached (hint : BitVec 2)
  | atSlice
deriving DecidableEq, Repr

/-- n bytes of one line read by a core, with poison; POA delivers every word poisoned (R284). -/
def globalRead (g : Nat) (fuse : Bool) (pl : Place) (n : Nat) (v : Serve) (tkey : BitVec 8)
    (s : State) : List (Byte × Bool) × State :=
  let h := l1Core g fuse pl.key
  let (bs, s1) :=
    if keyKind pl.key ≥ 3 then busTake (pkgOf g) pl n s
    else match v with
      | .cached hint => l1Load h fuse pl.key n hint tkey s
      | .atSlice =>
        let s1 := (List.range ((n + 3) / 4)).foldl (fun t i => resolveMem (pl.key + 4 * i) t)
          (touchHome pl.key tkey (cleanLine h pl.key s))
        (homeRead pl.key n s1, s1)
  (if pl.poa then bs.map (fun b => (b.1, true)) else bs, s1)

/-- Bytes of one line written by a core (R325, R340). -/
def globalWrite (g : Nat) (fuse : Bool) (pl : Place) (bs : List Byte) (v : Serve) (tkey : BitVec 8)
    (s : State) : State :=
  let h := l1Core g fuse pl.key
  if keyKind pl.key ≥ 3 then busPost (pkgOf g) pl bs s
  else match v with
    | .cached hint => l1Store h fuse pl.key bs hint s
    | .atSlice =>
      l1TakeClean h pl.key (bs.map (fun b => (b, false))) (homeStore pl.key bs (touchHome pl.key tkey s))

/-! ## Shared and accumulator memory (R319, R322) -/

/-- The physical byte of a core's shared memory that a team's offset names, through the block map
(R22). -/
def sharedPhys (t : Team) (o : Nat) : Nat := (lget t.sharedBlocks (o / 8192)).getD 0 * 8192 + o % 8192

/-- The physical word of a core's accumulator memory that a team's offset names (R322). -/
def accPhys (t : Team) (o : Nat) : Nat := (lget t.accumBlocks (o / 2048)).getD 0 * 2048 + o % 2048

/-- Reading resolves an upset of a shared word (R88). -/
def resolveShared (g a : Nat) (s : State) : State :=
  let c := s.core g
  let u := sget c.sharedUpset (a / 4)
  if u = 0#2 then s
  else
    let c1 := { c with sharedUpset := sput c.sharedUpset (a / 4) 0#2 }
    if u = 2#2 then
      if sget c.sharedPoison (a / 4) = 1#1 then s.setCore g c1
      else countErrorAt 5 1 g (s.setCore g { c1 with sharedPoison := sput c1.sharedPoison (a / 4) 1#1 })
    else countErrorAt 4 1 g (s.setCore g c1)

/-- A team's shared bytes with the poison of their words. A pre-empted team's lie in its image
(R280). -/
def sharedRead (t : Team) (o n : Nat) (s : State) : List (Byte × Bool) :=
  match t.image with
  | some im => (span o n).map (fun a => (mget im.shared a, sget im.sharedPoison (a / 4) == 1#1))
  | none =>
    let c := s.core t.core
    (span o n).map (fun a =>
      let p := sharedPhys t a
      (mget c.shared p, sget c.sharedPoison (p / 4) == 1#1 || sget c.sharedUpset (p / 4) == 2#2))

/-- One shared byte with the poison its word is to have: none leaves it. -/
def Core.putShared (c : Core) (p : Nat) (b : Byte) : Core := { c with shared := mput c.shared p b }

def Core.sharedMark (c : Core) (p : Nat) (b : Bool) : Core :=
  { c with sharedPoison := sput c.sharedPoison (p / 4) (if b then 1#1 else 0#1)
           sharedUpset := sput c.sharedUpset (p / 4) 0#2 }

/-- Bytes moved into a team's shared memory with their poison: words covered whole take the poison
moved, a word covered in part becomes poisoned when a poisoned byte is moved into it. -/
def sharedMove (tk : Nat) (o : Nat) (bs : List (Byte × Bool)) (s : State) : State :=
  let t := s.team tk
  let bad := (List.range bs.length).filter (fun i => ((lget bs i).getD (0#8, false)).2)
  match t.image with
  | some im =>
    let cleared := (wholeWords o bs.length).foldl (fun q a => sput q (a / 4) 0#1) im.sharedPoison
    let im1 := { im with
      shared := mputs im.shared o (bs.map (·.1))
      sharedPoison := bad.foldl (fun q i => sput q ((o + i) / 4) 1#1) cleared }
    s.setTeam tk { t with image := some im1 }
  | none =>
    s.modCore t.core (fun c =>
      let c1 := (List.range bs.length).foldl (fun c i =>
        c.putShared (sharedPhys t (o + i)) ((lget bs i).getD (0#8, false)).1) c
      let c2 := (wholeWords o bs.length).foldl (fun c a => c.sharedMark (sharedPhys t a) false) c1
      bad.foldl (fun c i => c.sharedMark (sharedPhys t (o + i)) true) c2)

/-- A store's bytes into a team's shared memory (R340). -/
def sharedStore (tk o : Nat) (bs : List Byte) (s : State) : State :=
  sharedMove tk o (bs.map (fun b => (b, false))) s

/-- A word of accumulator memory as it is stored: the copies of POISON, CHECK and DATA, with the bits that soft errors
have turned (R370). -/
def Core.accStored (c : Core) (p : Nat) : BitVec 41 :=
  let x := sget c.accum p
  sget c.accumPoison p ++ ((checkOf x ++ x) ^^^ sget c.accumFlips p)

/-- A word of accumulator memory with its poison, set in either copy or by an error of two bits in the word, which then
reads as it stands (R370). -/
def accRead (t : Team) (o : Nat) (s : State) : Word × Bool :=
  match t.image with
  | some im => (sget im.accum o, sget im.accumPoison o == 1#1)
  | none =>
    let c := s.core t.core
    let p := accPhys t o
    let f := sget c.accumFlips p
    (if flipsFatal f then sget c.accum p ^^^ f.setWidth 32 else sget c.accum p,
      sget c.accumPoison p != 0#2 || flipsFatal f)

/-- An error of an accumulator word resolved and counted: of one bit it is corrected, of two it poisons the word with
what it holds now (R88, R370). -/
def resolveAcc (g p : Nat) (s : State) : State :=
  let c := s.core g
  let f := sget c.accumFlips p
  if f = 0#39 then s
  else
    let c1 := { c with accumFlips := sput c.accumFlips p 0#39 }
    if flipsFatal f then
      let s1 := s.setCore g { c1 with
        accum := sput c1.accum p (sget c1.accum p ^^^ f.setWidth 32)
        accumPoison := sput c1.accumPoison p 3#2 }
      if sget c.accumPoison p != 0#2 then s1 else countErrorAt 7 1 g s1
    else countErrorAt 6 1 g (s.setCore g c1)

/-- A word of accumulator memory written with its poison. -/
def accWrite (tk o : Nat) (v : Word) (poison : Bool) (s : State) : State :=
  let t := s.team tk
  match t.image with
  | some im =>
    s.setTeam tk { t with image := some { im with
      accum := sput im.accum o v, accumPoison := sput im.accumPoison o (if poison then 1#1 else 0#1) } }
  | none =>
    let p := accPhys t o
    s.modCore t.core (fun c => { c with
      accum := sput c.accum p v
      accumPoison := sput c.accumPoison p (if poison then 3#2 else 0#2)
      accumFlips := sput c.accumFlips p 0#39 })

end Sys2Proof.Machine
end

