-- ==== Sys2Proof/Machine/Splits.lean ====
section
/-!
DEFINITION. Machine/Splits.lean: the split table: division, seating, join tokens, fusion and join
releases (R232 to R244).
-/

namespace Sys2Proof.Machine

open Sys2Proof

/-! ## Offsets -/

/-- The place past line 2^29 − 1, which no offset of 32 bits names: its slot is none of a line's, so that a lane
that reaches it raises TARGET-MASK there (R232; log 37). -/
def beyond : Word := 0xFFFFFFFF#32

/-- The offset that follows (R232). -/
def following (o : Word) : Word :=
  if 0xFFFFFFFC ≤ o.toNat then beyond else if o.extractLsb' 0 3 == 4#3 then o + 4#32 else o + 1#32

/-- The code pointer of an offset: past line 2^29 − 1 it is 2^32, which names no slot (R232). -/
def pointerOf (o : Word) : A80 := if o == beyond then 0x100000000#80 else o.setWidth 80

/-- Line and slot of an offset. -/
def lineOf (o : Word) : Nat := o.toNat / 8
def slotNum (o : Word) : Nat := o.toNat % 8

/-- The offset of a line, a signed number of lines away, and a slot; none when it is negative, or at
or beyond line 2^29 or the plane stride of 2^logs bytes (R56, R232). -/
def offsetAt (line : Nat) (delta : Int) (slot : Nat) (logs : Nat) : Option Word :=
  let n := (line : Int) + delta
  if n < 0 then none
  else if n.toNat ≥ 2 ^ 29 then none
  else if logs != 0 && 64 * n.toNat ≥ 2 ^ logs then none
  else some (BitVec.ofNat 32 (8 * n.toNat + slot))

/-! ## Tokens -/

/-- The depth of a split's stack. -/
def Split.depth (x : Split) : Nat := x.stack.foldl (fun d t => max d t.1) 0

/-- The token on top of a split's stack. -/
def Split.top (x : Split) : Option Nat := tget x.stack x.depth

/-- The token stack of an unseated lane (R235). -/
def Warp.laneStack (w : Warp) (l : Nat) : Tbl Nat :=
  (List.range 8).foldl (fun t e =>
    let x := w.split e
    if x.tused && x.tlanes.getLsbD l then tput t x.tdepth e else t) []

/-- The top of a stack. -/
def stackTop (t : Tbl Nat) : Option Nat := tget t (t.foldl (fun d x => max d x.1) 0)

/-- The offset of an unseated lane. -/
def Warp.unseatedOffset (w : Warp) (l : Nat) : Word := (tget w.uoffset l).getD 0#32

/-- Whether a valid split is at join (R242). -/
def Warp.entryAtJoin (w : Warp) (e : Nat) : Bool :=
  let x := w.split e
  x.valid && match x.top with
    | some t => x.offset == (w.split t).tpoint
    | none => false

/-- Whether an unseated lane is at join at token t (R242). -/
def Warp.unseatedAt (w : Warp) (l t : Nat) : Bool :=
  w.unseated.getLsbD l && stackTop (w.laneStack l) == some t &&
    w.unseatedOffset l == (w.split t).tpoint

/-- Whether an unseated lane is at join. -/
def Warp.unseatedAtJoin (w : Warp) (l : Nat) : Bool :=
  match stackTop (w.laneStack l) with
  | some t => w.unseatedOffset l == (w.split t).tpoint
  | none => false

/-- Every valid entry's ATJOIN as R242 says. -/
def Warp.markJoins (w : Warp) : Warp :=
  w.validEntries.foldl (fun x e => x.modSplit e (fun y => { y with atJoin := w.entryAtJoin e })) w

/-- The lanes at join at token t. -/
def Warp.arrived (w : Warp) (t : Nat) : Lanes :=
  (w.validEntries.filter (fun e => w.entryAtJoin e && (w.split e).top == some t)).foldl
    (fun m e => m ||| (w.split e).members) (mkLanes (fun l => w.unseatedAt l t))

/-- Token t removed from every stack and every lane, and its slot freed (R242 step 2). -/
def Warp.dropToken (w : Warp) (t : Nat) : Warp :=
  let d := (w.split t).tdepth
  let w1 := (List.range 8).foldl (fun x e => x.modSplit e (fun y =>
    if tget y.stack d == some t then { y with stack := tdel y.stack d } else y)) w
  w1.modSplit t (fun y => { y with tused := false, tlanes := 0#96, tpoint := 0#32, tdepth := 0 })

/-- The entry emptied of its split; its token slot stays (R234, R239). -/
def Split.freed (x : Split) : Split :=
  { Split.free with tpoint := x.tpoint, tused := x.tused, tdepth := x.tdepth, tlanes := x.tlanes }

/-- The lowest entry that holds no split. -/
def Warp.freeEntry (w : Warp) : Option Nat := firstBelow 8 (fun e => !(w.split e).valid)

/-- The splits and unseated lanes at join at token t fuse into the lowest-numbered entry, or into the
lowest free entry when only unseated lanes wait (R242 step 1). With no entry free then, the lanes stay unseated at the
point and the token alone goes, since step 1 names no entry for them (DESIGN CHOICE; log 41). -/
def Warp.fuse (w : Warp) (t : Nat) : Warp :=
  let es := w.validEntries.filter (fun e => w.entryAtJoin e && (w.split e).top == some t)
  let us := mkLanes (fun l => w.unseatedAt l t)
  let point := (w.split t).tpoint
  let stackU := match lowLane us with
    | some l => w.laneStack l
    | none => []
  match (match es with | e :: _ => some e | [] => if noLanes us then none else w.freeEntry) with
  | none => w
  | some e0 =>
    let members := es.foldl (fun m e => m ||| (w.split e).members) us
    let active := es.foldl (fun m e => m ||| (w.split e).active) (us &&& w.uactive)
    let w1 := es.foldl (fun x e => if e = e0 then x else x.modSplit e Split.freed) w
    let w2 := w1.modSplit e0 (fun y =>
      { y with valid := true, offset := point, atJoin := false, inRep := false, repJ := 0,
               stack := if es.isEmpty then stackU else y.stack, members := members,
               active := active, wph := none })
    { w2 with unseated := w2.unseated &&& ~~~us, uactive := w2.uactive &&& ~~~us }

/-! ## Seating (R239) -/

/-- The unseated lanes that share a lane's offset and stack. -/
def Warp.unseatedGroup (w : Warp) (l : Nat) : Lanes :=
  mkLanes (fun k => w.unseated.getLsbD k && w.unseatedOffset k == w.unseatedOffset l &&
    w.laneStack k == w.laneStack l)

/-- The unseated lane that leads the group to seat first: lowest offset, then lowest lane, among the
groups not at join. -/
def Warp.seatLeader (w : Warp) : Option Nat :=
  ((lanesOf w.unseated).filter (fun l => !w.unseatedAtJoin l)).foldl (fun b l =>
    match b with
    | none => some l
    | some k => if (w.unseatedOffset l).toNat < (w.unseatedOffset k).toNat then some l else some k)
    none

/-- A group seated in entry e. -/
def Warp.seatIn (w : Warp) (e l : Nat) : Warp :=
  let g := w.unseatedGroup l
  let w1 := w.modSplit e (fun y =>
    { y.freed with valid := true, offset := w.unseatedOffset l, stack := w.laneStack l,
                   members := g, active := g &&& w.uactive })
  { w1 with unseated := w1.unseated &&& ~~~g, uactive := w1.uactive &&& ~~~g }

/-! ## One change at a time, until nothing is left to do -/

/-- The token that completes, if any: every lane that holds it has arrived (R242). -/
def Warp.completeToken (w : Warp) : Option Nat :=
  firstBelow 8 (fun t => (w.split t).tused && (w.split t).tlanes &&& ~~~(w.arrived t) == 0#96)

/-- The token a join release frees: the top token of greatest depth among the waiting splits and
unseated lanes, the lowest number first (R243 step 2). -/
def Warp.releaseToken (w : Warp) : Option Nat :=
  let tops := (w.validEntries.filterMap (fun e => (w.split e).top)) ++
    ((lanesOf w.unseated).filterMap (fun l => stackTop (w.laneStack l)))
  (List.range 8).foldl (fun b t =>
    if tops.contains t then
      match b with
      | none => some t
      | some k => if (w.split t).tdepth > (w.split k).tdepth then some t else some k
    else b) none

/-- The ATJOIN split of highest offset, then highest entry (R243 step 1). -/
def Warp.unseatEntry (w : Warp) : Option Nat :=
  w.validEntries.foldl (fun b e =>
    match b with
    | none => some e
    | some k => if (w.split e).offset.toNat ≥ (w.split k).offset.toNat then some e else some k) none

/-- A split's lanes unseated, each as active as it was (R235, R243). -/
def Warp.unseatSplit (w : Warp) (e : Nat) : Warp :=
  let x := w.split e
  let w1 := w.modSplit e Split.freed
  { w1 with
    unseated := w1.unseated ||| x.members
    uactive := (w1.uactive &&& ~~~x.members) ||| x.active
    uoffset := (lanesOf x.members).foldl (fun t l => tput t l x.offset) w1.uoffset }

/-- Whether the table can do nothing but wait for a join: every valid entry is at join. -/
def Warp.allAtJoin (w : Warp) : Bool :=
  w.validEntries.all (fun e => w.entryAtJoin e) && (!w.validEntries.isEmpty || !noLanes w.unseated)

/-- One change of R239, R242 or R243, with whether it is a join release. -/
def Warp.settleOne (w : Warp) : Option (Warp × Bool) :=
  match w.completeToken with
  | some t => some ((w.fuse t).dropToken t, false)
  | none =>
    match w.freeEntry, w.seatLeader with
    | some e, some l => some (w.seatIn e l, false)
    | _, l =>
      if w.allAtJoin then
        match l with
        | some k =>
          match w.unseatEntry with
          | some e => let w1 := w.unseatSplit e; some (w1.seatIn e k, false)
          | none => none
        | none =>
          match w.releaseToken with
          | some t => some ((w.fuse t).dropToken t, true)
          | none => none
      else none

/-- Changes until none is left; the count of join releases. -/
def Warp.settleGo : Nat → Warp → Nat → Warp × Nat
  | 0, w, n => (w, n)
  | k + 1, w, n =>
    match w.settleOne with
    | some (w1, r) => settleGo k w1 (if r then n + 1 else n)
    | none => (w, n)

/-- The split table after every fusion, seating and release that is due (R239, R242, R243). -/
def settle (k : Nat) (s : State) : State :=
  let (w1, n) := Warp.settleGo 256 (s.warp k) 0
  countWarp 0x07 n k (s.setWarp k w1.markJoins)

/-! ## Moving lanes (R238) -/

/-- The next offset of an active lane. -/
def nextOf (moves : List (Lanes × Word)) (follow : Word) (l : Nat) : Word :=
  match moves.find? (fun m => m.1.getLsbD l) with
  | some m => m.2
  | none => follow

/-- An offset inserted in an ascending list. -/
def insertOffset (o : Word) : List Word → List Word
  | [] => [o]
  | x :: r => if o.toNat < x.toNat then o :: x :: r else if o = x then x :: r else x :: insertOffset o r

/-- The offsets that some lane of a set moves to, ascending. -/
def targetsOf (moves : List (Lanes × Word)) (follow : Word) (m : Lanes) : List Word :=
  (lanesOf m).foldl (fun os l => insertOffset (nextOf moves follow l) os) []

/-- A token of a split pushed over its members; none when no slot is free or the depth is 4 (R241). -/
def Warp.pushToken (w : Warp) (e : Nat) (point : Word) : Option Warp :=
  let x := w.split e
  match firstBelow 8 (fun t => !(w.split t).tused) with
  | some t =>
    if x.depth ≥ 4 then none
    else
      let d := x.depth + 1
      let w1 := w.modSplit t (fun y =>
        { y with tused := true, tpoint := point, tlanes := x.members, tdepth := d })
      some (w1.modSplit e (fun y => { y with stack := tput y.stack d t }))
  | none => none

/-- One group of a division in a free entry, or unseated (R238); active says which of its lanes are. -/
def Warp.placeGroup (w : Warp) (stack : Tbl Nat) (o : Word) (g active : Lanes) : Warp :=
  match w.freeEntry with
  | some e =>
    w.modSplit e (fun y => { y.freed with valid := true, offset := o, stack := stack, members := g, active := active })
  | none =>
    { w with
      unseated := w.unseated ||| g
      uactive := (w.uactive &&& ~~~g) ||| active
      uoffset := (lanesOf g).foldl (fun t l => tput t l o) w.uoffset }

/-- The members of a split moved to their next offsets: the split divides when they differ, pushing a
token when a reconvergence point is named. Answers the table and whether a token was wanted and not
pushed. -/
def Warp.moveLanes (w : Warp) (e : Nat) (moves : List (Lanes × Word)) (follow : Word)
    (point : Option Word) : Warp × Bool :=
  let x := w.split e
  let ts := targetsOf moves follow x.active
  match ts with
  | [] => (w.modSplit e (fun y => { y with offset := follow, wph := none }), false)
  | [o] => (w.modSplit e (fun y => { y with offset := o, wph := none }), false)
  | o0 :: _ =>
    let keep := if ts.contains follow then follow else o0
    let groupOf (o : Word) : Lanes :=
      mkLanes (fun l => x.active.getLsbD l && nextOf moves follow l == o)
    let pushed := match point with
      | some p => w.pushToken e p
      | none => some w
    let w1 := pushed.getD w
    let stack := (w1.split e).stack
    let gone := x.active &&& ~~~(groupOf keep)
    let w2 := w1.modSplit e (fun y =>
      { y with offset := keep, members := y.members &&& ~~~gone, active := groupOf keep, wph := none })
    ((ts.filter (· != keep)).foldl (fun v o => v.placeGroup stack o (groupOf o) (groupOf o)) w2,
      pushed.isNone)

/-- Lanes leave a warp: they leave every split, every token and the live lanes (R258). -/
def Warp.leave (w : Warp) (m : Lanes) : Warp :=
  let w1 := (List.range 8).foldl (fun x e => x.modSplit e (fun y =>
    let mem := y.members &&& ~~~m
    let y1 := { y with members := mem, active := y.active &&& ~~~m, tlanes := y.tlanes &&& ~~~m }
    let y2 := if y1.tused && noLanes y1.tlanes then { y1 with tused := false, tpoint := 0#32, tdepth := 0 } else y1
    y2)) w
  let freedTokens := (List.range 8).filter (fun t => (w.split t).tused && !(w1.split t).tused)
  let w2 := freedTokens.foldl (fun x t => (List.range 8).foldl (fun x e => x.modSplit e (fun y =>
    { y with stack := y.stack.filter (fun c => c.2 != t) })) x) w1
  { w2 with live := w2.live &&& ~~~m, exited := w2.exited ||| m, unseated := w2.unseated &&& ~~~m, uactive := w2.uactive &&& ~~~m }

/-- Splits that have lost every member free their entries. -/
def Warp.freeDead (w : Warp) : Warp :=
  w.validEntries.foldl (fun x e =>
    if noLanes (w.split e).members then x.modSplit e Split.freed else x) w

/-- The planes that hold a member of a split (R237). -/
def Warp.occupied (w : Warp) (m : Lanes) : BitVec 4 :=
  BitVec.ofNat 4 (bitsNat (fun p => m &&& w.planeLanes p != 0#96) 4)

/-- The planes of a mask, ascending. -/
def planesOf (m : BitVec 4) : List Nat := (List.range 4).filter (fun p => m.getLsbD p)

end Sys2Proof.Machine
end

