-- ==== Sys2Proof/Machine/Ops.lean ====
section
/-!
DEFINITION. Machine/Ops.lean: taking a trap and returning from one, the ends of warps and launches,
the fetch of code lines, and the outcome of one plane pass (R27, R33 to R42, R207 to R220, R248 to
R252, R505).
-/

namespace Sys2Proof.Machine

open Sys2Proof

/-! ## Causes (R209) -/

def causeIllegalOpcode : BitVec 8 := 0x01#8
def causeIllegalEncoding : BitVec 8 := 0x02#8
def causeLineParity : BitVec 8 := 0x03#8
def causeRole : BitVec 8 := 0x04#8
def causeTargetMask : BitVec 8 := 0x05#8
def causePadTag : BitVec 8 := 0x06#8
def causePlaneSkew : BitVec 8 := 0x07#8
def causeWorkingSet : BitVec 8 := 0x08#8
def causeFormatTag : BitVec 8 := 0x09#8
def causeEmptyRegister : BitVec 8 := 0x0A#8
def causePoison : BitVec 8 := 0x0B#8
def causeFp : BitVec 8 := 0x0C#8
def causeDivergent : BitVec 8 := 0x0D#8
def causeGang : BitVec 8 := 0x0E#8
def causeAlignment : BitVec 8 := 0x0F#8
def causeShared : BitVec 8 := 0x12#8
def causeTile : BitVec 8 := 0x13#8
def causeQueue : BitVec 8 := 0x14#8
def causeChannel : BitVec 8 := 0x15#8
def causeBarrier : BitVec 8 := 0x16#8
def causeAccum : BitVec 8 := 0x17#8
def causeCopy : BitVec 8 := 0x18#8
def causeCollective : BitVec 8 := 0x19#8
def causeVeer : BitVec 8 := 0x1A#8
def causeTrap : BitVec 8 := 0x1B#8
def causeBreak : BitVec 8 := 0x1C#8
def causePrivilege : BitVec 8 := 0x1D#8

/-- A fault as its instruction raises it: cause, address and lanes (R210). For a translation fault, named
lists the addresses that failed with the codes of their accesses; none lists va, read (R220). -/
structure FaultInfo where
  cause : BitVec 8
  va : A80
  lanes : Lanes
  named : List (A80 × Nat) := []
deriving DecidableEq, Repr

/-- A fault that names no lane and no address. -/
def plainFault (c : BitVec 8) : FaultInfo := { cause := c, va := 0#80, lanes := 0#96 }

/-! ## Ending launches (R212, R228, R229) -/

/-- A launch asked to end: the first request stands. -/
def endLaunch (l : Nat) (r : EndReq) (replay : Bool) (s : State) : State :=
  s.modLaunch l (fun x =>
    match x.ending with
    | some _ => x
    | none => { x with ending := some r, replaying := replay })

/-- The launch of a team asked to end with a status and cause (R305). -/
def endTeam (t : Nat) (status : BitVec 8) (cause : BitVec 8) (detail : Word) (s : State) : State :=
  endLaunch (s.team t).launch
    { status := status, cause := cause, detail := detail, team := (s.team t).number } false s

/-- A Squall replay asked for (R219, R229). -/
def squall (t : Nat) (s : State) : State :=
  endLaunch (s.team t).launch
    { status := 0x30#8, cause := causePoison, detail := 0#32, team := (s.team t).number } true s

/-- An uncorrectable error in state that is not a word, or in a page-table entry that a walk reads, met by a team in
die d of package p: counted there, and a replay or the end of the team. A launch that is ending meets no further one (R218, R486). -/
def stateErrorAt (t p d : Nat) (s : State) : State :=
  if (s.launchOf t).ending.isSome then s
  else
    let s1 := countError 12 1 p d s
    if (s.launchOf t).replayable then squall t s1 else endTeam t 0x20#8 causePoison 0#32 s1

/-- The same in the team's own package. -/
def stateError (t : Nat) (d : Nat) (s : State) : State := stateErrorAt t (s.launchOf t).pkg d s

/-! ## Taking a trap (R208) -/

/-- TRAPPC: repetition, planes and offset (R191); LINE has no room for line 2^29, and reads as 0 there
(log 37). -/
def trapPcOf (rep : Nat) (planes : BitVec 4) (o : Word) : BitVec 64 :=
  BitVec.ofNat 64 (2 ^ 36 * (rep % 16) + 2 ^ 32 * planes.toNat + (if o == beyond then 0 else o.toNat))

/-- Trap entry, outside trap mode: the trap registers are written, the working set and the latches are
set aside, the A-reuse latch becomes invalid, TRAPMODE is set, and the trap split starts at the
handler's first slot with every live lane (R208, R96, R100, R103). -/
def Warp.enterTrap (w : Warp) (e : Nat) (pc : BitVec 64) (f : FaultInfo) : Warp :=
  { w with
    trapCause := f.cause.setWidth 32
    trapPc := pc
    trapVa := f.va
    trapLanes := f.lanes
    trapPc0 := pc
    trapEntry := e
    savedWs := w.ws
    savedHl := w.hl
    hl := []
    areuse := none
    trapMode := true
    trapSplit := some { offset := 0#32, mask := w.live, inRep := false, repJ := 0, wph := none,
                        lastIssue := 0, aged := false, yielded := false } }

/-- A fault of a warp's split at a TRAPPC. POISON-USE is counted; in a replayable node it goes to
Squall replay. A fault in trap mode is a double fault. Without a handler firmware ends the team, but a
BREAKPOINT parks the warp (R208, R212, R219). -/
def raiseFault (k e : Nat) (pc : BitVec 64) (f : FaultInfo) (s : State) : State :=
  let w := s.warp k
  let l := s.warpLaunch k
  let s1 := if f.cause == causePoison then countErrorAt 13 1 (coreOf k) s else s
  if f.cause == causePoison && l.replayable then
    squall w.team (s1.modWarp k (fun x => { x with park := .stopped }))
  else if w.trapMode then
    endTeam w.team 0x21#8 f.cause 0#32 (s1.modWarp k (fun x => { x with park := .stopped }))
  else if l.handler == 0#80 then
    if f.cause == causeBreak then
      s1.modWarp k (fun x => { x with park := .breakpoint, trapPc := pc, trapEntry := e })
    else endTeam w.team 0x20#8 f.cause 0#32 (s1.modWarp k (fun x => { x with park := .stopped }))
  else s1.modWarp k (fun x => x.enterTrap e pc f)

/-- A double fault with no cause of its own (R212, R258). -/
def doubleFault (k : Nat) (s : State) : State :=
  endTeam (s.warp k).team 0x21#8 0x00#8 0#32 (s.modWarp k (fun x => { x with park := .stopped }))

/-! ## Where an instruction stands (R39, R215, R237, R240) -/

/-- The planes of a list, as a mask. -/
def planeMask (ps : List Nat) : BitVec 4 := BitVec.ofNat 4 (bitsNat (fun p => ps.contains p) 4)

/-- The lanes of a warp in the planes of a mask. -/
def Warp.lanesIn (w : Warp) (ps : BitVec 4) : Lanes := (planesOf ps).foldl (fun m p => m ||| w.planeLanes p) 0#96

/-- The planes still to issue of a pair's other instruction. -/
def Reissue.matePlanes (r : Reissue) : BitVec 4 :=
  match r.mate with
  | some m => planeMask m.todo
  | none => 0#4

/-- PMASK of an instruction that faults: the planes it has still to pass; of the second of a pair, those that the
first has passed (R39, R210). -/
def Reissue.pmask (r : Reissue) : BitVec 4 :=
  match r.mate with
  | some m => if m.second then r.planes else r.planes &&& ~~~(planeMask m.todo)
  | none => r.planes

/-- The offset that follows the instruction, and the whole pair (R232). -/
def Reissue.after (r : Reissue) : Word :=
  match r.mate with
  | some m => if m.second then following m.offset else following r.offset
  | none => following r.offset

/-- Lanes that have completed a repetition, seated at their REP with the next one to come (R240, R263);
with no free entry they are unseated past the prefixed slot (log 31). -/
def Warp.placeRep (w : Warp) (stack : Tbl Nat) (rep : Word) (j : Nat) (follow : Word) (g active : Lanes) : Warp :=
  match w.freeEntry with
  | some e =>
    (w.placeGroup stack rep g active).modSplit e (fun y => { y with inRep := true, repJ := j })
  | none => w.placeGroup stack follow g active

/-- The members of a split in the planes of a mask go to an offset, each as active as it is. -/
def Warp.placeWaiting (w : Warp) (x : Split) (stack : Tbl Nat) (ps : BitVec 4) (o : Word) : Warp :=
  let g := x.members &&& w.lanesIn ps
  if noLanes g then w else w.placeGroup stack o g (g &&& x.active)

/-- Before a trap the lanes whose passes completed take their next offsets, the inactive ones with those that
fall through; those of a pair's planes in which the two instructions stand apart go to the slot they have come
to; the split at TRAPPC keeps the lanes of the planes in PMASK, at the slot that faults (log 12). Within a REP
they go on with the next repetition, when there is one (R39, R240, R263). -/
def Warp.divideForTrap (w : Warp) (e : Nat) (r : Reissue) (again : Option Nat) : Warp × Bool :=
  let x := w.split e
  let other := r.matePlanes
  let done := x.members &&& ~~~(w.lanesIn (r.planes ||| other))
  let gone := x.members &&& ~~~(w.lanesIn r.pmask)
  let here (y : Split) : Split := if y.inRep then y else { y with offset := r.offset }
  if noLanes gone then (w.modSplit e here, false)
  else
    let follow := r.after
    let act := done &&& x.active
    let pushed := match r.progress.point with
      | some p => if noLanes act then some w else w.pushToken e p
      | none => some w
    let w1 := pushed.getD w
    let stack := (w1.split e).stack
    let w2 := w1.modSplit e (fun y =>
      here { y with members := y.members &&& ~~~gone, active := y.active &&& ~~~gone })
    let moves := r.progress.moves
    let ts := targetsOf moves follow act
    let keep := if ts.contains follow || ts.isEmpty then follow else ts.headD follow
    let groupOf (o : Word) : Lanes := mkLanes (fun l => act.getLsbD l && nextOf moves follow l == o)
    let w3 := match again with
      | some j => if noLanes done then w2 else w2.placeRep stack x.offset j follow done act
      | none => (insertOffset keep ts).foldl (fun v o =>
          let g := groupOf o ||| (if o == keep then done &&& ~~~act else 0#96)
          if noLanes g then v else v.placeGroup stack o g (groupOf o)) w2
    let w4 := match r.mate with
      | some m =>
        if m.second then w3.placeWaiting x stack (planeMask m.todo &&& ~~~r.planes) m.offset
        else w3.placeWaiting x stack (planeMask m.todo) m.offset
      | none => w3
    (w4, pushed.isNone)

/-- A trapped instruction counts toward the latch lives once its decode checks are made (R99, R100). -/
def Warp.ageLatches (w : Warp) (fresh : List Nat) : Warp :=
  { w with hl := (w.hl.filter (fun x => fresh.contains x.1 || 1 < x.2.life)).map (fun x =>
      if fresh.contains x.1 then x else (x.1, { x.2 with life := x.2.life - 1 })) }

/-- What ERET takes up of a trapped instruction: the lanes that took part and whether it has counted; it reads its
sources anew, as a new producer (R107, R215). -/
def Progress.afterTrap (x : Progress) (decoded : Bool) : Progress :=
  { x with moves := [], shifts := [], point := none, fresh := [], counted := x.counted || decoded, pre := none, wb := none }

/-- A warp that is to take a fault of an instruction that stands at r: its completed lanes have moved, and its
latches have counted it if it passed its decode checks; with whether a token was wanted and not pushed. -/
def Warp.readyTrap (w : Warp) (e : Nat) (r : Reissue) (decoded : Bool) (again : Option Nat) : Warp × Bool :=
  let w1 := if decoded && !r.progress.counted then w.ageLatches r.progress.fresh else w
  if w.trapMode then (w1, false)
  else
    let (w2, ov) := w1.divideForTrap e r again
    ({ w2 with trapDone := r.progress.afterTrap decoded, walkFails := [] }, ov)

/-! ## The fast file and the working set (R88, R90 to R96) -/

/-- The registers of a list of ranges. -/
def wsRegs (ws : List WsRange) : List Nat := ws.flatMap (fun r => span r.base r.len)

/-- The registers of a set that hold no entry of the fast file. -/
def Warp.unstaged (w : Warp) (ws : List WsRange) : List Nat :=
  ((wsRegs ws).eraseDups).filter (fun r => (tget w.fast r).isNone)

/-- The cycles that staging registers takes: 4 + 3m for the largest number m of them in one bank; none when
there is none (R94). -/
def stagingCycles (rs : List Nat) : Nat :=
  if rs.isEmpty then 0
  else 4 + 3 * (List.range 4).foldl (fun m b => max m (rs.filter (fun r => r % 4 == b)).length) 0

/-- Registers leave the fast file: those written while staged are copied back to the main file, the copies of the others
are dropped (R91). -/
def Warp.unstage (w : Warp) (rs : List Nat) : Warp :=
  { w with
    vregs := (w.fast.filter (fun x => rs.contains x.1 && x.2.written)).foldl (fun t x => tput t x.1 x.2.reg) w.vregs
    fast := w.fast.filter (fun x => !rs.contains x.1) }

/-- Registers of a warp leave the fast file: those written while staged are read and checked as they are copied
back to the main file (R88, R91, R94). -/
def releaseRegs (k : Nat) (rs : List Nat) (s : State) : State :=
  let written := rs.filter (fun r => (tget (s.warp k).fast r).any (·.written))
  (resolveWarp k written [] s).modWarp k (fun w => w.unstage rs)

/-- A warp's whole set leaves the fast file; it is staged again before the warp next issues (R94). -/
def releaseSet (k : Nat) (s : State) : State :=
  (releaseRegs k ((s.warp k).fast.map (·.1)) s).modWarp k (fun w => { w with staged := w.ws.isEmpty })

/-- The warps of a scheduler that hold entries of its fast file. -/
def fastWarps (s : State) (k : Nat) : List Nat :=
  ((span (48 * coreOf k + 12 * schedOf k) 12).filter (fun j =>
    (tget s.warps j).isSome && !(s.warp j).retired && !(s.warp j).fast.isEmpty))

/-- A warp put in the order in which sets are released: the waiting ones first, then those that have issued least
recently (R94). -/
def insertVictim (s : State) (k : Nat) : List Nat → List Nat
  | [] => [k]
  | j :: js =>
    let a := (if (s.warp k).waiting then 0 else 1, (s.warp k).lastIssued)
    let b := (if (s.warp j).waiting then 0 else 1, (s.warp j).lastIssued)
    if a.1 < b.1 || (a.1 == b.1 && a.2 < b.2) then k :: j :: js else j :: insertVictim s k js

/-- Sets released one after the other until n entries of the 256 of the fast file of a warp's scheduler are free
(R90, R94). -/
def makeRoom (k n : Nat) : List Nat → State → State
  | [], s => s
  | j :: js, s =>
    if ((fastWarps s k).map (fun i => (s.warp i).fast.length)).sum + n ≤ 256 then s
    else makeRoom k n js (releaseSet j s)

/-- The registers of a warp's set that are not staged are staged: entries are taken, each register's main-file words are
read, checked and copied with its tag and EMPTY bit, and the cycles are counted as a working-set stall; the warp issues nothing until they are staged (R88,
R91, R94). -/
def stageSet (k : Nat) (s : State) : State :=
  let rs := (s.warp k).unstaged (s.warp k).ws
  if rs.isEmpty then s
  else
    let order := ((fastWarps s k).filter (· != k)).foldl (fun t j => insertVictim s j t) []
    let s1 := resolveWarp k rs [] (makeRoom k rs.length order s)
    countWarp 0x05 (stagingCycles rs) k (s1.modWarp k (fun w =>
      { w with fast := rs.foldl (fun t r => tput t r { reg := w.mainReg r, written := false }) w.fast, staged := false }))

/-- A working set takes the place of the one in force (R91, R93): the registers it does not name are released,
those not staged yet are staged, and the A-reuse latch goes with a register released (R103). -/
def replaceSet (k : Nat) (new : List WsRange) (s : State) : State :=
  let gone := ((s.warp k).fast.map (·.1)).filter (fun r => !inWs new r)
  let dropped := (wsRegs (s.warp k).ws).filter (fun r => !inWs new r)
  stageSet k ((releaseRegs k gone s).modWarp k (fun w =>
    { w with
      ws := new
      staged := true
      areuse := match w.areuse with
        | some a => if dropped.any (fun r => a.base ≤ r && r < a.base + 8) then none else some a
        | none => none }))

/-! ## Leaving a trap (R215) -/

/-- What ERET leaves of trap mode: the latches and their lives return, the trap split goes, with what it had still to
issue; the working set is restored beside it (R96, R100, R215). -/
def Warp.leaveTrap (w : Warp) : Warp :=
  { w with hl := w.savedHl, savedWs := [], savedHl := [], trapMode := false, trapSplit := none, reissues := tdel w.reissues 8 }

/-- Whether the handler moved the offset of TRAPPC (R215). -/
def Warp.trapMoved (w : Warp) : Bool := fieldOf w.trapPc 0 32 != fieldOf w.trapPc0 0 32

/-- A split sent to an offset by ERET or by firmware: no repetition goes on, and the phase that a BWAIT waits on is cleared
(R475). -/
def Split.sentTo (x : Split) (o : Word) : Split := { x with offset := o, inRep := false, repJ := 0, wph := none }

/-- The slot after TRAPPC, which needs no TMASK bit; a slot that a REP prefixes skips its remaining repetitions
(R215). -/
def Warp.resumeAfter (w : Warp) (e : Nat) (o : Word) : Warp :=
  { w.modSplit e (fun x => x.sentTo (following o)) with entryUnchecked := false }

/-- The restriction of a re-issue: the planes of PMASK, and after a translation fault the lanes of
TRAPLANES in the lowest of them (R215). -/
def Warp.reissueOf (w : Warp) : Reissue :=
  let c := fieldOf w.trapCause 0 8
  let planes := fieldOf w.trapPc 32 4
  { offset := fieldOf w.trapPc 0 32, planes := planes,
    low := if c == causePageFault || c == causeProtection then some ((planesOf planes).headD 0, w.trapLanes) else none,
    checked := false, pinned := false, mate := none, progress := w.trapDone }

/-- ERET: to the offset the handler wrote, past the instruction, or back to it (R215). A warp sent back to its entry has
still not issued there, so that the entry is checked (R27). -/
def Warp.eret (w : Warp) (skip : Bool) : Warp :=
  let o := fieldOf w.trapPc 0 32
  let e := w.trapEntry
  let w1 := w.leaveTrap
  if w.trapMoved then
    { w1.modSplit e (fun x => x.sentTo o) with entryUnchecked := false }
  else if skip then w1.resumeAfter e o
  else
    let w2 := w1.modSplit e (fun x => { x with repJ := if x.inRep then (fieldOf w.trapPc 36 4).toNat else 0 })
    { w2 with reissues := tput w2.reissues e w.reissueOf }

/-! ## Retirement of a warp (R34, R258) -/

/-- A warp whose lanes have all exited retires. -/
def retireIfDone (k : Nat) (s : State) : State :=
  let w := s.warp k
  if noLanes w.live && !w.retired then s.modWarp k (fun x => { x with retired := true }) else s

/-! ## Translation for a warp (R286) -/

/-- The pseudo-entry under which a warp's fetches note failed walks: its lines serve every split. -/
def fetchEntry : Nat := 15

/-- How a warp's list of failed walks names a page, an access and the split that made it (R283, R284). -/
def failKey (page : Nat) (code e : Nat) : Nat := 128 * page + 16 * code + e

/-- The translation of an access by a split of a warp: where its walk of the page failed, the failure. -/
def warpTrans (s : State) (k e : Nat) (va : A80) (a : Access) : Trans :=
  match translate s (coreOf k) (s.warpLaunch k) va a with
  | .miss =>
    match tget (s.warp k).walkFails (failKey (va.toNat / 2 ^ 16) a.code e) with
    | some c => .fault c
    | none => .miss
  | t => t

/-- A warp's failures of a split's walks are forgotten, when its instruction ends: the next one walks anew. -/
def Warp.forgetEntry (w : Warp) (e : Nat) : Warp :=
  if w.walkFails.isEmpty then w else { w with walkFails := w.walkFails.filter (fun x => 2 ^ 80 ≤ x.1 || x.1 % 16 != e) }

/-- A miss joins the walk of its page that is in flight in its address space, or that waits in its own cluster, else it
waits for a walk of its own (R286). -/
def joinWalk (g : Nat) (l : Launch) (page : Nat) (f : Walk → Walk) (s : State) : State :=
  s.modPkg l.pkg (fun x =>
    match x.walks.find? (fun v => v.asn == l.asn && v.page == page && (v.started || v.core / 4 == g / 4)) with
    | some v => { x with walks := x.walks.map (fun u => if u == v then f u else u) }
    | none =>
      { x with walks := x.walks ++ [f { core := g, root := l.root, asn := l.asn, page := page, started := false,
                                        waiters := [], lines := [] }] })

/-- A warp's split waits for the walk of a page (R286). -/
def queueWalk (k e : Nat) (va : A80) (a : Access) (s : State) : State :=
  let me := (k, a.code * 16 + e)
  joinWalk (coreOf k) (s.warpLaunch k) (va.toNat / 2 ^ 16)
    (fun v => if v.waiters.contains me then v else { v with waiters := v.waiters ++ [me] }) s

/-- Whether the L1s of a core's cluster are fused: a team of a launch with FUSEL1 is resident in it
(R326). -/
def State.clusterFused (s : State) (g : Nat) : Bool :=
  s.teams.any (fun t => t.2.core / 4 == g / 4 && t.2.run == .running && (s.launch t.2.launch).info.fuse)

/-- Whether the L1 that a warp uses is fused. -/
def State.fused (s : State) (k : Nat) : Bool := s.clusterFused (coreOf k)

/-- The failures of walks that a warp has met are forgotten. -/
def Warp.forgetWalks (w : Warp) : Warp := { w with walkFails := [] }

/-! ## Release and acquire (R350, R353, R365) -/

/-- Whether the warp's earlier stores and atomics have not all completed at a scope: what the home
slices, the targets of KIND 4 and the PCIe ports have not acknowledged (R365). -/
def Warp.writesOut (w : Warp) (scope : Nat) : Bool :=
  w.acks.any (fun a =>
    match a.kind with
    | .slice => 1 ≤ scope
    | .fabric => 3 ≤ scope
    | .pcie => 4 ≤ scope)

/-- Whether a load of the warp has not returned. -/
def Warp.loadsOut (w : Warp) : Bool := w.pend.any (·.isLoad)

/-- Whether data that a fabric access of the warp asked for has not come: loads of KIND 0 to 2 read at issue (log 6). -/
def Warp.answersOut (w : Warp) : Bool := w.pend.any (fun b => b.holes != 0)

/-- Whether an acquire of the warp has not returned: no later access is performed (R350). -/
def Warp.acquireOut (w : Warp) : Bool := w.pend.any (fun b => b.acquires && b.holes != 0)

/-- What a release at a scope does in the L1: at die scope or wider every dirty byte is written back
(R365). -/
def releaseL1 (g : Nat) (fuse : Bool) (scope : Nat) (s : State) : State :=
  if 1 ≤ scope then l1CleanAll g fuse s else s

/-- What an acquire at a scope does in the L1: at die scope or wider clean bytes become invalid
(R365). -/
def acquireL1 (g : Nat) (fuse : Bool) (scope : Nat) (s : State) : State :=
  if 1 ≤ scope then l1Invalidate g fuse s else s

/-- An outstanding write of a warp (R365). -/
def addAck (k : Nat) (kind : AckKind) (s : State) : State :=
  let (id, s1) := s.takeId
  s1.modWarp k (fun w => { w with acks := w.acks ++ [{ id := id, kind := kind }] })

/-! ## Code lines (R36 to R41, R248) -/

/-- The address of a line: CODEBASE and the plane's stride, or the handler in trap mode (R208,
R231). -/
def codeAddr (s : State) (k plane : Nat) (o : Word) : A80 :=
  let l := s.warpLaunch k
  let w := s.warp k
  if w.trapMode then l.handler + BitVec.ofNat 80 (64 * lineOf o)
  else l.info.codebase +
    BitVec.ofNat 80 ((if l.info.pstride = 0 then 0 else plane * 2 ^ l.info.pstride) + 64 * lineOf o)

/-- Whether an offset lies in the plane's code (R232). -/
def offsetInRange (s : State) (k : Nat) (o : Word) : Bool :=
  let n := (s.warpLaunch k).info.pstride
  o != beyond && (n = 0 || (s.warp k).trapMode || 64 * lineOf o < 2 ^ n)

/-- The word of a slot of a line (R36). -/
def slotWord (line : BitVec 512) (i : Nat) : BitVec 96 := fieldOf line (96 * i) 96

/-- The line word (R36). -/
def lineWord (line : BitVec 512) : Word := fieldOf line 480 32

def tmaskBit (line : BitVec 512) (i : Nat) : Bool := (lineWord line).getLsbD i

/-- PAIR bit of slots (i, i + 1). -/
def pairBit (line : BitVec 512) (i : Nat) : Bool := i < 4 && (lineWord line).getLsbD (5 + i)

/-- Line parity (R40). -/
def parityOk (line : BitVec 512) : Bool :=
  let lw := lineWord line
  lw.getLsbD 31 == parityOf (fieldOf lw 0 31) &&
  (List.range 15).all (fun c => lw.getLsbD (16 + c) == parityOf (fieldOf line (32 * c) 32))

/-- The reserved bits and the PAIR field of a line word (R41). -/
def lineWordOk (line : BitVec 512) : Bool :=
  fieldOf (lineWord line) 9 7 == 0#7 && !(List.range 3).any (fun i => pairBit line i && pairBit line (i + 1))

/-- The instruction of a slot. -/
def instrAt (line : BitVec 512) (i : Nat) : Instr := decode (slotWord line i)

/-- Whether a slot holds a REP. -/
def isRep : Instr → Bool
  | .rep _ _ => true
  | _ => false

/-- What a fetch finds. -/
inductive LineResult where
  | line (bits : BitVec 512)
  | fault (cause : BitVec 8) (va : A80)
  | missing (va : A80)
deriving DecidableEq, Repr

/-- The mark of a line whose second copy failed parity as well, among the failed walks. -/
def parityMark (va : A80) : Nat := 2 ^ 80 + va.toNat

/-- The line of a plane at an offset, as the instruction cache holds it (R248, R284, R505). -/
def getLine (s : State) (k plane : Nat) (o : Word) : LineResult :=
  let va := codeAddr s k plane o
  match warpTrans s k fetchEntry va .fetch with
  | .ok p =>
    if p.poa then .fault causePoison va
    else match tget (s.core (coreOf k)).icache (p.key / 64) with
      | some b => .line b
      | none => .missing va
  | .fault c => .fault c va
  | .miss => .missing va
  | .stall => .missing va

/-- A missing line freezes the warp until it arrives (R248); a page that no TLB holds waits for its walk (R286). -/
def freeze (k : Nat) (va : A80) (s : State) : State :=
  let s1 := match warpTrans s k fetchEntry va .fetch with
    | .miss => queueWalk k fetchEntry va .fetch s
    | _ => s
  s1.modWarp k (fun w =>
    if w.frozen.any (fun f => f.1 == va.toNat) then w else { w with frozen := w.frozen ++ [(va.toNat, 0)] })

/-- What a landing check answers. -/
inductive Landing where
  | lands
  | maskClear
  | badPad
  | faults (cause : BitVec 8) (va : A80)
  | waits (va : A80)
deriving DecidableEq, Repr

/-- The landing of lanes at an offset in a plane: TMASK, and for BRX and CALLX the PAD and its tag
(R37, R250, R251, R505). -/
def landing (s : State) (k plane : Nat) (o : Word) (pad : Option (BitVec 7)) : Landing :=
  match getLine s k plane o with
  | .fault c va => .faults c va
  | .missing va => .waits va
  | .line b =>
    let i := slotNum o
    let clear := 5 ≤ i || !tmaskBit b i
    match pad with
      | none => if clear then .maskClear else .lands
      | some t =>
        match instrAt b i with
        | .pad _ f => if f.tag != t then .badPad else if clear then .maskClear else .lands
        | _ => .badPad

/-! ## The outcome of a pass -/

/-- What one plane pass does. -/
inductive PassResult where
  /-- It has its effect; the split moves on after its last pass. -/
  | ok (s : State)
  /-- It has its effect and has moved the split itself. -/
  | moved (s : State)
  /-- It has issued, and the split stays where it is until an event ends the wait. -/
  | held (s : State)
  /-- It waits (R28, R30) and leaves no state but what it waits for. -/
  | wait (s : State)
  /-- Some of its lanes have had their effect; the others, rest, wait (R286). -/
  | part (s : State) (rest : Lanes)
  /-- It raises a fault; the state holds what its other lanes completed. -/
  | fault (s : State) (f : FaultInfo)
  /-- A translation fault (R220). -/
  | pageFault (s : State) (f : FaultInfo)
  /-- A double fault without a cause (R212). -/
  | double (s : State)

end Sys2Proof.Machine
end

