-- ==== Sys2Proof/WellFormed.lean ====
section
/-!
DEFINITION. WellFormed.lean: the instructions that pass check 5 of R42 taken alone, in a warp of a
given register budget and a kernel of a given number of planes. The rules of pairs (R38), of a REP and
its slot (R58) and of planes that disagree (R507) need the fetch line and are checked at issue.
-/

namespace Sys2Proof

/-- An instruction whose header, operand fields and form obey the spec (R42 check 5). -/
def Instr.wf (budget planes : Nat) (i : Instr) : Bool :=
  i.hdrOk && i.fieldsOk budget && i.formOk budget planes

end Sys2Proof
end

