-- ==== Sys2Proof/Machine/Pass.lean ====
section
/-!
DEFINITION. Machine/Pass.lean: one plane pass of an instruction, the checks in the order of R42 and
what follows them, and the bookkeeping of a pass and of an issue (R13 to R16, R38, R39, R42, R72, R73,
R92, R97, R99 to R101, R105, R106, R113, R114, R140, R179, R217, R237, R238, R507).
-/

namespace Sys2Proof.Machine

open Sys2Proof

/-- How an instruction takes part in its passes. -/
inductive PassKind where
  /-- In every pass, lane by lane. -/
  | vec
  /-- In each pass in which a live lane takes part (R179). -/
  | scal
  /-- Once an issue, in the first pass in which a live lane takes part. -/
  | first
  /-- Once an issue, for every occupied plane (R73, R237). -/
  | once
deriving DecidableEq, Repr

/-- What a pass works with: warp, entry and plane; the registers its sources read; its active live
lanes, the lanes that take part, and the live ones among them; and whether some lane takes part in some pass of
the instruction (R112). -/
structure Ctx where
  k : Nat
  e : Nat
  p : Nat
  q : Issue
  h : Hdr
  view : Warp
  act : Lanes
  part : Lanes
  live : Lanes
  any : Bool

/-! ## Checks 3 to 7 of R42 -/

/-- The class of an opcode (R14). -/
def classOfOp (op : Nat) : Nat := op / 32

/-- The roles that may issue a class, and REGROUP (R14, R72): 0 copy, 1 maths, 2 epilogue. -/
def roleMay (role : BitVec 2) (op : Nat) : Bool :=
  match classOfOp op with
  | 2 | 3 | 4 => role == 2#2
  | 5 => role == 1#2
  | 6 => role == 0#2
  | _ => op != 0x0B || role == 2#2

/-- The issue port of a class: 0 scalar, 1 copy, 2 maths, 3 epilogue (R14, R16). -/
def portOf (op : Nat) : Nat :=
  match classOfOp op with
  | 2 | 3 | 4 => 3
  | 5 => 2
  | 6 => 1
  | _ => 0

/-- The registers, predicates and latch entries an instruction writes or captures into; predicates
are numbered from 2000, the latch entry a capture fills has its own code. -/
def destCodes (i : Instr) : List Nat :=
  let fs := Instr.fields i
  let d := fs.flatMap (fun f =>
    if f.code = 643 then []
    else if f.kind.isVDst || f.kind.isSDst || f.kind == .adst then fldCodes f
    else if f.kind == .pdst || f.kind == .pdst643 then [2000 + f.code] else [])
  d ++ (if (Instr.hdr i).holdSrc == 0#2 then [] else [640 + (Instr.hdr i).holdEnt.toNat])

/-- The registers, predicates and latch entries an instruction names as a source. -/
def sourceCodes (i : Instr) : List Nat :=
  let fs := Instr.fields i
  fs.flatMap (fun f =>
    if f.code = 643 then []
    else if f.kind == .psrc || f.kind == .psrc643 then [2000 + f.code]
    else if f.kind.isSource then fldCodes f else []) ++
  (if (Instr.hdr i).pred == 15#4 then [] else [2000 + (Instr.hdr i).pred.toNat])

/-- The rules of a pair (R38). -/
def pairOk (line : BitVec 512) (i : Nat) : Bool :=
  let a := instrAt line i
  let b := instrAt line (i + 1)
  portOf a.opNum != portOf b.opNum && classOfOp a.opNum != 0 && classOfOp b.opNum != 0 &&
  !(0 < i && isRep (instrAt line (i - 1))) &&
  (sourceCodes b).all (fun c => !(destCodes a).contains c)

/-- Whether a REP may prefix an instruction of its format: V, I or M (R58). -/
def repFormat (t : Instr) (f : FP) : Bool := (t.stepped f 0).isSome

/-- The rules of a REP against the slot it prefixes in a line (R58). -/
def repOk (budget planes : Nat) (line : BitVec 512) (i : Nat) (f : FP) : Bool :=
  let t := instrAt line (i + 1)
  i < 4 && !tmaskBit line (i + 1) &&
  (match t.stepped f 0 with
   | none => false
   | some _ =>
     let fs := Instr.fields t
     let isM := febPosM t
     repFieldOk fs 0 f.sd && repFieldOk fs 1 f.sa && repFieldOk fs 2 f.sb &&
     (if isM then f.sc == 0#1 else repFieldOk fs 3 f.sc)) &&
  (List.range (f.count.toNat + 1)).all (fun j =>
    match t.stepped f j with
    | some x => repRangeOk (Instr.fields t) (Instr.fields x) && x.wf budget planes
    | none => false)
where
  /-- Format M has no field C. -/
  febPosM (t : Instr) : Bool :=
    t.opNum == 0x32 || (0x36 ≤ t.opNum && t.opNum ≤ 0x38) || (0x80 ≤ t.opNum && t.opNum ≤ 0x8A) ||
    t.opNum == 0xE0

/-- The prefixed instruction of every repetition of a REP in a line. -/
def repWords (line : BitVec 512) (i : Nat) (f : FP) : List Instr :=
  (List.range (f.count.toNat + 1)).filterMap (fun j => (instrAt line (i + 1)).stepped f j)

/-- The lines of the occupied planes agree on REP and PAIR at a slot (R507). -/
def planesAgree (ls : List (Nat × BitVec 512)) (i : Nat) : Bool :=
  match ls with
  | [] => true
  | (_, a) :: rest => rest.all (fun b =>
      let ra := isRep (instrAt a i)
      let rb := isRep (instrAt b.2 i)
      ra == rb && (!ra || slotWord a i == slotWord b.2 i) &&
      (i = 0 || (isRep (instrAt a (i - 1)) == isRep (instrAt b.2 (i - 1)))) &&
      pairBit a i == pairBit b.2 i && (i = 0 || pairBit a (i - 1) == pairBit b.2 (i - 1)))

/-- Special registers that a warp may reach: in ordinary mode, in trap mode, and BATCH by maths warps
only (R188, R190). -/
def spReach (n : Nat) (trap : Bool) (role : BitVec 2) (write : Bool) : Bool :=
  if n = 0x30 then role == 1#2 && !write
  else if n = 0x10 || n = 0x40 then true
  else if n = 0x101 || n = 0x103 || (0x110 ≤ n && n ≤ 0x117) then trap
  else if n = 0x100 || n = 0x102 then trap && !write
  else !write

/-- Check 6: trap-mode instructions, special registers and kv registers (R48, R72, R188). -/
def privileged (w : Warp) (i : Instr) : Bool :=
  w.trapMode || !(namesKv (Instr.fields i))

def modeOk (w : Warp) (i : Instr) : Bool :=
  match i with
  | .eret _ _ | .ksave _ _ | .kload _ _ => w.trapMode
  | .srd _ f => spReach (fieldOf f.ctl 0 12).toNat w.trapMode w.role false
  | .swr _ f => spReach (fieldOf f.ctl 0 12).toNat w.trapMode w.role true
  | _ => true

/-- The lines of an issue hold its pass's plane. -/
def Issue.line (q : Issue) (p : Nat) : BitVec 512 :=
  match q.lines.find? (fun x => x.1 == p) with
  | some x => x.2
  | none => 0#512

/-- Whether the major opcode is undefined (R71). -/
def undefinedOp (i : Instr) : Bool :=
  match i with
  | .undefinedMajorOpcode _ => true
  | _ => 255 < i.opNum

/-- The slot whose pass a plane makes: its word, or its repetition under a REP; a repetition of a word that a REP may
not prefix is none (R58, R237). -/
def planeInstr (q : Issue) (p : Nat) : Option Instr :=
  let b := q.line p
  let i := instrAt b (slotNum q.offset)
  match q.rep with
  | some j =>
    match instrAt b (slotNum q.offset - 1) with
    | .rep _ f => i.stepped f j
    | _ => some i
  | none => some i

/-- The instructions that issue once per warp (R73). -/
def oncePerWarp (op : Nat) : Bool :=
  classOfOp op = 5 || classOfOp op = 6 || (0x8B ≤ op && op ≤ 0x8D) || (0x74 ≤ op && op ≤ 0x78) || op = 0x0B

/-- The instructions that issue in one pass for every occupied plane (R73, R237); ERET, REP, KSAVE and KLOAD
among them. -/
def onePass (op : Nat) : Bool :=
  oncePerWarp op || op = 0x03 || op = 0x05 || op = 0x06 || op = 0x08 || op = 0x0E || op = 0x10 || op = 0x13 || op = 0x14

/-- The words that an issue executes, by plane, lowest first: i in the plane p of the first pass; after a word
that issues once no other is executed, but for a REP, whose prefixed word every plane executes (R58, R507). none is a word
that a REP may not prefix. -/
def issueWords (q : Issue) (p : Nat) (i : Instr) : List (Nat × Option Instr) :=
  upTo ((q.todo.map (fun n => (n, if n = p then some i else planeInstr q n))))
where
  /-- The words up to the first that issues once. -/
  upTo : List (Nat × Option Instr) → List (Nat × Option Instr)
    | [] => []
    | x :: xs => x :: (match x.2 with
      | some y => if onePass y.opNum && !isRep y then [] else upTo xs
      | none => upTo xs)

/-- Check 5 of a word in a line: its fields and form, the pair that its slot begins, and a REP with the slot it
prefixes (R38, R42, R58). -/
def encodingOk (w : Warp) (planes : Nat) (line : BitVec 512) (slot : Nat) (i : Option Instr) : Bool :=
  match i with
  | none => false
  | some x =>
    x.wf w.budget planes && (!pairBit line slot || pairOk line slot) &&
    (match x with | .rep _ f => repOk w.budget planes line slot f | _ => true)

/-- The word itself, or under a REP that is about to begin every repetition of the slot it prefixes. -/
def decodedWords (line : BitVec 512) (slot : Nat) (i : Option Instr) : List Instr :=
  match i with
  | none => []
  | some (.rep h f) => .rep h f :: repWords line slot f
  | some x => [x]

/-- Whether f holds of the word of a slot, and under a REP of the word of the slot that it prefixes too (R42, R58). -/
def slotAll (f : Instr → Bool) (line : BitVec 512) (slot : Nat) (i : Option Instr) : Bool :=
  match i with
  | none => true
  | some (.rep h r) => f (.rep h r) && f (instrAt line (slot + 1))
  | some x => f x

/-- The first failing check of R42 over the planes of an issue, before any pass: each check is made in every
plane before the next one, with PLANE-SKEW after check 5 (R42, R210, R507; log 19). A REP is checked with the
slot it prefixes, in every repetition; the registers of a repetition are not checked again (R58, R92). A fault of
the prefixed slot found there names the REP's own slot (log 38). -/
def decodeFault (w : Warp) (planes : Nat) (q : Issue) (p : Nat) (i : Instr) : Option (BitVec 8) :=
  let slot := slotNum q.offset
  let words := issueWords q p i
  let all (f : Instr → Bool) : Bool :=
    words.all (fun x => (decodedWords (q.line x.1) slot x.2).all f)
  let first (f : Instr → Bool) : Bool := words.all (fun x => slotAll f (q.line x.1) slot x.2)
  if q.lines.any (fun x => !parityOk x.2) then some causeLineParity
  else if q.lines.any (fun x => !lineWordOk x.2) then some causeIllegalEncoding
  else if !first (fun x => !undefinedOp x) then some causeIllegalOpcode
  else if !first (fun x => roleMay w.role x.opNum) then some causeRole
  else if !words.all (fun x => encodingOk w planes (q.line x.1) slot x.2) then some causeIllegalEncoding
  else if !planesAgree q.lines slot then some causePlaneSkew
  else if !all (fun x => modeOk w x && privileged w x) then some causePrivilege
  else if q.rep.isNone && !all (fun x => (namedV (Instr.fields x)).all (inWs w.ws)) then some causeWorkingSet
  else if words.any (fun x => match x.2 with
      | some y => readsInvalidLatch w (Instr.fields y)
      | none => false) then some causeWorkingSet
  else none

/-- The first A register of a matrix instruction, which the A-reuse latch may hold (R103). -/
def Instr.aBase : Instr → Option Nat
  | .mma _ f => some f.a.toNat
  | .mmap _ f => some f.a.toNat
  | _ => none

/-- The faults at decode, before any pass: the checks of R42, then R73, then the tags of every plane's word
(R42, R73, R103, R114, R210). -/
def issueFault (w : Warp) (planes : Nat) (q : Issue) (p : Nat) (i : Instr) : Option (BitVec 8) :=
  let words := (issueWords q p i).filterMap (·.2)
  match decodeFault w planes q p i with
  | some c => some c
  | none =>
    if words.any (fun x => oncePerWarp x.opNum) && 1 < w.validEntries.length then some causeDivergent
    else if !words.all (fun x => tagsOk (w.withLatch (Instr.aBase x)) (Instr.fields x)) then some causeFormatTag
    else none

/-- The check that an instruction takes up again when passes of it have still to be made: the lines have been fetched
anew (R41). -/
def lineFault (q : Issue) : Option (BitVec 8) :=
  if q.lines.any (fun x => !parityOk x.2) then some causeLineParity else none

/-! ## After the checks of R42 -/

/-- The registers that this issue's own producer has emptied in an earlier pass (R104). -/
def ownEmpty (w : Warp) (q : Issue) : List Nat :=
  match w.pend.find? (fun b => b.id == q.wb) with
  | some b => b.vregs ++ b.sregs.map (768 + ·)
  | none => []

/-- The lanes, and the scalar, address and predicate words, that a pass would consume poisoned
(R217): none when it consumes no poison. -/
def poisonUse (c : Ctx) (i : Instr) (takes : Bool) : Option FaultInfo :=
  let fs := Instr.fields i
  let lanes := poisonLanes c.view c.e fs c.live
  if !noLanes lanes then some { cause := causePoison, va := 0#80, lanes := lanes }
  else if takes && poisonScalar c.view fs then some (plainFault causePoison)
  else if guardPoisoned c.view c.h c.act then some (plainFault causePoison)
  else none

/-- The added cycles of a read stage: of the distinct vector registers that the source fields name, each
whose bank an earlier one has used (R97). -/
def bankConflicts (i : Instr) : Nat :=
  let cs := ((Instr.fields i).filter (fun f => f.kind.isVSrc && isV f.code)).map (·.code)
  let ds := cs.eraseDups
  ds.length - ((ds.map (· % 4)).eraseDups).length

/-- A pass has read its sources: its added read cycles are counted (R97, R482). -/
def countReads (c : Ctx) (i : Instr) (s : State) : State := countWarp 0x03 (bankConflicts i) c.k s

/-- Whether an instruction writes EVSEL, which clears the events of its own cycle with the counters (R189,
R483). -/
def writesEvsel (i : Instr) : Bool :=
  match i with
  | .swr _ f => (fieldOf f.ctl 0 12).toNat = 0x40
  | _ => false

/-- Whether the first of a pair wrote EVSEL in the cycle of this pass of the second (R38, R483). -/
def Ctx.clearsEvents (c : Ctx) : Bool :=
  match c.q.mate with
  | some m => !m.second && !m.apart && (match m.progress.took.getLast? with
      | some (p, i, l) => p == c.p && writesEvsel i && !noLanes (l &&& ~~~c.view.helper)
      | none => false)
  | none => false

/-- n issues counted; the events of a cycle in which the first of a pair writes EVSEL are cleared with the counters
(R482, R483). -/
def countIssue (c : Ctx) (n : Nat) (s : State) : State :=
  let s1 := countWarp 0x01 n c.k s
  if c.clearsEvents then s1.modWarp c.k (fun w => { w with evcnt := [] }) else s1

/-- Of the faults that fetches of lines meet, each with its line and lanes, the one recorded: a page fault before
PROTECTION and that before POISON-USE, and among equals the line of the lowest lane (R220, R505). That POISON-USE comes
last is the model's choice (DESIGN CHOICE; log 39). -/
def worstFetch (fs : List (BitVec 8 × A80 × Lanes)) : Option (BitVec 8 × A80) :=
  let low (x : BitVec 8 × A80 × Lanes) : Nat := (lowLane x.2.2).getD 96
  let least (xs : List (BitVec 8 × A80 × Lanes)) : Option (BitVec 8 × A80 × Lanes) :=
    xs.foldl (fun b x => match b with
      | none => some x
      | some y => if low x < low y then some x else some y) none
  [causePageFault, causeProtection, causePoison].findSome? (fun c =>
    (least (fs.filter (·.1 == c))).map (fun x => (x.1, x.2.1)))

/-! ## The end of a pass and of an issue -/

/-- The current issue changed. -/
def State.modCur (s : State) (f : Issue → Issue) : State := { s with cur := s.cur.map f }

/-- The capture of a HOLD, from the register as read; a later pass of the instruction captures over it (R46,
R99). -/
def captureHold (c : Ctx) (i : Instr) (w : Warp) : Warp :=
  if c.h.holdSrc == 0#2 then w
  else
    match fieldAt (Instr.fields i) c.h.holdSrc.toNat with
    | some f => { w with hl := tput w.hl c.h.holdEnt.toNat { reg := c.view.vreg f.code, life := 2 } }
    | none => w

/-- The entries that a pass has captured. -/
def captured (c : Ctx) : List Nat := if c.h.holdSrc == 0#2 then [] else [c.h.holdEnt.toNat]

/-- The count of a REP at an entry's offset (R58). -/
def repCount (q : Issue) : Nat :=
  match q.lines with
  | (_, b) :: _ =>
    match instrAt b (slotNum q.offset - 1) with
    | .rep _ f => f.count.toNat + 1
    | _ => 1
  | [] => 1

/-- The offset that follows the issue: the slot after it, or after the second of its pair (R39, R232). -/
def Issue.after (q : Issue) : Word :=
  match q.mate with
  | some m => if m.second then following m.offset else following q.offset
  | none => following q.offset

/-- The trap split after an instruction: it advances, or goes to the target its lanes agree on
(R252, R263). -/
def Warp.advanceTrap (w : Warp) (q : Issue) : Warp :=
  { w with trapSplit := w.trapSplit.map (fun t =>
      match q.rep with
      | some j =>
        if j + 1 < repCount q then { t with repJ := j + 1 }
        else { t with offset := following q.offset, inRep := false, repJ := 0 }
      | none =>
        match q.moves with
        | (_, o) :: _ => { t with offset := o, wph := none }
        | [] => { t with offset := q.after, wph := none }) }

/-- The yields that an issue of entry e of warp k, or of its trap split, ends for warp j: those of the other splits of
its scheduler, trap splits among them (R259). -/
def Warp.unyield (w : Warp) (j k e : Nat) (trap : Bool) : Warp :=
  if schedOf j = schedOf k && coreOf j = coreOf k then
    { w with
      splits := w.splits.map (fun (y : Nat × Split) =>
        if j = k && y.1 = e && !trap then y else (y.1, { y.2 with yielded := false }))
      trapSplit := if j = k && trap then w.trapSplit else w.trapSplit.map (fun t => { t with yielded := false }) }
  else w

/-- A split of a warp, or its trap split, has issued: yields end, its ready age starts anew, and the warp is no longer
known to wait (R94, R246, R259). -/
def State.markIssue (s : State) (k e : Nat) (trap : Bool) : State :=
  let s1 := { s with
    warps := s.warps.map (fun (x : Nat × Warp) => (x.1, x.2.unyield x.1 k e trap))
    waited := []
    readyAt := tdel s.readyAt (8 * k + e) }
  s1.modWarp k (fun w =>
    let w1 := { w with lastIssued := s.turn, waiting := false }
    if trap then { w1 with trapSplit := w1.trapSplit.map (fun t => { t with lastIssue := s.turn, aged := false }) }
    else if (w1.split e).valid then w1.modSplit e (fun x => { x with lastIssue := s.turn, aged := false })
    else w1)

/-- The key under which the instruction of a split stands among the re-issues: its entry, 8 in trap mode. -/
def Warp.reissueKey (w : Warp) (e : Nat) : Nat := if w.trapMode then 8 else e

/-- A split moved past an instruction that held it, which counts as issued now: to the next repetition of a REP when
more are to come (R28, R263, R379). -/
def advanceHeld (k e : Nat) (more : Bool) (s : State) : State :=
  let w := (s.warp k).ageLatches []
  let s0 := (s.setWarp k { w with reissues := tdel w.reissues (w.reissueKey e) }).markIssue k e w.trapMode
  let s1 := countWarp 0x01 1 k s0
  if w.trapMode then
    s1.modWarp k (fun w => { w with trapSplit := w.trapSplit.map (fun t =>
      if t.inRep then
        if more then { t with repJ := t.repJ + 1 }
        else { t with offset := following (following t.offset), inRep := false, repJ := 0 }
      else { t with offset := following t.offset, wph := none }) })
  else
    settle k (s1.modWarp k (fun w => w.modSplit e (fun x =>
      if x.inRep then
        if more then { x with repJ := x.repJ + 1 }
        else { x with offset := following (following x.offset), inRep := false, repJ := 0 }
      else { x with offset := following x.offset, wph := none })))

/-- Lanes moved to the planes that PLANE gave them (R260). -/
def Warp.shiftPlanes (w : Warp) (ms : List (Lanes × Nat)) : Warp :=
  ms.foldl (fun w m => { w with
    plane0 := if m.2 % 2 = 1 then w.plane0 ||| m.1 else w.plane0 &&& ~~~m.1
    plane1 := if m.2 / 2 % 2 = 1 then w.plane1 ||| m.1 else w.plane1 &&& ~~~m.1 }) w

/-- The last pass has completed: the lanes move (R238, R263). -/
def finishIssue (q : Issue) (s : State) : State :=
  let k := q.warp
  let w := s.warp k
  let s0 := s.modCur (fun q => { q with status := .finished })
  if w.trapMode then s0.setWarp k (w.advanceTrap q)
  else
    match q.rep with
    | some j =>
      if j + 1 < repCount q then s0.setWarp k (w.modSplit q.entry (fun x => { x with repJ := j + 1 }))
      else settle k (s0.setWarp k (w.modSplit q.entry (fun x =>
        { x with offset := following q.offset, inRep := false, repJ := 0 })))
    | none =>
      let (w1, ov) := (w.shiftPlanes q.shifts).moveLanes q.entry q.moves q.after q.point
      retireIfDone k (settle k (countWarp 0x06 (if ov then 1 else 0) k (s0.setWarp k w1.freeDead)))

/-- The progress of the instruction whose passes an issue makes. -/
def Issue.progress (q : Issue) : Progress :=
  { took := q.took, moves := q.moves, shifts := q.shifts, point := q.point, fresh := q.fresh, counted := q.counted,
    pre := q.pre, wb := some q.wb }

/-- Where an issue stands. -/
def Issue.stand (q : Issue) : Reissue :=
  { offset := q.offset, planes := planeMask q.todo, low := q.low, checked := q.checked, pinned := q.pinned,
    mate := q.mate, progress := q.progress }

/-- The other instruction of a pair comes to pass; its sources are read as they stand then (R39, R141). -/
def Issue.swap (q : Issue) (m : Mate) (apart : Bool) : Issue :=
  { q with
    offset := m.offset, todo := m.todo, took := m.progress.took, moves := m.progress.moves,
    shifts := m.progress.shifts, point := m.progress.point, fresh := m.progress.fresh,
    counted := m.progress.counted, pre := m.progress.pre, wb := m.progress.wb.getD q.wb,
    mate := some { offset := q.offset, second := !m.second, todo := q.todo, apart := apart, progress := q.progress } }

/-- The instruction that goes on after a pass: in a pair the two take turns, plane by plane, until one has no pass
left; a second instruction that waits lets the first go on (R39). -/
def Issue.turn (q : Issue) : Issue :=
  match q.mate with
  | none => q
  | some m =>
    if m.todo.isEmpty then q
    else if q.todo.isEmpty || !m.apart then q.swap m m.apart
    else q

/-- An instruction that waits: the second of a pair lets the first pass its other planes meanwhile (R28, R39). -/
def Issue.waits (q : Issue) : Issue :=
  match q.mate with
  | some m => if !m.second && !m.todo.isEmpty then { q.swap m true with status := .running } else { q with status := .waiting }
  | none => { q with status := .waiting }

/-- The pass to come waits. -/
def waitPass (s : State) : State := s.modCur Issue.waits

/-- Whether the passes of an instruction all read its sources as they stood before the first: the vector and memory
instructions; a scalar instruction executes anew in each pass (R141, R179). -/
def readsOnce (i : Instr) : Bool := 0x40 ≤ i.opNum && i.opNum < 0xA0

/-- The sources that the passes to come read, once a pass has been made, in whole or in some lanes (R141, R286). -/
def Ctx.kept (c : Ctx) (i : Instr) : Option Sources :=
  if readsOnce i then some (c.q.pre.getD c.view.sources) else none

/-- Some lanes of a pass have had their effect, the others wait: they read the same sources when they go on, and the
warp's other splits issue after them (R28, R286, R349, R350). -/
def partPass (c : Ctx) (i : Instr) (m : Lanes) (s : State) : State :=
  waitPass (s.modCur (fun q => { q with
    low := some (c.p, m), checked := true, issued := true, pinned := true, pre := c.kept i }))

/-- A pass has completed: the capture, the count of the issue, the latch lives after the last pass, and the pass that
comes next or the end of the instruction (R39, R99, R237). -/
def completePass (c : Ctx) (i : Instr) (all : Bool) (s : State) : State :=
  let rest := if all then [] else c.q.todo.tail
  let fresh := unionNat c.q.fresh (captured c)
  let ages := rest.isEmpty && !c.q.counted
  let s1 := s.modWarp c.k (fun w =>
    let w1 := (captureHold c i w).forgetEntry c.e
    if ages then w1.ageLatches fresh else w1)
  let low := match c.q.low with
    | some r => if r.1 == c.p || all then none else some r
    | none => none
  let s2 := if writesEvsel i && !noLanes c.live then s1 else countIssue c 1 s1
  let s3 := s2.modCur (fun q => ({ q with
    todo := rest, took := q.took ++ [(c.p, i, c.part)], fresh := fresh, counted := q.counted || ages,
    checked := true, issued := true, status := .running, pre := c.kept i, low := low,
    pinned := q.pinned && low.isSome } : Issue).turn)
  match s3.cur with
  | some q => if q.todo.isEmpty then finishIssue q s3 else s3
  | none => s3
where
  /-- A list with the members of another that it lacks added. -/
  unionNat (a b : List Nat) : List Nat := a ++ b.filter (fun x => !a.contains x)

/-- The repetition that follows in a REP (R263). -/
def nextRep (q : Issue) : Option Nat :=
  match q.rep with
  | some j => if j + 1 < repCount q then some (j + 1) else none
  | none => none

/-- A pass raises a fault: the lanes of completed passes move, and the trap is taken; decoded says that the decode
checks were made, so that the pass counts as an issue (R100, R208, R237, R240, R482). -/
def trapAt (c : Ctx) (decoded : Bool) (f : FaultInfo) (s0 : State) : State :=
  let s := if decoded && !c.q.lines.isEmpty then countIssue c 1 s0 else s0
  let r := c.q.stand
  let pc := trapPcOf (c.q.rep.getD 0) r.pmask c.q.offset
  let w := s.warp c.k
  let (w1, ov) := w.readyTrap c.e r decoded (nextRep c.q)
  let s1 := countWarp 0x06 (if ov then 1 else 0) c.k (s.setWarp c.k (w1.shiftPlanes c.q.shifts))
  let s2 := raiseFault c.k c.e pc f s1
  let s3 := if w.trapMode then s2 else settle c.k s2
  s3.modCur (fun q => { q with status := .trapped })

/-- A fault of an instruction that has passed its decode checks. -/
def trapPass (c : Ctx) (f : FaultInfo) (s : State) : State := trapAt c true f s

/-- A translation fault: PAGE-FAULT outside trap mode parks the warp while firmware asks for a
mapping; any other traps (R220). A fault met before the lines are there comes before the decode checks. -/
def pageFaultPass (c : Ctx) (f : FaultInfo) (s : State) : State :=
  let stand := c.q.stand
  let decoded := c.q.checked || !c.q.lines.isEmpty
  if f.cause == causePageFault && !(s.warp c.k).trapMode then
    let r : FaultRec :=
      { entry := c.e, cause := f.cause, pc := trapPcOf (c.q.rep.getD 0) stand.pmask c.q.offset,
        more := (nextRep c.q).isSome, va := f.va,
        lanes := f.lanes, named := if f.named.isEmpty then [(f.va, 0)] else f.named,
        decoded := decoded, stand := stand }
    (s.modWarp c.k (fun w => { w with walkFails := [], park := .pageFault r })).modCur
      (fun q => { q with status := .trapped })
  else trapAt c decoded f s

/-- The lanes that take part in a plane's pass of a word, as things stand. -/
def partNow (w view : Warp) (q : Issue) (h : Hdr) (p : Nat) : Lanes :=
  let a := activeLanes w q p
  (a ||| helpersOf w a) &&& predLanes view h

/-- The context of the pass to come: a vector instruction's later passes read the registers as they stood before the
first, under the masks of now, and a matrix instruction its A-reuse latch (R103, R140, R141, R236). -/
def passCtx (s : State) (q : Issue) (i : Instr) (kind : PassKind) : Ctx :=
  let w := s.warp q.warp
  let p := q.todo.headD 0
  let h := Instr.hdr i
  let view := (match q.pre with
    | some x => if readsOnce i then w.withSources x else w
    | none => w).withLatch (Instr.aBase i)
  let act := match kind with
    | .once => q.todo.foldl (fun m p => m ||| activeLanes w q p) 0#96
    | _ => activeLanes w q p
  let part := (act ||| helpersOf w act) &&& predLanes view h
  let later (n : Nat) : Bool := match planeInstr q n with
    | some x => !noLanes (partNow w view q (Instr.hdr x) n)
    | none => false
  { k := q.warp, e := q.entry, p := p, q := q, h := h, view := view, act := act, part := part,
    live := part &&& w.live,
    any := !noLanes part || q.took.any (fun t => !noLanes t.2.2) || (kind != .once && q.todo.tail.any later) }

/-- Whether a completed pass of the instruction with an opcode had a live lane that took part. -/
def Issue.acted (q : Issue) (w : Warp) (op : Nat) : Bool :=
  q.took.any (fun t => t.2.1.opNum == op && !noLanes (t.2.2 &&& ~~~w.helper))

/-- What an instruction's own check answers that comes before its other waits. -/
inductive PreCheck where
  | pass
  | wait
  | fault (f : FaultInfo)

/-- Whether an instruction makes its own check though no lane takes part: FENCE is a delivery point then too (R135, R354;
log 19). -/
def deliversIdle : Instr → Bool
  | .fence _ _ => true
  | _ => false

/-- One pass of an instruction: the checks in order, its own check that comes before any other wait, then its effect,
then the bookkeeping. EMPTY-REGISTER changes no state, so that the instruction is not counted by it (R106). -/
def runChecked (i : Instr) (kind : PassKind) (own : Ctx → State → PreCheck)
    (eff : Ctx → State → PassResult) (s : State) : Host.Outcome State Fault Refusal :=
  match s.cur with
  | none => .refused .noIssue
  | some q =>
    let c := passCtx s q i kind
    let w := s.warp q.warp
    let planes := (s.warpLaunch q.warp).info.planeCount
    match (if q.checked then lineFault q else issueFault w planes q c.p i) with
    | some cause => .next (trapAt c (cause == causeDivergent) (plainFault cause) s)
    | none =>
      let all := kind == .once
      let takes := !noLanes c.live
      let idle := (kind == .scal && !takes) || (kind == .first && (!takes || q.acted w i.opNum))
      if idle then
        match (if deliversIdle i && !q.acted w i.opNum then own c s else .pass) with
        | .fault f => .next (trapPass c f s)
        | .wait => .next (waitPass s)
        | .pass => .next (completePass c i all s)
      else
        match own c s with
        | .fault f => .next (trapPass c f s)
        | .wait => .next (waitPass s)
        | .pass =>
          match emptyCheck w c.h (Instr.fields i) (ownEmpty w q) with
          | .trap => .next (trapAt c false (plainFault causeEmptyRegister) s)
          | .wait => .next (waitPass s)
          | .go =>
            let s0 := resolveReads q.warp c.h (Instr.fields i) (w.latchedA (Instr.aBase i)) s
            match poisonUse c i takes with
            | some f => .next (trapPass c f (countReads c i s0))
            | none =>
              match eff c s0 with
              | .ok t => .next (completePass c i all (countReads c i t))
              | .moved t => .next (t.modCur (fun q => { q with todo := [], status := .finished }))
              | .held t => .next (t.modCur (fun q => { q with status := .held }))
              | .wait t => .next (waitPass t)
              | .part t m => .next (partPass c i m t)
              | .fault t f => .next (trapPass c f (countReads c i t))
              | .pageFault t f => .next (pageFaultPass c f (countReads c i t))
              | .double t => .next ((doubleFault c.k t).modCur (fun q => { q with status := .trapped }))

/-- A pass of an instruction without checks of its own before its waits. -/
def runPass (i : Instr) (kind : PassKind) (eff : Ctx → State → PassResult) (s : State) :
    Host.Outcome State Fault Refusal := runChecked i kind (fun _ _ => .pass) eff s

/-- A vector destination of a pass written: its tag is written in every pass once a lane takes part in some pass
(R112). -/
def Ctx.putV (c : Ctx) (d : Nat) (tag : BitVec 4) (mask : Lanes) (g : Nat → Word) (poison : Lanes) (w : Warp) : Warp :=
  if noLanes mask then (if c.any then w.putTag d tag else w) else w.putV d tag mask g poison

end Sys2Proof.Machine
end

