-- ==== Sys2Proof/Machine/Scalar.lean ====
section
/-!
DEFINITION. Machine/Scalar.lean: the scalar, predicate and address instructions of class 001 but the
memory accesses (R179 to R191).
-/

namespace Sys2Proof.Machine

open Sys2Proof

/-! ## Shared operations -/

/-- The effect of a scalar instruction that computes a word from the scalars A, B and C (R182). -/
def scalarEffect (f : FV) (g : Word → Word → Word → Word) (c : Ctx) (s : State) : PassResult :=
  let a := c.view.sval c.e f.a.toNat
  let b := c.view.sval c.e f.b.toNat
  let x := c.view.sval c.e f.c.toNat
  .ok (s.modWarp c.k (fun w => w.setS c.e f.d.toNat (g a b x)))

/-- A scalar read signed under FMT 0 and unsigned under FMT 1 (R182). -/
def scalarInt (h : Hdr) (x : Word) : Int := if h.fmt == 0#4 then x.toInt else x.toNat

/-- Bits [63:32] of the exact product (R182). -/
def mulHigh (h : Hdr) (a b : Word) : Word :=
  BitVec.ofInt 32 (scalarInt h a * scalarInt h b / 2 ^ 32)

/-- A shift amount: b[7:0], unsigned (R182). -/
def shiftAmount (b : Word) : Nat := b.toNat % 256

/-- The number of one bits (R182). -/
def popCount (x : Nat) : Nat → Nat
  | 0 => 0
  | n + 1 => popCount x n + (if x.testBit n then 1 else 0)

/-- The number of zero bits above the highest one bit, in w bits (R182). -/
def leadingZeros (w x : Nat) : Nat := w - bitLen (x % 2 ^ w)

/-- A one or zero word of a condition. -/
def boolWord (b : Bool) : Word := if b then 1#32 else 0#32

/-! ## Scalar arithmetic and logic (R182) -/

def execSmov (h : Hdr) (f : FV) (s : State) : Host.Outcome State Fault Refusal :=
  runPass (.smov h f) .scal (scalarEffect f (fun a _ _ => a)) s

def execSmovi (h : Hdr) (f : FI) (s : State) : Host.Outcome State Fault Refusal :=
  runPass (.smovi h f) .scal (fun c s => .ok (s.modWarp c.k (fun w => w.setS c.e f.d.toNat f.imm))) s

def execSadd (h : Hdr) (f : FV) (s : State) : Host.Outcome State Fault Refusal :=
  runPass (.sadd h f) .scal (scalarEffect f (fun a b _ => a + b)) s

def execSsub (h : Hdr) (f : FV) (s : State) : Host.Outcome State Fault Refusal :=
  runPass (.ssub h f) .scal (scalarEffect f (fun a b _ => a - b)) s

def execSmul (h : Hdr) (f : FV) (s : State) : Host.Outcome State Fault Refusal :=
  runPass (.smul h f) .scal (scalarEffect f (fun a b _ => a * b)) s

def execSmulh (h : Hdr) (f : FV) (s : State) : Host.Outcome State Fault Refusal :=
  runPass (.smulh h f) .scal (scalarEffect f (fun a b _ => mulHigh h a b)) s

def execSand (h : Hdr) (f : FV) (s : State) : Host.Outcome State Fault Refusal :=
  runPass (.sand h f) .scal (scalarEffect f (fun a b _ => a &&& b)) s

def execSor (h : Hdr) (f : FV) (s : State) : Host.Outcome State Fault Refusal :=
  runPass (.sor h f) .scal (scalarEffect f (fun a b _ => a ||| b)) s

def execSxor (h : Hdr) (f : FV) (s : State) : Host.Outcome State Fault Refusal :=
  runPass (.sxor h f) .scal (scalarEffect f (fun a b _ => a ^^^ b)) s

def execSshl (h : Hdr) (f : FV) (s : State) : Host.Outcome State Fault Refusal :=
  runPass (.sshl h f) .scal (scalarEffect f (fun a b _ => a <<< shiftAmount b)) s

def execSshr (h : Hdr) (f : FV) (s : State) : Host.Outcome State Fault Refusal :=
  runPass (.sshr h f) .scal (scalarEffect f (fun a b _ => a >>> shiftAmount b)) s

def execSsar (h : Hdr) (f : FV) (s : State) : Host.Outcome State Fault Refusal :=
  runPass (.ssar h f) .scal (scalarEffect f (fun a b _ => a.sshiftRight (shiftAmount b))) s

def execSmin (h : Hdr) (f : FV) (s : State) : Host.Outcome State Fault Refusal :=
  runPass (.smin h f) .scal
    (scalarEffect f (fun a b _ => if scalarInt h a ≤ scalarInt h b then a else b)) s

def execSmax (h : Hdr) (f : FV) (s : State) : Host.Outcome State Fault Refusal :=
  runPass (.smax h f) .scal
    (scalarEffect f (fun a b _ => if scalarInt h a ≤ scalarInt h b then b else a)) s

def execScmp (h : Hdr) (f : FV) (s : State) : Host.Outcome State Fault Refusal :=
  runPass (.scmp h f) .scal
    (scalarEffect f (fun a b _ => boolWord (icmpVal f.fn.toNat (scalarInt h a) (scalarInt h b)))) s

def execSsel (h : Hdr) (f : FV) (s : State) : Host.Outcome State Fault Refusal :=
  runPass (.ssel h f) .scal (scalarEffect f (fun a b x => if x != 0#32 then a else b)) s

def execSpopc (h : Hdr) (f : FV) (s : State) : Host.Outcome State Fault Refusal :=
  runPass (.spopc h f) .scal (scalarEffect f (fun a _ _ => BitVec.ofNat 32 (popCount a.toNat 32))) s

def execSclz (h : Hdr) (f : FV) (s : State) : Host.Outcome State Fault Refusal :=
  runPass (.sclz h f) .scal (scalarEffect f (fun a _ _ => BitVec.ofNat 32 (leadingZeros 32 a.toNat))) s

/-! ## Predicates (R183, R184) -/

/-- The bits of a predicate field; code 643 reads as all zeros (R183). -/
def predField (w : Warp) (c : Nat) : Lanes := if c ≤ 14 then w.pbits c else 0#96

/-- A predicate destination written in the lanes that take part; code 643 discards (R183). -/
def Warp.putP (w : Warp) (c : Nat) (mask bits : Lanes) : Warp :=
  if c ≤ 14 then w.setP c mask bits else w

/-- The bit of a three-input table at a, b, c (R76). -/
def table3 (t : BitVec 8) (a b c : Bool) : Bool :=
  t.getLsbD ((if a then 1 else 0) + (if b then 2 else 0) + (if c then 4 else 0))

def execPlog (h : Hdr) (f : FV) (s : State) : Host.Outcome State Fault Refusal :=
  runPass (.plog h f) .scal (fun c s =>
    let a := predField c.view f.a.toNat
    let b := predField c.view f.b.toNat
    let x := predField c.view f.c.toNat
    .ok (s.modWarp c.k (fun w => w.putP f.d.toNat c.part
      (mkLanes (fun l => table3 f.fn (a.getLsbD l) (b.getLsbD l) (x.getLsbD l)))))) s

def execPmov (h : Hdr) (f : FV) (s : State) : Host.Outcome State Fault Refusal :=
  runPass (.pmov h f) .scal (fun c s =>
    let a := f.a.toNat
    let d := f.d.toNat
    match f.fn.toNat with
    | 1 => .ok (s.modWarp c.k (fun w => w.setSs c.e d (wordsOf 3 (predField c.view a).toNat)))
    | 2 => .ok (s.modWarp c.k (fun w => w.putP d c.part (BitVec.ofNat 96 (c.view.svals c.e a 3))))
    | 3 =>
      let v := if c.view.sval c.e a != 0#32 then ~~~0#96 else 0#96
      .ok (s.modWarp c.k (fun w => w.putP d c.part v))
    | _ => .ok (s.modWarp c.k (fun w => w.putP d c.part (predField c.view a)))) s

/-! ## Address registers (R185, R186) -/

/-- An index extended to 80 bits: signed under FMT 0, unsigned under FMT 1 (R186). -/
def extIndex (h : Hdr) (x : Word) : A80 := if h.fmt == 0#4 then x.signExtend 80 else x.setWidth 80

def execAlea (h : Hdr) (f : FM) (s : State) : Host.Outcome State Fault Refusal :=
  runPass (.alea h f) .scal (fun c s =>
    let v := c.view.aval f.a.toNat + (extIndex h (c.view.sval c.e f.x.toNat) <<< f.ish.toNat)
      + f.offset.signExtend 80
    .ok (s.modWarp c.k (fun w => w.setA f.d.toNat v))) s

def execAmov (h : Hdr) (f : FV) (s : State) : Host.Outcome State Fault Refusal :=
  runPass (.amov h f) .scal (fun c s =>
    match f.fn.toNat with
    | 1 => .ok (s.modWarp c.k (fun w => w.setA f.d.toNat (BitVec.ofNat 80 (c.view.svals c.e f.a.toNat 3))))
    | 2 => .ok (s.modWarp c.k (fun w => w.setSs c.e f.d.toNat (wordsOf 3 (c.view.aval f.a.toNat).toNat)))
    | _ => .ok (s.modWarp c.k (fun w => w.setA f.d.toNat (c.view.aval f.a.toNat)))) s

def execAmovi (h : Hdr) (f : FI) (s : State) : Host.Outcome State Fault Refusal :=
  runPass (.amovi h f) .scal (fun c s =>
    .ok (s.modWarp c.k (fun w => w.setA f.d.toNat (f.imm.signExtend 80)))) s

def execAhi (h : Hdr) (f : FI) (s : State) : Host.Outcome State Fault Refusal :=
  runPass (.ahi h f) .scal (fun c s =>
    let a := c.view.aval f.a.toNat
    let v : A80 := if f.fn == 1#8 then (fieldOf f.imm 0 16) ++ (fieldOf a 0 64)
      else (fieldOf a 64 16) ++ (f.imm ++ (fieldOf a 0 32))
    .ok (s.modWarp c.k (fun w => w.setA f.d.toNat v))) s

/-! ## Special registers (R187 to R191) -/

/-- WARPID: scheduler, slot and WARPID in the team (R191). -/
def warpIdWord (k : Nat) (w : Warp) : Nat := schedOf k * 2 ^ 12 + slotOf k * 2 ^ 6 + w.warpid % 64

/-- TEAMID: die, core and team number (R191). -/
def teamIdWord (k : Nat) (t : Team) : Nat :=
  2 ^ 24 * dieOf (coreOf k) + 2 ^ 16 * coreNum (coreOf k) + t.number % 2 ^ 16

/-- PLANECFG: occupied planes, plane of the pass, log2 of the stride, plane count code (R191). -/
def planeCfgWord (c : Ctx) (l : Launch) : Nat :=
  2 ^ 20 * c.q.occupied.toNat + 2 ^ 16 * c.p + l.info.pstride * 4 + l.info.planes.toNat

/-- BATCH: DONE and NEXT (R191). -/
def batchWord (w : Warp) : Nat := 2 ^ 16 * w.batchDone.toNat + w.batchNext.toNat

/-- The value of a special register, its words joined lowest first (R190). -/
def spRead (c : Ctx) (s : State) (n : Nat) : Nat :=
  let w := c.view
  match n with
  | 0x000 => (lowLane c.live).getD 0
  | 0x001 => warpIdWord c.k w
  | 0x002 => teamIdWord c.k (s.team w.team)
  | 0x003 => (if w.trapMode then 4 else 0) + w.role.toNat
  | 0x004 => planeCfgWord c (s.warpLaunch c.k)
  | 0x010 => w.fxa.toNat
  | 0x020 => (s.core (coreOf c.k)).cycle.toNat
  | 0x030 => batchWord w
  | 0x040 => w.evsel.toNat
  | 0x100 => w.trapCause.toNat
  | 0x101 => w.trapPc.toNat
  | 0x102 => w.trapVa.toNat
  | 0x103 => w.trapLanes.toNat
  | _ =>
    if 0x041 ≤ n && n ≤ 0x044 then ((tget w.evcnt (n - 0x041)).getD 0#32).toNat
    else if 0x110 ≤ n && n ≤ 0x117 then ((tget w.kregs (n - 0x110)).getD 0#32).toNat
    else 0

/-- The bits of TRAPPC that software writes (R191). -/
def trapPcMask : BitVec 64 := 0x000000FFFFFFFFFF#64

/-- A special register written (R132, R189, R190). Writing EVSEL clears EVCNT0 to EVCNT3. -/
def spWrite (w : Warp) (n v : Nat) : Warp :=
  match n with
  | 0x010 => w.writeFxa (BitVec.ofNat 32 v)
  | 0x040 => { w with evsel := BitVec.ofNat 32 v, evcnt := [] }
  | 0x101 => { w with trapPc := BitVec.ofNat 64 v &&& trapPcMask }
  | 0x103 => { w with trapLanes := BitVec.ofNat 96 v }
  | _ => if 0x110 ≤ n && n ≤ 0x117 then { w with kregs := tput w.kregs (n - 0x110) (BitVec.ofNat 32 v) } else w

/-- SRD of FXA waits for the float results of the warp, and SRD of EVCNT0 to EVCNT3 for everything it
has issued that can still count an event: its producers, and the copy commands whose elements may saturate (R171, R402,
R482, R484). -/
def srdWaits (s : State) (k n : Nat) : Bool :=
  let w := s.warp k
  (n = 0x010 && w.floatsOut) ||
    (0x041 ≤ n && n ≤ 0x044 && (!w.pend.isEmpty || (s.core (coreOf k)).copies.any (·.warp == k)))

def execSrd (h : Hdr) (f : FX) (s : State) : Host.Outcome State Fault Refusal :=
  runPass (.srd h f) .scal (fun c s =>
    let n := (fieldOf f.ctl 0 12).toNat
    if srdWaits s c.k n then .wait s
    else .ok (s.modWarp c.k (fun w => w.setSs c.e f.e0.toNat (wordsOf ((spWords n).getD 1) (spRead c s n))))) s

/-- SWR of EVSEL counts its own issue before it clears the counters, and not after (R189, R483). -/
def swrCount (c : Ctx) (n : Nat) (s : State) : State := if n = 0x40 then countIssue c 1 s else s

def execSwr (h : Hdr) (f : FX) (s : State) : Host.Outcome State Fault Refusal :=
  runPass (.swr h f) .scal (fun c s =>
    let n := (fieldOf f.ctl 0 12).toNat
    .ok ((swrCount c n s).modWarp c.k (fun w => spWrite w n (c.view.svals c.e f.e0.toNat ((spWords n).getD 1))))) s

end Sys2Proof.Machine
end

