-- ==== Sys2Proof/Machine/VectorInt.lean ====
section
/-!
DEFINITION. Machine/VectorInt.lean: the vector integer instructions, moves and tags, bitwise, shift and
bit-field instructions, comparison and select (R137 to R151).
-/

namespace Sys2Proof.Machine

open Sys2Proof

/-! ## Shared operations -/

/-- Field A, B or C of format V as a pass reads it. -/
def Ctx.srcOf (c : Ctx) (r : RCode) : Src := c.view.src c.e r.toNat

/-- A vector destination written under a tag in the lanes that take part (R112, R140). -/
def putVec (c : Ctx) (d : RCode) (tag : BitVec 4) (g : Nat → Word) (s : State) : PassResult :=
  .ok (s.modWarp c.k (c.putV d.toNat tag c.part g 0#96))

/-- A predicate destination written in the lanes that take part (R140). -/
def putPred (c : Ctx) (d : RCode) (g : Nat → Bool) (s : State) : PassResult :=
  .ok (s.modWarp c.k (fun w => w.setP d.toNat c.part (mkLanes g)))

/-- The modifiers A, then N, of an integer source, exact (R143). -/
def intMods (a n : BitVec 1) (x : Int) : Int :=
  let y : Int := if a == 1#1 then (x.natAbs : Int) else x
  if n == 1#1 then -y else y

/-- SCALE, its rounding, CLAMP 3 and the wrap to the element (R143). -/
def intFinish (h : Hdr) (f : FV) (x : Int) : Nat :=
  let sc := f.scale.toInt
  let y := if sc ≥ 0 then x * 2 ^ sc.toNat
    else (roundInt (x < 0) x.natAbs sc f.rnd.toNat).1
  let z := if f.clamp == 3#2 then satInt y (intLo h.fmt) (intHi h.fmt) else y
  bitsOfInt (fmtWidth h.fmt) z

/-- Element e of lane l of a source, read as an integer of FMT. -/
def intElem (h : Hdr) (x : Src) (l e : Nat) : Int := intOf h.fmt (elemBits (fmtWidth h.fmt) (x.word l) e)

/-- A word from its elements, element by element of FMT. -/
def intWord (h : Hdr) (g : Nat → Nat) : Word := mapElems (fmtWidth h.fmt) (fmtElems h.fmt) g

/-- Integer arithmetic on the modified sources (R143). -/
def intEffect (h : Hdr) (f : FV) (op : Int → Int → Int → Int) (c : Ctx) (s : State) : PassResult :=
  let a := c.srcOf f.a
  let b := c.srcOf f.b
  let x := c.srcOf f.c
  putVec c f.d h.fmt (fun l => intWord h (fun e =>
    intFinish h f (op (intMods f.aa f.na (intElem h a l e)) (intMods f.ab f.nb (intElem h b l e))
      (intMods f.ac f.nc (intElem h x l e))))) s

/-- An operation on the bits of the elements of A and B, element by element (R144, R147, R149). -/
def elemEffect (h : Hdr) (f : FV) (op : Nat → Nat → Nat → Nat) (c : Ctx) (s : State) : PassResult :=
  let w := fmtWidth h.fmt
  let a := c.srcOf f.a
  let b := c.srcOf f.b
  putVec c f.d h.fmt (fun l => intWord h (fun e =>
    op w (elemBits w (a.word l) e) (elemBits w (b.word l) e))) s

/-- An operation on whole words under a tag (R146, R148). -/
def wordEffect (tag : BitVec 4) (f : FV) (op : Word → Word → Word → Word) (c : Ctx) (s : State) :
    PassResult :=
  let a := c.srcOf f.a
  let b := c.srcOf f.b
  let x := c.srcOf f.c
  putVec c f.d tag (fun l => op (a.word l) (b.word l) (x.word l)) s

/-! ## Moves and tags (R145) -/

def execVmov (h : Hdr) (f : FV) (s : State) : Host.Outcome State Fault Refusal :=
  runPass (.vmov h f) .vec (fun c s =>
    let a := c.srcOf f.a
    putVec c f.d (if a.free then h.fmt else a.tag) a.word s) s

def execVmovi (h : Hdr) (f : FI) (s : State) : Host.Outcome State Fault Refusal :=
  runPass (.vmovi h f) .vec (fun c s => putVec c f.d h.fmt (fun _ => f.imm) s) s

def execVtag (h : Hdr) (f : FV) (s : State) : Host.Outcome State Fault Refusal :=
  runPass (.vtag h f) .vec (fun c s => putVec c f.d h.fmt (c.srcOf f.a).word s) s

/-! ## Arithmetic (R143, R144) -/

def execVadd (h : Hdr) (f : FV) (s : State) : Host.Outcome State Fault Refusal :=
  runPass (.vadd h f) .vec (intEffect h f (fun a b _ => a + b)) s

def execVsub (h : Hdr) (f : FV) (s : State) : Host.Outcome State Fault Refusal :=
  runPass (.vsub h f) .vec (intEffect h f (fun a b _ => a - b)) s

def execVmul (h : Hdr) (f : FV) (s : State) : Host.Outcome State Fault Refusal :=
  runPass (.vmul h f) .vec (intEffect h f (fun a b _ => a * b)) s

def execVmulh (h : Hdr) (f : FV) (s : State) : Host.Outcome State Fault Refusal :=
  runPass (.vmulh h f) .vec
    (elemEffect h f (fun w a b => bitsOfInt w (intOf h.fmt a * intOf h.fmt b / 2 ^ w))) s

def execVmad (h : Hdr) (f : FV) (s : State) : Host.Outcome State Fault Refusal :=
  runPass (.vmad h f) .vec (intEffect h f (fun a b x => a * b + x)) s

def execVabsd (h : Hdr) (f : FV) (s : State) : Host.Outcome State Fault Refusal :=
  runPass (.vabsd h f) .vec (intEffect h f (fun a b _ => ((a - b).natAbs : Int))) s

def execVmin (h : Hdr) (f : FV) (s : State) : Host.Outcome State Fault Refusal :=
  runPass (.vmin h f) .vec (intEffect h f (fun a b _ => if a ≤ b then a else b)) s

def execVmax (h : Hdr) (f : FV) (s : State) : Host.Outcome State Fault Refusal :=
  runPass (.vmax h f) .vec (intEffect h f (fun a b _ => if a ≤ b then b else a)) s

/-! ## Bitwise, bit-count and bit-field instructions (R146 to R148) -/

def execVand (h : Hdr) (f : FV) (s : State) : Host.Outcome State Fault Refusal :=
  runPass (.vand h f) .vec (wordEffect 14#4 f (fun a b _ => a &&& b)) s

def execVor (h : Hdr) (f : FV) (s : State) : Host.Outcome State Fault Refusal :=
  runPass (.vor h f) .vec (wordEffect 14#4 f (fun a b _ => a ||| b)) s

def execVxor (h : Hdr) (f : FV) (s : State) : Host.Outcome State Fault Refusal :=
  runPass (.vxor h f) .vec (wordEffect 14#4 f (fun a b _ => a ^^^ b)) s

def execVbool (h : Hdr) (f : FV) (s : State) : Host.Outcome State Fault Refusal :=
  runPass (.vbool h f) .vec (wordEffect 14#4 f (fun a b x =>
    BitVec.ofNat 32 (bitsNat (fun i => table3 f.fn (a.getLsbD i) (b.getLsbD i) (x.getLsbD i)) 32))) s

def execVpopc (h : Hdr) (f : FV) (s : State) : Host.Outcome State Fault Refusal :=
  runPass (.vpopc h f) .vec (elemEffect h f (fun w a _ => popCount a w)) s

def execVclz (h : Hdr) (f : FV) (s : State) : Host.Outcome State Fault Refusal :=
  runPass (.vclz h f) .vec (elemEffect h f (fun w a _ => leadingZeros w a)) s

def execVbrev (h : Hdr) (f : FV) (s : State) : Host.Outcome State Fault Refusal :=
  runPass (.vbrev h f) .vec (elemEffect h f (fun w a _ => bitsNat (fun i => a.testBit (w - 1 - i)) w)) s

/-- Position and length of a bit field, from a lane's B element (R148). -/
def fieldPlace (b : Word) : Nat × Nat :=
  let p := min (b.toNat % 256) 32
  (p, min (b.toNat / 256 % 256) (32 - p))

/-- The field of a word, extended by the signedness of FMT (R148). -/
def extractField (h : Hdr) (a b : Word) : Word :=
  let (p, n) := fieldPlace b
  if n = 0 then 0#32
  else
    let x := a.toNat / 2 ^ p % 2 ^ n
    if h.fmt == 0#4 then BitVec.ofInt 32 (signedOf n x) else BitVec.ofNat 32 x

/-- A word with a field replaced (R148). -/
def insertField (a b x : Word) : Word :=
  let (p, n) := fieldPlace b
  BitVec.ofNat 32 (bitsNat (fun i => if p ≤ i && i < p + n then a.getLsbD (i - p) else x.getLsbD i) 32)

def execVbfx (h : Hdr) (f : FV) (s : State) : Host.Outcome State Fault Refusal :=
  runPass (.vbfx h f) .vec (wordEffect h.fmt f (fun a b _ => extractField h a b)) s

def execVbfi (h : Hdr) (f : FV) (s : State) : Host.Outcome State Fault Refusal :=
  runPass (.vbfi h f) .vec (wordEffect h.fmt f insertField) s

/-! ## Shifts (R149) -/

def execVshl (h : Hdr) (f : FV) (s : State) : Host.Outcome State Fault Refusal :=
  runPass (.vshl h f) .vec (elemEffect h f (fun w a b =>
    if b % 256 ≥ w then 0 else a * 2 ^ (b % 256) % 2 ^ w)) s

def execVshr (h : Hdr) (f : FV) (s : State) : Host.Outcome State Fault Refusal :=
  runPass (.vshr h f) .vec (elemEffect h f (fun w a b =>
    if b % 256 ≥ w then 0 else a / 2 ^ (b % 256))) s

def execVsar (h : Hdr) (f : FV) (s : State) : Host.Outcome State Fault Refusal :=
  runPass (.vsar h f) .vec (elemEffect h f (fun w a b =>
    bitsOfInt w (signedOf w a / 2 ^ min (b % 256) w))) s

/-! ## Compare and select (R150, R151) -/

/-- Whether a condition holds for every element of two words (R150). -/
def intCompare (h : Hdr) (cond : Nat) (a b : Word) : Bool :=
  let w := fmtWidth h.fmt
  (List.range (fmtElems h.fmt)).all (fun e =>
    icmpVal cond (intOf h.fmt (elemBits w a e)) (intOf h.fmt (elemBits w b e)))

def execVcmpReg (h : Hdr) (f : FV) (s : State) : Host.Outcome State Fault Refusal :=
  runPass (.vcmpReg h f) .vec (fun c s =>
    let a := c.srcOf f.a
    let b := c.srcOf f.b
    putPred c f.d (fun l => intCompare h (f.fn.toNat % 16) (a.word l) (b.word l)) s) s

def execVcmpImm (h : Hdr) (f : FI) (s : State) : Host.Outcome State Fault Refusal :=
  runPass (.vcmpImm h f) .vec (fun c s =>
    let a := c.srcOf f.a
    putPred c f.d (fun l => intCompare h (f.fn.toNat % 16) (a.word l) f.imm) s) s

/-- A destination filled with words that each lane receives with their poison: a poisoned word that a
live lane receives is consumed (R142, R217). -/
def deliver (c : Ctx) (d : RCode) (tag : BitVec 4) (g : Nat → Word) (bad : Nat → Bool) (s : State) :
    PassResult :=
  let m := c.live &&& mkLanes bad
  if noLanes m then putVec c d tag g s
  else .fault s { cause := causePoison, va := 0#80, lanes := m }

def execVsel (h : Hdr) (f : FV) (s : State) : Host.Outcome State Fault Refusal :=
  runPass (.vsel h f) .vec (fun c s =>
    let a := c.srcOf f.a
    let b := c.srcOf f.b
    let p := c.view.pbits f.c.toNat
    let tag := if !a.free then a.tag else if !b.free then b.tag else 14#4
    deliver c f.d tag (fun l => if p.getLsbD l then a.word l else b.word l)
      (fun l => if p.getLsbD l then a.poison.getLsbD l else b.poison.getLsbD l) s) s

end Sys2Proof.Machine
end

