-- ==== Sys2Proof/Machine/Produce.lean ====
section
/-!
DEFINITION. Machine/Produce.lean: long-latency producers: what they do at issue and at writeback (R104
to R107, R112, R134).
-/

namespace Sys2Proof.Machine

open Sys2Proof

/-- A producer that writes nothing yet. -/
def Writeback.blank (id : Nat) : Writeback :=
  { id := id, vregs := [], sregs := [], vwrites := [], swrites := [], flags := 0#5, isLoad := false,
    isFloat := false, acquires := false, l1Action := false, byPipe := false, holes := 0 }

/-- The producer of an id changed, or begun: all passes of one instruction are one producer. -/
def Warp.modWb (w : Warp) (id : Nat) (f : Writeback → Writeback) : Warp :=
  if w.pend.any (·.id == id) then { w with pend := w.pend.map (fun b => if b.id = id then f b else b) }
  else { w with pend := w.pend ++ [f (Writeback.blank id)] }

/-- Vector registers that a producer will write: tagged and empty (R104, R112). -/
def Warp.emptyV (w : Warp) (tag : BitVec 4) (cs : List Nat) : Warp :=
  (cs.filter (fun c => isV c || isKv c)).foldl (fun w c => (w.putTag c tag).setEmpty c true) w

/-- Scalars that a producer will write: empty (R104). -/
def Warp.emptyS (w : Warp) (cs : List Nat) : Warp :=
  (cs.filter isS).foldl (fun w c => w.setEmpty c true) w

/-- A list with the members of another that it lacks added. -/
def unionList (a b : List Nat) : List Nat := a ++ b.filter (fun x => !a.contains x)

/-- A vector producer's pass at issue: its registers empty and tagged, its writes queued. -/
def Warp.produceV (w : Warp) (id : Nat) (tag : BitVec 4) (cs : List Nat) (f : Writeback → Writeback) : Warp :=
  let vs := cs.filter (fun c => isV c || isKv c)
  (w.emptyV tag vs).modWb id (fun b => f { b with vregs := unionList b.vregs vs })

/-- A scalar producer at issue. -/
def Warp.produceS (w : Warp) (id : Nat) (cs : List Nat) (f : Writeback → Writeback) : Warp :=
  let ss := (cs.filter isS).map (· - 768)
  (w.emptyS cs).modWb id (fun b => f { b with sregs := unionList b.sregs ss })

/-- The split that a scalar write belongs to: 8 is the trap split. -/
def splitName (w : Warp) (e : Nat) : Nat := if w.trapMode then 8 else e

/-- A scalar of a producer written at its writeback: s0 to s2 are the mask of the split that issued it,
within its members (R236). -/
def Warp.landScalar (w : Warp) (x : SWrite) : Warp :=
  if 3 ≤ x.reg then
    { w with sregs := tput w.sregs x.reg { val := x.val, empty := (w.sreg x.reg).empty, poison := x.poison },
             upsets := tdel w.upsets (768 + x.reg) }
  else if x.entry = 8 then
    { w with trapSplit := w.trapSplit.map (fun t =>
        { t with mask := setWord96 t.mask x.reg x.val &&& w.live }) }
  else w.modSplit x.entry (fun y => { y with active := setWord96 y.active x.reg x.val &&& y.members })

/-- Lanes of a vector register of a producer written at its writeback, under the tag of its issue. -/
def Warp.landVector (w : Warp) (x : VWrite) : Warp :=
  let r := w.vreg x.reg
  w.setVreg x.reg (r.write r.tag (x.mask &&& w.present) (wordAt x.words) x.poison)

/-- The writeback of a producer: its lanes and scalars are written, its registers become full, and its
flags are set (R104, R134). -/
def Warp.land (w : Warp) (b : Writeback) : Warp :=
  let w1 := b.vwrites.foldl Warp.landVector w
  let w2 := b.swrites.foldl Warp.landScalar w1
  let w3 := b.vregs.foldl (fun w c => w.setEmpty c false) w2
  let w4 := b.sregs.foldl (fun w n => w.setEmpty (768 + n) false) w3
  { w4.orFlags b.flags with pend := w4.pend.filter (fun x => x.id != b.id) }

end Sys2Proof.Machine
end

