-- ==== Sys2Proof/Machine/Access.lean ====
section
/-!
DEFINITION. Machine/Access.lean: what the load, store and atomic instructions share: addresses, the
waits of their order, translation lane by lane, fabric requests, atomic steps and the placement of data
(R333 to R351, R365, R436, R437).
-/

namespace Sys2Proof.Machine

open Sys2Proof

/-! ## Fabric places (R436) -/

/-- Where a fabric address leads. -/
inductive FabricPlace where
  | place (p : Place)
  | refused
  | silent
  | stall
  /-- An entry of the target's walk cannot be read, in a package and die (R218, R283). -/
  | bad (p d : Nat)
deriving DecidableEq, Repr

/-- The package of the domain that a number names. -/
def State.pkgNumbered (s : State) (n : Nat) : Option Nat :=
  (s.pkgs.find? (fun x => x.2.inDomain && x.2.number == n)).map (·.1)

/-- The place that a KIND 4 address of a tenant leads to at its target package; no answer comes when no
package of the domain has the number (R436). -/
def fabricPlace (s : State) (own : Nat) (tkey : BitVec 8) (addr : Nat) (a : Access) : FabricPlace :=
  if !(s.pkg own).inDomain then .silent
  else
    match s.pkgNumbered (addr / 2 ^ 46 % 2 ^ 10) with
    | none => .silent
    | some t =>
      match tget (s.pkg t).rings (addr / 2 ^ 40 % 64) with
      | none => .refused
      | some r =>
        if r.tkey != tkey then .refused
        else
          let va := addr % 2 ^ 40
          match walk s t r.root va with
          | .leaf e big =>
            if 3 ≤ pteKind e || (leafFault e tkey a).isSome then .refused
            else
              match leafPlace s t e big va with
              | .ok p => .place p
              | .stall => .stall
              | _ => .refused
          | .stall => .stall
          | .bad => .bad t (r.root / 2 ^ 38 % 2)
          | .fault _ => .refused

/-- The target's walk for a KIND 4 address makes its reads at the home slices of its entries (R285, R436). -/
def fabricReads (s : State) (own : Nat) (tkey : BitVec 8) (addr : Nat) : State :=
  match if (s.pkg own).inDomain then s.pkgNumbered (addr / 2 ^ 46 % 2 ^ 10) else none with
  | none => s
  | some t =>
    match tget (s.pkg t).rings (addr / 2 ^ 40 % 64) with
    | none => s
    | some r => if r.tkey != tkey then s else walkReads s t r.root (addr % 2 ^ 40) tkey

/-- The number of requests that the gateway of a core's die holds (R437). -/
def gatewayLoad (s : State) (g : Nat) : Nat :=
  ((s.pkg (pkgOf g)).fabric.filter (fun r => dieOf (coreOf r.warp) == dieOf g)).length

/-- Whether a KIND 4 access of an engine, or of a front end, must wait at the gateway of its die: the queue is full, or a
request that was sent before to the same line has not been performed (R437). -/
def gatewayBusy (s : State) (g addr : Nat) : Bool :=
  8192 ≤ gatewayLoad s g ||
  (s.pkg (pkgOf g)).fabric.any (fun r =>
    dieOf (coreOf r.warp) == dieOf g && (2 ^ 46 * r.target + r.offset) / 128 == addr / 128)

/-- A KIND 4 address followed to its target for an access made at once, through the gateway of core g's die: the place,
which the gateway reaches, and the state once the target's walk has read (R318, R436, R437; log 6). -/
def farPlace (g : Nat) (tkey : BitVec 8) (p : Place) (a : Access) (s : State) : FabricPlace × State :=
  if gatewayBusy s g (keyAddr p.key) then (.stall, s)
  else
    let t := fabricReads s (pkgOf g) tkey (keyAddr p.key)
    match fabricPlace t (pkgOf g) tkey (keyAddr p.key) a with
    | .place q => (.place { q with poa := q.poa || p.poa, far := true }, t)
    | x => (x, t)

/-! ## Shared-memory sizes (R18, R20) -/

/-- The bytes of the receive slots that a launch record declares (R20). -/
def LaunchRec.recvBytes (r : LaunchRec) : Nat :=
  r.recvs.foldl (fun n e => match e with | some (_, _, slots, size) => n + slots * size | none => n) 0

/-- The bytes of the handle-queue rings (R20). -/
def LaunchRec.ringBytes (r : LaunchRec) : Nat := 128 * (r.hqs.filter (·.isSome)).length

/-- SAREA (R20). -/
def LaunchRec.sarea (r : LaunchRec) : Nat := (r.shared + r.ringBytes + r.recvBytes + 8191) / 8192 * 8192

/-! ## Atomic steps (R344) -/

/-- The new value of an atomic step on a value of m bits (R344). -/
def atomNew (fn fmt : BitVec 4) (m old d swp : Nat) : Nat :=
  let sgn (x : Nat) : Int := if fmt == 0#4 then signedOf m x else x
  let each (op : Nat → Nat → Nat) : Nat :=
    packElems (fmtWidth fmt) ((List.range (fmtElems fmt)).map (fun e =>
      op (old / 2 ^ (fmtWidth fmt * e) % 2 ^ fmtWidth fmt) (d / 2 ^ (fmtWidth fmt * e) % 2 ^ fmtWidth fmt)))
  match fn.toNat with
  | 0 => (old + d) % 2 ^ m
  | 1 => if sgn old ≤ sgn d then old else d
  | 2 => if sgn old ≤ sgn d then d else old
  | 3 => old &&& d
  | 4 => old ||| d
  | 5 => old ^^^ d
  | 6 => d
  | 7 => if old = d then swp else old
  | 8 => each (fun x y => (toFmt (sumVals [elemVal fmt x, elemVal fmt y] 0).1 fmt 0 0).1)
  | 9 => each (fun x y => (minMax fmt false (elemVal fmt x) (elemVal fmt y)).1)
  | _ => each (fun x y => (minMax fmt true (elemVal fmt x) (elemVal fmt y)).1)

/-- An atomic step at a place: what it read and the state after it. A poisoned word is not changed, and
without a destination the step is dropped and counted (R344, R346). -/
def atomAt (k n : Nat) (fn fmt : BitVec 4) (d swp : Nat) (keep : Bool) (s : State) :
    List (Byte × Bool) × State :=
  let s0 := (List.range ((n + 3) / 4)).foldl (fun t i => resolveMem (k + 4 * i) t) s
  let bs := homeRead k n s0
  let lost := regionIs s0 k .unbacked
  if bs.any (·.2) then
    (bs, if keep && !lost then s0 else countError 14 1 (keyPkg k) (keyDie k) s0)
  else
    (bs, homeStore k (leBytes n (atomNew fn fmt (8 * n) (leValue (bs.map (·.1))) d swp)) s0)

/-- An atomic step of a package at a place: one on the bus is sent as an AtomicOp with its operand and, of CAS, its
swap value; its old value is free (R346; log 11). -/
def atomPlace (pk : Nat) (p : Place) (n : Nat) (fn fmt : BitVec 4) (d swp : Nat) (keep : Bool) (s : State) :
    List (Byte × Bool) × State :=
  if keyKind p.key = 3 then
    let (bs, s1) := busTake pk p n s
    let w : Posted :=
      { pkg := pk, port := carriedBy (s1.pkg pk) p.port, addr := keyAddr p.key, bytes := leBytes n d
        atomic := some (fn, if fn == 7#4 then leBytes n swp else []) }
    (bs, { s1 with posted := s1.posted ++ [w] })
  else atomAt p.key n fn fmt d swp keep s

/-! ## Waits of order (R350, R365) -/

/-- Whether an access of an order and scope must wait for earlier accesses of its warp, those of its own producer's
earlier passes not among the loads (R350). -/
def orderWaits (w : Warp) (own ord scope : Nat) : Bool :=
  w.acquireOut ||
  ((ord == 2 || ord == 3) && (w.pend.any (fun b => b.isLoad && b.id != own) || w.writesOut scope)) ||
  (ord == 1 && scope == 4 && w.acks.any (·.kind == .pcie))

/-- How a load is served (R325, R350, R365). -/
def loadServe (f : FM) : Serve :=
  if f.cache == 3#2 || ((f.ord == 4#3 || f.ord == 1#3) && f.scope != 0#3) then .atSlice else .cached f.cache

/-- How a store is served: a release goes through to its slice at every scope. -/
def storeServe (f : FM) : Serve :=
  if f.cache == 3#2 || f.ord == 2#3 || (f.ord == 4#3 && f.scope != 0#3) then .atSlice else .cached f.cache

/-- Whether an access is an acquire, or a release, of R358. -/
def isAcquire (f : FM) : Bool := f.ord == 1#3 || f.ord == 3#3
def isRelease (f : FM) : Bool := f.ord == 2#3 || f.ord == 3#3

/-! ## Lanes of an access -/

/-- What translation gives a lane. -/
inductive LaneTrans where
  | go (p : Place)
  | fabric (addr : Nat) (place : Option Nat) (poa : Bool)
  | fault (cause : BitVec 8)
  | miss
  | stall
  /-- An entry of the target's walk cannot be read (R218). -/
  | bad (p d : Nat)
deriving DecidableEq, Repr

/-- The translation of one lane's address for an access of a split; a KIND 4 place is translated at its target, and
a KIND 3 place refuses an access that the bus has no form of (R346, R436). -/
def laneTrans (s : State) (k e : Nat) (va : A80) (a : Access) (bus : Bool) : LaneTrans :=
  match warpTrans s k e va a with
  | .ok p =>
    if keyKind p.key = 4 then
      match fabricPlace s (pkgOf (coreOf k)) (s.warpLaunch k).tkey (keyAddr p.key) a with
      | .refused => .fault causeProtection
      | .stall => .stall
      | .bad t d => .bad t d
      | .place q => .fabric (keyAddr p.key) (some q.key) (p.poa || q.poa)
      | .silent => .fabric (keyAddr p.key) none p.poa
    else if keyKind p.key = 3 && !bus then .fault causeProtection
    else .go p
  | .fault c => .fault c
  | .miss => .miss
  | .stall => .stall

/-- The target's walk made for a lane whose address a KIND 4 leaf maps (R285, R436). -/
def laneReads (k e : Nat) (s : State) (va : A80) : State :=
  match warpTrans s k e va .read with
  | .ok p =>
    if keyKind p.key = 4 then fabricReads s (pkgOf (coreOf k)) (s.warpLaunch k).tkey (keyAddr p.key) else s
  | _ => s

/-- Whether a lane's access goes through the gateway. -/
def LaneTrans.isFabric (t : LaneTrans) : Bool := match t with | .fabric _ _ _ => true | _ => false

/-- The lanes of a pass with those stalled that find the gateway's queue full: past the room that is left, in lane
order; of an atomic, whose lanes of a line are performed together, all of them or none (R345, R437). -/
def gatewayStalls (s : State) (g : Nat) (all : Bool) (ts : List (Nat × A80 × LaneTrans)) : List (Nat × A80 × LaneTrans) :=
  let room := 8192 - gatewayLoad s g
  let fs := (ts.filter (fun x => x.2.2.isFabric)).map (·.1)
  let ok := if all && room < fs.length then [] else fs.take room
  ts.map (fun x => if x.2.2.isFabric && !ok.contains x.1 then (x.1, x.2.1, .stall) else x)

/-- The least cause among faulting lanes, the address of the lowest lane with it, and every address with
the code of the access (R220). -/
def faultOf (bad : List (Nat × A80 × BitVec 8)) (lanes : Lanes) (code : Nat) : FaultInfo :=
  let c : BitVec 8 := if bad.any (fun b => b.2.2 == causePageFault) then causePageFault else causeProtection
  { cause := c, va := ((bad.find? (fun b => b.2.2 == c)).map (fun b => b.2.1)).getD 0#80, lanes := lanes,
    named := bad.map (fun b => (b.2.1, code)) }

/-- The accesses of lanes one after the other, with what each has read. -/
def doLanes (f : Nat → LaneTrans → State → List (Word × Bool) × State) :
    List (Nat × A80 × LaneTrans) → State → List (Nat × List (Word × Bool)) × State
  | [], s => ([], s)
  | x :: xs, s =>
    let (ws, s1) := f x.1 x.2.2 s
    let (rs, s2) := doLanes f xs s1
    (if ws.isEmpty then rs else (x.1, ws) :: rs, s2)

/-- Whether a pass is the first attempt of its instruction in its plane: a lane that waited for a walk comes again
(R286). -/
def Ctx.firstTry (c : Ctx) : Bool := match c.q.low with | some r => r.1 != c.p | none => true

/-- What a release does before its writes: at die scope or wider the L1 is written back, at team scope the core's
release epoch rises, once an instruction (R324, R365, R366). -/
def beginRelease (c : Ctx) (f : FM) (s : State) : State :=
  let g := coreOf c.k
  if isRelease f && c.firstTry then
    let s0 := releaseL1 g (s.fused c.k) f.scope.toNat s
    if f.scope == 0#3 then bumpEpoch g (s.fused c.k) s0 else s0
  else s

/-- The lanes of a global access at once: alignment, the waits of its order, translation, and then the
accesses that translate, in ascending lane order; a lane whose page is being walked, whose slice holds it, or for which
the gateway has no room waits while the others go on, and once every lane is resolved those that fault do (R220, R286,
R337, R350, R437). once says that the access is made once a pass; finish takes the words that lanes have read. -/
def globalAccess (c : Ctx) (f : FM) (a : Access) (bus : Bool) (n : Nat) (addrs : List (Nat × A80))
    (once : Bool) (doLane : Nat → LaneTrans → State → List (Word × Bool) × State)
    (finish : List (Nat × List (Word × Bool)) → State → State) (s : State) : PassResult :=
  let k := c.k
  let g := coreOf k
  let mis := addrs.filter (fun x => x.2.toNat % n != 0)
  match mis with
  | (_, va) :: _ =>
    .fault s { cause := causeAlignment, va := va, lanes := if once then 0#96 else lanesOfList (mis.map (·.1)) }
  | [] =>
    if addrs.isEmpty then .ok (finish [] s)
    else if orderWaits (s.warp k) c.q.wb f.ord.toNat f.scope.toNat then .wait s
    else
      let ts := gatewayStalls s g (a == .atomic) (addrs.map (fun x => (x.1, x.2, laneTrans s k c.e x.2 a bus)))
      let asks (t : LaneTrans) : Bool := match t with
        | .go p => (isAcquire f && f.scope != 0#3 && (promoPending s p.key g).isSome) ||
          (isRelease f && f.scope == 0#3 && recordStalled s p.key g)
        | _ => false
      let waits := ts.filter (fun x => x.2.2 == .miss || x.2.2 == .stall || asks x.2.2)
      let bad := ts.filterMap (fun x => match x.2.2 with | .fault z => some (x.1, x.2.1, z) | _ => none)
      let good := ts.filter (fun x => !asks x.2.2 && match x.2.2 with | .go _ | .fabric _ _ _ => true | _ => false)
      let ask (s : State) : State := waits.foldl (fun t x => match x.2.2 with
        | .miss => queueWalk k c.e x.2.1 a t
        | .go p => askPromotion p.key g t
        | _ => t) s
      match ts.find? (fun x => match x.2.2 with | .bad _ _ => true | _ => false) with
      | some (_, _, .bad p d) => .wait (stateErrorAt (s.warp k).team p d s)
      | _ =>
        if l1Stalled s g (s.fused k) then .wait s
        else if good.isEmpty && !waits.isEmpty then .wait (ask s)
        else
          let code := a.code + (if bus then 0 else 8)
          let fault (s : State) : PassResult :=
            .pageFault s (faultOf bad (if once then c.live else lanesOfList (bad.map (·.1))) code)
          let s := bad.foldl (fun t x => laneReads k c.e t x.2.1) s
          if good.isEmpty then fault (if once then s else finish [] s)
          else
            let (rs, s2) := doLanes doLane good (beginRelease c f s)
            let s3 := finish rs s2
            let s4 := if isAcquire f then acquireL1 g (s.fused k) f.scope.toNat s3 else s3
            if !waits.isEmpty then .part (ask s4) (lanesOfList ((waits.map (·.1)) ++ (bad.map (·.1))))
            else if bad.isEmpty then .ok s4 else fault s4

/-- A team-scope release write records its line (R366). -/
def recordRelease (c : Ctx) (f : FM) (p : Place) (s : State) : State :=
  if isRelease f && f.scope == 0#3 && keyKind p.key ≤ 2 then promoRecord p.key (coreOf c.k) (s.fused c.k) (s.core (coreOf c.k)).epoch s
  else s

/-! ## Data -/

/-- The codes of n registers of data from a code: consecutive, but zero stays zero (R339). -/
def dataCodes (d n : Nat) : List Nat := if d = 643 then List.replicate n 643 else span d n

/-- A lane's data from its source registers, the first lowest (R340, R342). -/
def laneData (srcs : List Src) (l : Nat) : Nat := packElems 32 (srcs.map (fun x => (x.word l).toNat))

/-- The words of data read, with their poison: a narrow value is extended by FMT (R339). -/
def loadedWords (signed : Bool) (n : Nat) (bs : List (Byte × Bool)) : List (Word × Bool) :=
  if n < 4 then
    let v := leValue (bs.map (·.1))
    [(if signed then BitVec.ofInt 32 (signedOf (8 * n) v) else BitVec.ofNat 32 v, bs.any (·.2))]
  else (List.range (n / 4)).map (fun j =>
    let w := (bs.drop (4 * j)).take 4
    (BitVec.ofNat 32 (leValue (w.map (·.1))), w.any (·.2)))

/-- The queued writes of n registers from lane results: the lanes of mask that have none get zero. -/
def laneWrites (d n : Nat) (mask : Lanes) (rs : List (Nat × List (Word × Bool))) : List VWrite :=
  let one (j l : Nat) : Word × Bool := match tget rs l with | some ws => (lget ws j).getD (0#32, false) | none => (0#32, false)
  (List.range n).map (fun j =>
    { reg := d + j, mask := mask, words := mkWords (fun l => if mask.getLsbD l then (one j l).1 else 0#32),
      poison := mkLanes (fun l => mask.getLsbD l && (one j l).2) })

/-- The lanes that have read. -/
def lanesRead (rs : List (Nat × List (Word × Bool))) : Lanes := lanesOfList (rs.map (·.1))

/-- What a vector load or atomic leaves outstanding: its registers are empty and tagged, and the words
read, and zero for the helper lanes of a load, are written at the writeback (R13, R104, R112, R338). -/
def finishVector (c : Ctx) (f : FM) (zero : Bool) (n : Nat) (rs : List (Nat × List (Word × Bool))) (s : State) : State :=
  let d := f.d.toNat
  if !(isV d || isKv d) then s
  else if noLanes c.part then
    (if c.any then s.modWarp c.k (fun w => (span d n).foldl (fun w r => w.putTag r c.h.fmt) w) else s)
  else
    let mask := lanesRead rs ||| (if zero then c.part &&& ~~~c.live else 0#96)
    s.modWarp c.k (fun w => w.produceV c.q.wb c.h.fmt (span d n) (fun b =>
      { b with vwrites := b.vwrites ++ laneWrites d n mask rs, isLoad := true
               acquires := b.acquires || isAcquire f
               l1Action := b.l1Action || (isAcquire f && f.scope != 0#3) }))

/-- What a scalar load or atomic leaves outstanding: its scalars are empty until the writeback. -/
def finishScalar (c : Ctx) (f : FM) (n : Nat) (rs : List (Nat × List (Word × Bool))) (s : State) : State :=
  let d := f.d.toNat
  if !isS d then s
  else
    let ws := match rs with | (_, ws) :: _ => ws | [] => []
    s.modWarp c.k (fun w => w.produceS c.q.wb (span d n) (fun b =>
      { b with
        swrites := b.swrites ++ (List.range ws.length).map (fun j =>
          let x := (lget ws j).getD (0#32, false)
          { entry := splitName w c.e, reg := d - 768 + j, val := x.1, poison := x.2 })
        isLoad := true
        acquires := b.acquires || isAcquire f
        l1Action := b.l1Action || (isAcquire f && f.scope != 0#3) }))

/-- A fabric request of a lane: its answer is one more hole of the producer, and a store awaits its
acknowledgement (R436, R437). -/
def addFabric (c : Ctx) (f : FM) (n l addr : Nat) (place : Option Nat) (poa scalar signed : Bool) (regs : List Nat) (op : FabricOp)
    (s : State) : State :=
  let (id, s1) := (fabricReads s (pkgOf (coreOf c.k)) (s.warpLaunch c.k).tkey addr).takeId
  let r : FabricReq :=
    { id := id, warp := c.k, wb := c.q.wb, entry := splitName (s.warp c.k) c.e, lane := l, regs := regs, scalar := scalar, op := op,
      target := addr / 2 ^ 46, offset := addr % 2 ^ 46, bytes := n, tkey := (s.warpLaunch c.k).tkey,
      narrowSigned := signed, place := place, poa := poa, acquires := isAcquire f && f.scope != 0#3
      tag := if isRelease f && f.scope == 0#3 then some (s.core (coreOf c.k)).epoch else none }
  let s2 := s1.modPkg (pkgOf (coreOf c.k)) (fun x => { x with fabric := x.fabric ++ [r] })
  s2.modWarp c.k (fun w => match op with
    | .store _ => { w with acks := w.acks ++ [{ id := id, kind := .fabric }] }
    | _ => w.modWb c.q.wb (fun b =>
        { b with isLoad := true, acquires := b.acquires || isAcquire f
                 l1Action := b.l1Action || (isAcquire f && f.scope != 0#3), holes := b.holes + 1 }))

/-- The acknowledgement that a write at a place awaits: none for one kept in L1 (R365). -/
def ackWrite (c : Ctx) (p : Place) (v : Serve) (s : State) : State :=
  if keyKind p.key = 3 then addAck c.k .pcie s
  else match v with
    | .atSlice => addAck c.k .slice s
    | .cached _ => s

end Sys2Proof.Machine
end

