-- ==== Sys2Proof/Machine/MemInstr.lean ====
section
/-!
DEFINITION. Machine/MemInstr.lean: the loads, stores and atomics of global and shared memory, VPREF and
FENCE (R333 to R354).
-/

namespace Sys2Proof.Machine

open Sys2Proof

/-! ## Addresses (R335, R336) -/

/-- The sign-extended offset of a load or store, and of an atomic (R335, R342). -/
def fullOffset (f : FM) : Int := f.offset.toInt
def atomOffset (f : FM) : Int := (f.offset.setWidth 14).toInt

/-- The index of a lane: one word, or a pair of words (R335). -/
def laneIndex (c : Ctx) (f : FM) (pair : Bool) (l : Nat) : Int :=
  let x := f.x.toNat
  let lo := (c.view.src c.e x).word l
  if pair then
    let hi := (c.view.src c.e (if x = 643 then x else x + 1)).word l
    (hi ++ lo : BitVec 64).toInt
  else lo.toInt

/-- The index of a scalar access. -/
def scalarIndex (c : Ctx) (f : FM) : Int := (c.view.sval c.e f.x.toNat).toInt

/-- A global address, modulo 2^80 (R335). -/
def globalAddr (c : Ctx) (f : FM) (idx off : Int) : A80 :=
  BitVec.ofInt 80 ((c.view.aval f.a.toNat).toNat + idx * 2 ^ f.ish.toNat + off)

/-- The addresses of the live lanes that take part. -/
def laneAddrs (c : Ctx) (f : FM) (pair : Bool) (off : Int) : List (Nat × A80) :=
  (lanesOf c.live).map (fun l => (l, globalAddr c f (laneIndex c f pair l) off))

/-- The address of a scalar access. -/
def scalarAddr (c : Ctx) (f : FM) (off : Int) : List (Nat × A80) :=
  [(0, globalAddr c f (scalarIndex c f) off)]

/-- The shared offset of a lane, signed (R336). -/
def sharedOff (c : Ctx) (f : FM) (off : Int) (l : Nat) : Int :=
  (c.view.sval c.e f.a.toNat).toInt + laneIndex c f false l * 2 ^ f.ish.toNat + off

/-- Bytes per lane (R337). -/
def widthBytes (f : FM) : Nat := 2 ^ f.width.toNat

/-! ## Loads -/

/-- A lane's load at a place (R338). -/
def loadLane (c : Ctx) (f : FM) (regs : List Nat) (scalar : Bool) (l : Nat) (t : LaneTrans) (s : State) :
    List (Word × Bool) × State :=
  let n := widthBytes f
  match t with
  | .go p =>
    let (bs, s1) := globalRead (coreOf c.k) (s.fused c.k) p n (loadServe f) (s.warpLaunch c.k).tkey s
    (loadedWords (c.h.fmt == 0#4) n bs, s1)
  | .fabric a p x => ([], addFabric c f n l a p x scalar (c.h.fmt == 0#4) regs .load s)
  | _ => ([], s)

def vectorLoad (f : FM) (pair : Bool) (c : Ctx) (s : State) : PassResult :=
  let n := widthRegs f.width
  globalAccess c f .read true (widthBytes f) (laneAddrs c f pair (fullOffset f)) false
    (loadLane c f (span f.d.toNat n) false) (finishVector c f true n) s

def execVld (h : Hdr) (f : FM) (s : State) : Host.Outcome State Fault Refusal :=
  runPass (.vld h f) .vec (vectorLoad f false) s

def execVldf (h : Hdr) (f : FM) (s : State) : Host.Outcome State Fault Refusal :=
  runPass (.vldf h f) .vec (vectorLoad f true) s

def execSld (h : Hdr) (f : FM) (s : State) : Host.Outcome State Fault Refusal :=
  runPass (.sld h f) .scal (fun c s =>
    let n := widthRegs f.width
    globalAccess c f .read true (widthBytes f) (scalarAddr c f (fullOffset f)) true
      (loadLane c f (dataCodes f.d.toNat n) true) (finishScalar c f n) s) s

/-! ## Stores -/

/-- A lane's store at a place (R340, R341). -/
def storeLane (c : Ctx) (f : FM) (data : Nat → Nat) (l : Nat) (t : LaneTrans) (s : State) :
    List (Word × Bool) × State :=
  let n := widthBytes f
  let bs := leBytes n (data l)
  match t with
  | .go p =>
    let s1 := recordRelease c f p s
    ([], ackWrite c p (storeServe f)
      (globalWrite (coreOf c.k) (s1.fused c.k) p bs (storeServe f) (s1.warpLaunch c.k).tkey s1))
  | .fabric a p x => ([], addFabric c f n l a p x false false [] (.store bs) s)
  | _ => ([], s)

/-- The data of a vector store's lanes. -/
def vectorData (c : Ctx) (f : FM) : Nat → Nat :=
  let srcs := (dataCodes f.d.toNat (widthRegs f.width)).map (c.view.src c.e)
  laneData srcs

def vectorStore (f : FM) (pair : Bool) (c : Ctx) (s : State) : PassResult :=
  globalAccess c f .write true (widthBytes f) (laneAddrs c f pair (fullOffset f)) false
    (storeLane c f (vectorData c f)) (fun _ s => s) s

def execVst (h : Hdr) (f : FM) (s : State) : Host.Outcome State Fault Refusal :=
  runPass (.vst h f) .vec (vectorStore f false) s

def execVstf (h : Hdr) (f : FM) (s : State) : Host.Outcome State Fault Refusal :=
  runPass (.vstf h f) .vec (vectorStore f true) s

def execSst (h : Hdr) (f : FM) (s : State) : Host.Outcome State Fault Refusal :=
  runPass (.sst h f) .scal (fun c s =>
    let v := c.view.svals c.e f.d.toNat (widthRegs f.width)
    globalAccess c f .write true (widthBytes f) (scalarAddr c f (fullOffset f)) true
      (storeLane c f (fun _ => v)) (fun _ s => s) s) s

/-! ## Atomics (R342 to R346) -/

/-- Whether a PCIe AtomicOp exists for an operation (R346). -/
def busAtomic (f : FM) : Bool := f.fn == 0#4 || f.fn == 6#4 || f.fn == 7#4

/-- A lane's atomic step at a place: never in L1 (R325, R345). -/
def atomLane (c : Ctx) (f : FM) (regs : List Nat) (scalar : Bool) (opnd swp : Nat → Nat) (l : Nat)
    (t : LaneTrans) (s : State) : List (Word × Bool) × State :=
  let n := widthBytes f
  let keep := !regs.isEmpty
  match t with
  | .go p =>
    let s0 := recordRelease c f p s
    let h := l1Core (coreOf c.k) (s0.fused c.k) p.key
    let s1 := if keyKind p.key ≤ 2 then touchHome p.key (s0.warpLaunch c.k).tkey (dropLine h p.key s0) else s0
    let (bs, s2) := atomPlace (pkgOf (coreOf c.k)) p n f.fn c.h.fmt (opnd l) (swp l) keep s1
    if keep then (loadedWords false n bs, s2) else ([], ackWrite c p .atSlice s2)
  | .fabric a p x =>
    ([], addFabric c f n l a p x scalar false regs
      (.atomic f.fn c.h.fmt (leBytes n (opnd l)) (leBytes n (swp l)) keep) s)
  | _ => ([], s)

/-- The registers an atomic returns its old value to. -/
def atomDest (f : FM) : List Nat := if f.d.toNat = 643 then [] else span f.d.toNat (widthRegs f.width)

/-- The operand, or compare value, and the swap value of a vector atomic's lanes (R342). -/
def atomOperand (c : Ctx) (f : FM) (second : Bool) : Nat → Nat :=
  let n := widthRegs f.width
  let d := f.atomData.toNat
  let base := if second && d != 643 then d + n else d
  laneData ((dataCodes base n).map (c.view.src c.e))

def execVatom (h : Hdr) (f : FM) (s : State) : Host.Outcome State Fault Refusal :=
  runPass (.vatom h f) .vec (fun c s =>
    globalAccess c f .atomic (busAtomic f) (widthBytes f) (laneAddrs c f false (atomOffset f)) false
      (atomLane c f (atomDest f) false (atomOperand c f false) (atomOperand c f true))
      (finishVector c f false (widthRegs f.width)) s) s

def execSatom (h : Hdr) (f : FM) (s : State) : Host.Outcome State Fault Refusal :=
  runPass (.satom h f) .scal (fun c s =>
    let n := widthRegs f.width
    let d := f.atomData.toNat
    let v := c.view.svals c.e d n
    let x := c.view.svals c.e (if d = 643 then d else d + n) n
    globalAccess c f .atomic (busAtomic f) (widthBytes f) (scalarAddr c f (atomOffset f)) true
      (atomLane c f (atomDest f) true (fun _ => v) (fun _ => x)) (finishScalar c f n) s) s

/-! ## Shared memory (R336, R337) -/

/-- The accesses of lanes to shared memory one after the other, with what each has read. -/
def sharedLanes (f : Nat → Nat → State → List (Word × Bool) × State) :
    List (Nat × Int) → State → List (Nat × List (Word × Bool)) × State
  | [], s => ([], s)
  | x :: xs, s =>
    let (ws, s1) := f x.1 x.2.toNat s
    let (rs, s2) := sharedLanes f xs s1
    (if ws.isEmpty then rs else (x.1, ws) :: rs, s2)

/-- The address a shared or accumulator fault records: the offset, in 80 bits. -/
def offsetVa (x : Int) : A80 := BitVec.ofInt 80 x

/-- The lanes of each phase of a shared access: a beat, half a beat or a quarter of one (R319). -/
def sharedPhases (n : Nat) : List (List Nat) :=
  let m := if n ≤ 4 then 32 else if n = 8 then 16 else 8
  (List.range (96 / m)).map (fun i => span (m * i) m)

/-- The cycles beyond one of a phase: the most distinct bank words its accesses touch in one bank, less
one; an access of n bytes at o touches the words that hold its bytes (R319, R320). -/
def phaseConflicts (n : Nat) (os : List Nat) : Nat :=
  let ws := ((os.flatMap (fun o => (List.range ((n + 3) / 4)).map (fun j => o / 4 + j)))).eraseDups
  (List.range 32).foldl (fun m b => max m (ws.filter (fun x => x % 32 == b)).length) 0 - 1

/-- The bank conflicts of a shared access. -/
def sharedConflicts (n : Nat) (xs : List (Nat × Int)) : Nat :=
  ((sharedPhases n).map (fun ls =>
    phaseConflicts n ((xs.filter (fun x => ls.contains x.1)).map (fun x => x.2.toNat)))).foldl (· + ·) 0

/-- An access of the lanes to shared memory: alignment, bounds, the waits of its order, and then every
lane in ascending order. -/
def sharedAccess (c : Ctx) (f : FM) (off : Int) (limit : Nat)
    (doLane : Nat → Nat → State → List (Word × Bool) × State)
    (finish : List (Nat × List (Word × Bool)) → State → State) (s : State) : PassResult :=
  let n : Int := widthBytes f
  let xs := (lanesOf c.live).map (fun l => (l, sharedOff c f off l))
  let mis := xs.filter (fun x => x.2 % n != 0)
  let out := xs.filter (fun x => x.2 < 0 || x.2 + n > (limit : Int))
  match mis, out with
  | (_, va) :: _, _ =>
    .fault s { cause := causeAlignment, va := offsetVa va, lanes := lanesOfList (mis.map (·.1)) }
  | [], (_, va) :: _ =>
    .fault s { cause := causeShared, va := offsetVa va, lanes := lanesOfList (out.map (·.1)) }
  | [], [] =>
    if !xs.isEmpty && orderWaits (s.warp c.k) c.q.wb f.ord.toNat 0 then .wait s
    else
      let (rs, s1) := sharedLanes doLane xs s
      .ok (countWarp 0x04 (sharedConflicts (widthBytes f) xs) c.k (finish rs s1))

/-- n shared bytes of a warp's team read, upsets resolved (R88). -/
def sharedFetch (k o n : Nat) (s : State) : List (Byte × Bool) × State :=
  let t := s.warpTeam k
  let s1 := (List.range ((n + 3) / 4)).foldl (fun s i => resolveShared t.core (sharedPhys t (o + 4 * i)) s) s
  (sharedRead t o n s1, s1)

def execVldsh (h : Hdr) (f : FM) (s : State) : Host.Outcome State Fault Refusal :=
  runPass (.vldsh h f) .vec (fun c s =>
    let n := widthBytes f
    sharedAccess c f (fullOffset f) (s.warpLaunch c.k).info.sarea
      (fun _ o s => let (bs, s1) := sharedFetch c.k o n s; (loadedWords (h.fmt == 0#4) n bs, s1))
      (finishVector c f true (widthRegs f.width)) s) s

/-- Whether an XDEC of a warp has not replied: no later shared-memory store or atomic issues (R201). -/
def xdecOut (s : State) (k : Nat) : Bool :=
  (s.core (coreOf k)).pipe.any (fun r => r.warp == k && match r.instr with | .xdec _ _ => true | _ => false)

def execVstsh (h : Hdr) (f : FM) (s : State) : Host.Outcome State Fault Refusal :=
  runPass (.vstsh h f) .vec (fun c s =>
    let data := vectorData c f
    if !noLanes c.live && xdecOut s c.k then .wait s
    else sharedAccess c f (fullOffset f) (s.warpLaunch c.k).info.shared
      (fun l o s => ([], sharedStore (s.warp c.k).team o (leBytes (widthBytes f) (data l)) s))
      (fun _ s => s) s) s

/-- A lane's atomic step on shared memory (R344, R345). -/
def sharedAtom (c : Ctx) (f : FM) (keep : Bool) (d swp : Nat) (o : Nat) (s : State) :
    List (Word × Bool) × State :=
  let n := widthBytes f
  let (bs, s1) := sharedFetch c.k o n s
  if bs.any (·.2) then
    if keep then (loadedWords false n bs, s1) else ([], countErrorAt 14 1 (coreOf c.k) s1)
  else
    let v := atomNew f.fn c.h.fmt (8 * n) (leValue (bs.map (·.1))) d swp
    (if keep then loadedWords false n bs else [], sharedStore (s1.warp c.k).team o (leBytes n v) s1)

def execVatomsh (h : Hdr) (f : FM) (s : State) : Host.Outcome State Fault Refusal :=
  runPass (.vatomsh h f) .vec (fun c s =>
    let d := atomOperand c f false
    let x := atomOperand c f true
    if !noLanes c.live && xdecOut s c.k then .wait s
    else sharedAccess c f (atomOffset f) (s.warpLaunch c.k).info.shared
      (fun l o s => sharedAtom c f (!(atomDest f).isEmpty) (d l) (x l) o s)
      (finishVector c f false (widthRegs f.width)) s) s

/-! ## VPREF (R352) -/

/-- A line requested into a level (R352). -/
def prefetchLine (c : Ctx) (f : FM) (p : Place) (s : State) : State :=
  let l := s.warpLaunch c.k
  let g := coreOf c.k
  match f.fn.toNat with
  | 0 => (l1Load (l1Core g (s.fused c.k) p.key) (s.fused c.k) (p.key / 128 * 128) 128 f.cache l.tkey s).2
  | 1 => l2Place p.key l.tkey s
  | _ => segPlace p.key (classOf s p.key l.tkey) false 0 l.tkey s

/-- The lanes of places, without those whose line an earlier one names (R352). -/
def distinctLines : List Place → List Nat → List Place
  | [], _ => []
  | p :: ps, seen => if seen.contains (p.key / 128) then distinctLines ps seen
    else p :: distinctLines ps (p.key / 128 :: seen)

/-- VPREF: each lane that takes part requests its line, each line once; a lane whose page is being walked waits for it
while the others go on, one without a translation, of POA, or of KIND 3 or 4 is skipped (R284, R286, R352). -/
def vprefEffect (f : FM) (c : Ctx) (s : State) : PassResult :=
  let ts := (laneAddrs c f false (fullOffset f)).map (fun x => (x.1, x.2, warpTrans s c.k c.e x.2 .prefetch))
  let ps := ts.filterMap (fun x => match x.2.2 with
    | .ok p => if p.poa || 2 < keyKind p.key then none else some p
    | _ => none)
  let waits := ts.filter (fun x => x.2.2 == .miss || x.2.2 == .stall)
  let s1 := (distinctLines ps []).foldl (fun t p => prefetchLine c f p t) s
  let s2 := waits.foldl (fun t x => if x.2.2 == .miss then queueWalk c.k c.e x.2.1 .prefetch t else t) s1
  if l1Stalled s (coreOf c.k) (s.fused c.k) then .wait s
  else if waits.isEmpty then .ok s2 else .part s2 (lanesOfList (waits.map (·.1)))

def execVpref (h : Hdr) (f : FM) (s : State) : Host.Outcome State Fault Refusal :=
  runPass (.vpref h f) .vec (vprefEffect f) s

/-! ## Delivery points and FENCE (R135, R353) -/

/-- What a delivery point does first: it waits for float results, and raises FP-EXCEPTION; nothing is
delivered in trap mode (R135). In trap mode it does not wait either: the spec states the wait with the delivery, and
does not say that it stays without one (DESIGN CHOICE; log 19). -/
def deliveryPoint (c : Ctx) (s : State) : PreCheck :=
  let w := s.warp c.k
  if w.trapMode then .pass
  else if w.floatsOut then .wait
  else if w.fpPending then .fault (plainFault causeFp)
  else .pass

/-- Whether a FENCE must wait: a release for every earlier access, an acquire for every earlier load and
atomic (R350, R353). -/
def fenceWaits (w : Warp) (ord scope : Nat) : Bool :=
  w.acquireOut || w.loadsOut ||
  ((ord == 2 || ord == 3) && w.writesOut scope) || (scope == 4 && w.acks.any (·.kind == .pcie))

def execFence (h : Hdr) (f : FM) (s : State) : Host.Outcome State Fault Refusal :=
  runChecked (.fence h f) .first deliveryPoint (fun c s =>
      let scope := f.scope.toNat
      if fenceWaits (s.warp c.k) f.ord.toNat scope || l1Stalled s (coreOf c.k) (s.fused c.k) then .wait s
      else
        let g := coreOf c.k
        let fuse := s.fused c.k
        let s1 := if isRelease f then releaseL1 g fuse scope s else s
        .ok (if isAcquire f then acquireL1 g fuse scope s1 else s1)) s

end Sys2Proof.Machine
end

