-- ==== Sys2Proof/Machine/Tiles.lean ====
section
/-!
DEFINITION. Machine/Tiles.lean: the tile table: handles, the row layout, fills and readers, and TALLOC,
TFREE, TREL and TSTAT (R265 to R280).
-/

namespace Sys2Proof.Machine

open Sys2Proof

/-! ## Entries (R265, R266) -/

/-- An entry at commit (R26, R266). -/
def Tile.fresh : Tile :=
  { owner := 0, filled := 0, bytes := 0, dim1 := 0, dim0 := 0, pitch := 0, base := 0, readers := 0,
    sealed := false, gen := 0#10, fmt := 14#4, state := .empty, fills := 0 }

/-- A team's tile entry, by its team-local index; a pre-empted team's lies in its image (R280). -/
def State.tile (s : State) (t i : Nat) : Tile :=
  match (s.team t).image with
  | some im => (lget im.tiles i).getD Tile.fresh
  | none =>
    match lget (s.team t).tileMap i with
    | some n => (tget (s.core (s.team t).core).tiles n).getD Tile.fresh
    | none => Tile.fresh

def State.setTile (s : State) (t i : Nat) (x : Tile) : State :=
  match (s.team t).image with
  | some im => s.modTeam t (fun y => { y with image := some { im with tiles := lset im.tiles i x } })
  | none =>
    match lget (s.team t).tileMap i with
    | some n => s.modCore (s.team t).core (fun c => { c with tiles := tput c.tiles n x })
    | none => s

/-- The transitions that fall due: a sealed and filled tile is READY, a drained one EMPTY (R269, R270). -/
def Tile.due (x : Tile) : Tile :=
  if x.state == .filling && x.sealed && x.filled == x.bytes then { x with state := .ready }
  else if x.state == .draining && x.readers == 0 && x.fills == 0 then { x with state := .empty }
  else x

def State.modTile (s : State) (t i : Nat) (f : Tile → Tile) : State := s.setTile t i (f (s.tile t i)).due

/-- TILES of a team. -/
def State.tileCount (s : State) (t : Nat) : Nat := (s.launchOf t).info.tiles

/-! ## Handles (R267) -/

/-- The index of a handle, and its generation. -/
def handleIndex (h : Word) : Nat := h.toNat % 64
def handleGen (h : Word) : BitVec 10 := fieldOf h 6 10

/-- Whether a handle is current for a team (R267). -/
def handleCurrent (s : State) (t : Nat) (h : Word) : Bool :=
  let x := s.tile t (handleIndex h)
  handleIndex h < s.tileCount t && handleGen h == x.gen && x.state != .empty

/-! ## The row layout (R268) -/

/-- The shared-memory offset of byte b of a tile. -/
def Tile.place (x : Tile) (b : Nat) : Nat :=
  let i := b / 128
  let j := b % 128 / 16
  x.base + 128 * i + 16 * (j ^^^ (i % 8)) + b % 16

/-- Byte of element (r, c), rounded down (R268). -/
def Tile.byteOf (x : Tile) (r c : Nat) : Nat := 128 * x.pitch * r + c * fmtWidth x.fmt / 8

/-- PITCH of a row (R266). -/
def pitchOf (dim0 : Nat) (fmt : BitVec 4) : Nat := (dim0 * fmtWidth fmt + 1023) / 1024

/-- The bytes of a tile from byte b on, with the poison of their words, upsets resolved (R88). -/
def tileRead (t : Nat) (x : Tile) (b n : Nat) (s : State) : List (Byte × Bool) × State :=
  let s1 := if (s.team t).image.isSome then s
    else (List.range ((n + 3) / 4)).foldl (fun s i =>
      resolveShared (s.team t).core (sharedPhys (s.team t) (x.place (b + 4 * i))) s) s
  ((span b n).flatMap (fun a => sharedRead (s1.team t) (x.place a) 1 s1), s1)

/-- The pieces of a run of tile bytes that lie in one 16-byte chunk each. -/
def tileWrite (t : Nat) (x : Tile) (b : Nat) (bs : List (Byte × Bool)) (s : State) : State :=
  (List.range (bs.length / 16 + 1)).foldl (fun s i =>
    let p := (bs.drop (16 * i)).take 16
    if p.isEmpty then s else sharedMove t (x.place (b + 16 * i)) p s) s

/-! ## Fills and readers (R269 to R271) -/

/-- A fill's credit for n bytes; what would pass BYTES is dropped and counted (R270). A DRAINING tile
takes no credit (R275). -/
def creditTile (t i n : Nat) (s : State) : State :=
  let x := s.tile t i
  if x.state == .filling || x.state == .ready then
    let s1 := s.modTile t i (fun y => { y with filled := min y.bytes (y.filled + n) })
    if x.bytes < x.filled + n then countCore 0x20 1 (s.team t).core s1 else s1
  else s

/-- A fill of a tile issues or ends (R269). -/
def fillIssues (t i : Nat) (s : State) : State := s.modTile t i (fun y => { y with fills := y.fills + 1 })
def fillEnds (t i : Nat) (s : State) : State := s.modTile t i (fun y => { y with fills := y.fills - 1 })

/-- A reader of a tile issues: its number, under which READER_FINISH ends it (R271). -/
def readerIssues (t i : Nat) (s : State) : Nat × State :=
  let (id, s1) := s.takeId
  let s2 := s1.modTile t i (fun y => { y with readers := y.readers + 1 })
  (id, s2.modCore (s.team t).core (fun c => { c with readers := c.readers ++ [{ id := id, tile := (lget (s.team t).tileMap i).getD 0, finished := false }] }))

/-- What a reader's or a fill's handle check answers (R271). -/
inductive HandleCheck where
  | issues
  | waits
  | stale
  | badTag
deriving DecidableEq, Repr

/-- The check of a reader's handle: currency, with a DRAINING tile as one that is not current, the tag for the format
that reads it, then the wait on a FILLING tile (R114, R271). -/
def readerCheck (s : State) (t : Nat) (h : Word) (fmt : Option (BitVec 4)) : HandleCheck :=
  let x := s.tile t (handleIndex h)
  if !handleCurrent s t h || x.state == .draining then .stale
  else if (match fmt with | some f => !tagPasses f x.fmt | none => false) then .badTag
  else match x.state with
    | .filling => .waits
    | .ready => if 255 ≤ x.readers then .waits else .issues
    | _ => .stale

/-- Whether a fill may name a handle: current, and FILLING (R271). -/
def fillOk (s : State) (t : Nat) (h : Word) : Bool :=
  handleCurrent s t h && (s.tile t (handleIndex h)).state == .filling

/-! ## The instructions (R273 to R277) -/

/-- TALLOC (R274). -/
def tallocEffect (h : Hdr) (f : FX) (c : Ctx) (s : State) : PassResult :=
  let t := (s.warp c.k).team
  let i := (fieldOf f.ctl 0 6).toNat
  let d := c.view.sval c.e f.e1.toNat
  let dim0 := (fieldOf d 0 16).toNat
  let dim1 := (fieldOf d 16 16).toNat
  let base := (c.view.sval c.e f.e2.toNat).toNat
  let pitch := pitchOf dim0 h.fmt
  let bytes := 128 * pitch * dim1
  if s.tileCount t ≤ i || dim0 == 0 || dim1 == 0 || 4096 < dim1 || base % 128 != 0 ||
      (s.launchOf t).info.shared < base + bytes then .fault s (plainFault causeTile)
  else
    let x := s.tile t i
    match x.state with
    | .draining => .wait s
    | .empty =>
      let gen := x.gen + 1#10
      let y : Tile :=
        { owner := (s.team t).number, filled := 0, bytes := bytes, dim1 := dim1, dim0 := dim0,
          pitch := pitch, base := base, readers := 0, sealed := false, gen := gen, fmt := h.fmt,
          state := .filling, fills := 0 }
      .ok ((s.setTile t i y).modWarp c.k (fun w =>
        w.setS c.e f.e0.toNat ((gen ++ BitVec.ofNat 6 i : BitVec 16).setWidth 32)))
    | _ => .fault s (plainFault causeTile)

def execTalloc (h : Hdr) (f : FX) (s : State) : Host.Outcome State Fault Refusal :=
  runPass (.talloc h f) .first (tallocEffect h f) s

/-- TFREE: a FILLING or READY tile drains (R275). -/
def execTfree (h : Hdr) (f : FX) (s : State) : Host.Outcome State Fault Refusal :=
  runPass (.tfree h f) .first (fun c s =>
    let t := (s.warp c.k).team
    let x := c.view.sval c.e f.e0.toNat
    let st := (s.tile t (handleIndex x)).state
    if handleCurrent s t x && (st == .filling || st == .ready) then
      .ok (s.modTile t (handleIndex x) (fun y => { y with state := .draining }))
    else .fault s (plainFault causeTile)) s

/-- TREL: the tile is sealed; with ALL it counts as filled (R276). -/
def execTrel (h : Hdr) (f : FX) (s : State) : Host.Outcome State Fault Refusal :=
  runPass (.trel h f) .first (fun c s =>
    let t := (s.warp c.k).team
    let x := c.view.sval c.e f.e0.toNat
    if fillOk s t x && !(s.tile t (handleIndex x)).sealed then
      .ok (s.modTile t (handleIndex x) (fun y =>
        { y with sealed := true, filled := if f.ctl.getLsbD 0 then y.bytes else y.filled }))
    else .fault s (plainFault causeTile)) s

/-- STATE as a number (R266). -/
def TileState.code : TileState → Nat
  | .empty => 0
  | .filling => 1
  | .ready => 2
  | .draining => 3

/-- The word of TSTAT (R277). -/
def tileStatus (s : State) (t : Nat) (h : Word) : Word :=
  if s.tileCount t ≤ handleIndex h then 8#32
  else
    let x := s.tile t (handleIndex h)
    BitVec.ofNat 32 (x.filled / 128 % 2 ^ 16 * 2 ^ 16 + x.gen.toNat * 16 +
      (if handleCurrent s t h then 0 else 8) + (if x.sealed then 4 else 0) + x.state.code)

def execTstat (h : Hdr) (f : FX) (s : State) : Host.Outcome State Fault Refusal :=
  runPass (.tstat h f) .first (fun c s =>
    let v := tileStatus s (s.warp c.k).team (c.view.sval c.e f.e1.toNat)
    .ok (s.modWarp c.k (fun w => w.setS c.e f.e0.toNat v))) s

end Sys2Proof.Machine
end

