-- ==== Sys2Proof/Machine/Barriers.lean ====
section
/-!
DEFINITION. Machine/Barriers.lean: named barriers: the phase test, arrivals and byte credits, BINIT,
BARV, BWAIT, BSYNC and BEXP (R465 to R479), and REGROUP (R264).
-/

namespace Sys2Proof.Machine

open Sys2Proof

/-! ## Records (R465, R466) -/

/-- LEVEL as a number (R465), which is also its scope (R474). -/
def Level.code : Level → Nat
  | .team => 0
  | .span => 1
  | .grid => 2

/-- A record that is not there. -/
def Barrier.blank : Barrier :=
  { expb := 0, initb := 0, bytes := 0, ph := 0#16, level := .team, up := false, initw := 0, arr := 0,
    regroup := [] }

/-- A team's barrier record, by its team-local number; a pre-empted team's lies in its image (R479). -/
def State.bar (s : State) (t b : Nat) : Barrier :=
  match (s.team t).image with
  | some im => (lget im.barriers b).getD Barrier.blank
  | none =>
    match lget (s.team t).barMap b with
    | some n => (tget (s.core (s.team t).core).barriers n).getD Barrier.blank
    | none => Barrier.blank

def State.setBar (s : State) (t b : Nat) (x : Barrier) : State :=
  match (s.team t).image with
  | some im => s.modTeam t (fun y => { y with image := some { im with barriers := lset im.barriers b x } })
  | none =>
    match lget (s.team t).barMap b with
    | some n => s.modCore (s.team t).core (fun c => { c with barriers := tput c.barriers n x })
    | none => s

def State.modBar (s : State) (t b : Nat) (f : Barrier → Barrier) : State := s.setBar t b (f (s.bar t b))

/-- The number of barriers of a team (R466). -/
def State.barCount (s : State) (t : Nat) : Nat :=
  let r := (s.launchOf t).info
  r.barT + r.barS + r.barG

/-- The level of a barrier number (R20, R465). -/
def LaunchRec.levelOf (r : LaunchRec) (b : Nat) : Level :=
  if b < r.barT then .team else if b < r.barT + r.barS then .span else .grid

/-- Whether phase t has completed (R470). -/
def phaseDone (ph t : BitVec 16) : Bool := 1 ≤ (ph - t).toNat && (ph - t).toNat ≤ 32768

/-! ## REGROUP's exchange of lanes (R264) -/

/-- A warp that arrived at a REGROUP: warp, first register and count of its range, and its active
lanes. -/
structure Regrouped where
  k : Nat
  base : Nat
  n : Nat
  lanes : Lanes
deriving DecidableEq, Repr

/-- Receivers with their donors, in arrival order. -/
def pairUp : Nat → List Regrouped → List (Regrouped × Option Regrouped)
  | 0, _ => []
  | _ + 1, [] => []
  | m + 1, x :: xs =>
    match xs.find? (fun y => laneCount x.lanes + laneCount y.lanes ≤ 96) with
    | some y => (x, some y) :: pairUp m (xs.filter (fun z => z.k != y.k))
    | none => (x, none) :: pairUp m xs

/-- Where each new lane comes from: the receiver's active lanes, then the donor's, each ascending. -/
def laneOrigins (x : Regrouped) (d : Option Regrouped) : List (Nat × Nat) :=
  (lanesOf x.lanes).map (fun l => (x.k, l)) ++
    (match d with | some y => (lanesOf y.lanes).map (fun l => (y.k, l)) | none => [])

/-- New lanes whose origin satisfies f. -/
def fromOrigins (os : List (Nat × Nat)) (f : Nat → Nat → Bool) : Lanes :=
  mkLanes (fun l => match lget os l with | some (k, o) => f k o | none => false)

/-- Whether the registers that a donor gives up are full. -/
def regroupReady (s : State) (p : Regrouped × Option Regrouped) : Bool :=
  match p.2 with
  | some d => (span p.1.base p.1.n).all (fun c => !(s.warp d.k).isEmpty c)
  | none => true

/-- A register of the migrated range in its new lanes. It keeps the tag it has in the receiver, should the donor's hold
another: R112 says that migration carries tags unchanged, not whose (DESIGN CHOICE; log 23). -/
def regroupReg (s : State) (os : List (Nat × Nat)) (c : Nat) (r : VReg) : VReg :=
  let bad := fromOrigins os (fun k o => ((s.warp k).vreg c).poisonNow.getLsbD o)
  { r with
    words := mkWords (fun l => match lget os l with
      | some (k, o) => wordAt ((s.warp k).vreg c).words o
      | none => 0#32)
    poison := bad, poison2 := bad, flips := [] }

/-- The moved registers of a warp, and its predicates, checked as the exchange reads them (R88). -/
def regroupReads (base n k : Nat) (s : State) : State := resolveWarp k (span base n) (span 2000 45) s

/-- A predicate register of a warp in its new lanes; lanes not filled keep the warp's bits. -/
def regroupPreg (s : State) (k : Nat) (os : List (Nat × Nat)) (n : Nat) : PReg :=
  { bits := fromOrigins os (fun k o => ((s.warp k).pbits n).getLsbD o) |||
      mkLanes (fun l => os.length ≤ l && ((s.warp k).pbits n).getLsbD l)
    poison := beatsOf (fromOrigins os (fun k o => ((s.warp k).preg n).poison.getLsbD (o / 32))) }

/-- A receiver, or a warp compacted alone, after the exchange. -/
def regroupWarp (s : State) (p : Regrouped × Option Regrouped) : Warp :=
  let w := s.warp p.1.k
  let os := laneOrigins p.1 p.2
  let n := os.length
  let live := mkLanes (fun l => l < n)
  let o := match w.validEntries with | e :: _ => (w.split e).offset | [] => 0#32
  { (span p.1.base p.1.n).foldl (fun x c => x.setVreg c (regroupReg s os c (w.vreg c))) w with
    live := live
    helper := mkLanes (fun l => n ≤ l && l < (n + 3) / 4 * 4)
    exited := 0#96
    plane0 := fromOrigins os (fun k o => (s.warp k).plane0.getLsbD o)
    plane1 := fromOrigins os (fun k o => (s.warp k).plane1.getLsbD o)
    pregs := (List.range 15).foldl (fun t i => tput t i (regroupPreg s p.1.k os i)) w.pregs
    hl := []
    areuse := none
    reissues := []
    unseated := 0#96
    uactive := 0#96
    uoffset := []
    splits := [(0, { Split.free with valid := true, offset := following o, members := live, active := live })] }

/-- A donor, and a warp that arrived with no active lane, retires. -/
def regroupRetires (w : Warp) : Warp :=
  { w with live := 0#96, helper := 0#96, exited := w.exited ||| w.live, splits := [], unseated := 0#96, uactive := 0#96, uoffset := [],
           reissues := [], fast := [], retired := true }

/-- The warp of a team with a WARPID. -/
def State.warpNamed (s : State) (t i : Nat) : Option Nat :=
  (s.teamWarps t).find? (fun k => (s.warp k).warpid == i && !(s.warp k).retired)

/-- The arrived warps of a REGROUP whose phase has completed. -/
def regrouping (s : State) (t b : Nat) : List Regrouped :=
  let x := s.bar t b
  (x.regroup.filter (fun e => phaseDone x.ph (BitVec.ofNat 16 e.2.2.2))).filterMap (fun e =>
    (s.warpNamed t e.1).map (fun k =>
      { k := k, base := e.2.1, n := e.2.2.1,
        lanes := (s.warp k).validEntries.foldl (fun m i => m ||| ((s.warp k).split i).active) 0#96 }))

/-- The warps of a completed REGROUP exchange their lanes, once every moved register is full. -/
def regroupNow (t b : Nat) (s : State) : State :=
  if (s.team t).run != .running then s
  else
    let rs := regrouping s t b
    let zero := rs.filter (fun r => noLanes r.lanes)
    let ps := pairUp rs.length (rs.filter (fun r => !noLanes r.lanes))
    if rs.isEmpty || !ps.all (regroupReady s) then s
    else
      let s0 := ps.foldl (fun v p =>
        let u := regroupReads p.1.base p.1.n p.1.k v
        match p.2 with
        | some d => regroupReads p.1.base p.1.n d.k u
        | none => u) s
      let s1 := ps.foldl (fun v p => v.setWarp p.1.k (regroupWarp s0 p)) s0
      let gone := zero.map (·.k) ++ ps.filterMap (fun p => p.2.map (·.k))
      let s2 := gone.foldl (fun v k => v.modWarp k regroupRetires) s1
      s2.modBar t b (fun x => { x with regroup := x.regroup.filter (fun e =>
        !phaseDone x.ph (BitVec.ofNat 16 e.2.2.2)) })

/-- The exchanges of a team that can take place now. -/
def regroupAll (t : Nat) (s : State) : State :=
  (List.range (s.launchOf t).info.barT).foldl (fun v b =>
    if (v.bar t b).regroup.isEmpty then v else regroupNow t b v) s

/-! ## The phase test (R467) -/

/-- The test of R467: a phase, or its team part, completes. -/
def barTest (t b : Nat) (s : State) : State :=
  let x := s.bar t b
  if x.arr == x.initw && x.bytes == x.expb && !x.up then
    let y := { x with arr := 0, bytes := 0, expb := x.initb }
    match x.level with
    | .team => regroupNow t b (s.setBar t b { y with ph := y.ph + 1#16 })
    | _ => (s.setBar t b { y with up := true }).modLaunch (s.team t).launch (fun l =>
        { l with arrivals := l.arrivals ++ [(t, b)] })
  else s

/-- A release from the combiner (R467). -/
def barRelease (t b : Nat) (s : State) : State :=
  barTest t b (s.modBar t b (fun x => { x with ph := x.ph + 1#16, up := false }))

/-- A byte credit, which saturates and is then counted (R469). -/
def creditBarrier (t b n : Nat) (s : State) : State :=
  let x := s.bar t b
  let top := 2 ^ 32 - 1
  let s1 := s.setBar t b { x with bytes := min top (x.bytes + n) }
  barTest t b (if top < x.bytes + n then countCore 0x23 1 (s.team t).core s1 else s1)

/-! ## Arrivals (R474) -/

/-- The phase that is counting (R467). -/
def Barrier.counting (x : Barrier) : BitVec 16 := x.ph + (if x.up then 1#16 else 0#16)

/-- The arrival scope: the wider of SCOPE and the barrier's level (R474). -/
def arrivalScope (f : FX) (x : Barrier) : Nat := max (fieldOf f.ctl 8 3).toNat x.level.code

/-- Whether an arrival must wait for an earlier access of the warp: for stores and atomics that have not completed at
its scope, for data that a KIND 4 access has not returned, and for a write-back that stalls (R289, R365, R367, R474). -/
def arriveWaits (s : State) (k scope : Nat) : Bool :=
  let w := s.warp k
  w.acquireOut || w.writesOut scope || w.answersOut || (1 ≤ scope && l1Stalled s (coreOf k) (s.fused k))

/-- An arrival: the stores it releases go home, ARR increments, and the test follows (R474). -/
def arrive (k t b scope : Nat) (s : State) : State :=
  let s1 := releaseL1 (coreOf k) (s.fused k) scope s
  barTest t b (s1.modBar t b (fun x => { x with arr := x.arr + 1 }))

/-- What an arriving instruction does: it waits, faults when the count is full, or arrives with the
number of the phase it counts toward. -/
def arriveWith (c : Ctx) (f : FX) (go : BitVec 16 → State → PassResult) (s : State) : PassResult :=
  let t := (s.warp c.k).team
  let b := (fieldOf f.ctl 0 7).toNat
  let x := s.bar t b
  if arriveWaits s c.k (arrivalScope f x) then .wait s
  else if x.arr == x.initw then .fault s (plainFault causeBarrier)
  else go x.counting (arrive c.k t b (arrivalScope f x) s)

/-- An instruction that names a barrier: a number of no barrier of the team faults (R466). -/
def withBarrier (c : Ctx) (f : FX) (go : Nat → Nat → PassResult) (s : State) : PassResult :=
  let t := (s.warp c.k).team
  let b := (fieldOf f.ctl 0 7).toNat
  if s.barCount t ≤ b then .fault s (plainFault causeBarrier) else go t b

/-! ## The instructions (R473 to R477) -/

/-- The warps of a team that have not retired (R473). -/
def State.warpsLeft (s : State) (t : Nat) : Nat :=
  ((s.teamWarps t).filter (fun k => !(s.warp k).retired)).length

def execBinit (h : Hdr) (f : FX) (s : State) : Host.Outcome State Fault Refusal :=
  runPass (.binit h f) .first (fun c s => withBarrier c f (fun t b =>
    let x := s.bar t b
    let w := (c.view.sval c.e f.e0.toNat).toNat
    let n := (c.view.sval c.e f.e1.toNat).toNat
    if x.arr != 0 || x.bytes != 0 || x.up then .fault s (plainFault causeBarrier)
    else if s.warpsLeft t < w || (w == 0 && n == 0) then .fault s (plainFault causeBarrier)
    else .ok (s.setBar t b { x with initw := w, initb := n, expb := n })) s) s

def execBarv (h : Hdr) (f : FX) (s : State) : Host.Outcome State Fault Refusal :=
  runChecked (.barv h f) .first deliveryPoint (fun c s => withBarrier c f (fun _ _ =>
    arriveWith c f (fun p s => .ok (s.modWarp c.k (fun w => w.setS c.e f.e0.toNat (p.setWidth 32)))) s) s) s

/-- WPH of the split that issues, or of the trap split (R234, R475). -/
def Warp.wph (w : Warp) (e : Nat) : Option (BitVec 16) :=
  if w.trapMode then (match w.trapSplit with | some t => t.wph | none => none) else (w.split e).wph

def Warp.setWph (w : Warp) (e : Nat) (p : Option (BitVec 16)) : Warp :=
  if w.trapMode then { w with trapSplit := w.trapSplit.map (fun t => { t with wph := p }) }
  else w.modSplit e (fun x => { x with wph := p })

/-- The return of a wait is an acquire (R475). -/
def waitDone (c : Ctx) (f : FX) (t b : Nat) (s : State) : State :=
  acquireL1 (coreOf c.k) (s.fused c.k) (arrivalScope f (s.bar t b)) s

def execBwait (h : Hdr) (f : FX) (s : State) : Host.Outcome State Fault Refusal :=
  runChecked (.bwait h f) .first deliveryPoint (fun c s => withBarrier c f (fun t b =>
    let ph := (s.bar t b).ph
    if f.e0 == 643#10 then
      let p := ((s.warp c.k).wph c.e).getD ph
      if phaseDone ph p then .ok (waitDone c f t b (s.modWarp c.k (fun w => w.setWph c.e none)))
      else .wait (s.modWarp c.k (fun w => w.setWph c.e (some p)))
    else if phaseDone ph (fieldOf (c.view.sval c.e f.e0.toNat) 0 16) then .ok (waitDone c f t b s)
    else .wait s) s) s

/-- The wait of BSYNC for the phase its scalar holds; the end clears ARRIVED (R476). -/
def bsyncWait (c : Ctx) (f : FX) (t b : Nat) (p : BitVec 16) (s : State) : PassResult :=
  if phaseDone (s.bar t b).ph p then
    .ok ((waitDone c f t b s).modWarp c.k (fun w => w.setS c.e f.e0.toNat (p.setWidth 32)))
  else .wait s

def execBsync (h : Hdr) (f : FX) (s : State) : Host.Outcome State Fault Refusal :=
  runChecked (.bsync h f) .first deliveryPoint (fun c s => withBarrier c f (fun t b =>
    let x := c.view.sval c.e f.e0.toNat
    if x.getLsbD 16 then bsyncWait c f t b (fieldOf x 0 16) s
    else
      arriveWith c f (fun p s =>
        bsyncWait c f t b p (s.modWarp c.k (fun w =>
          w.setS c.e f.e0.toNat ((1#1 ++ p : BitVec 17).setWidth 32)))) s) s) s

def execBexp (h : Hdr) (f : FX) (s : State) : Host.Outcome State Fault Refusal :=
  runPass (.bexp h f) .first (fun c s => withBarrier c f (fun t b =>
    let x := s.bar t b
    let n := x.expb + (c.view.sval c.e f.e0.toNat).toNat
    if 2 ^ 32 ≤ n then .fault s (plainFault causeBarrier)
    else .ok (barTest t b (s.setBar t b { x with expb := n }))) s) s

/-! ## REGROUP (R264) -/

def execRegroup (h : Hdr) (f : FX) (s : State) : Host.Outcome State Fault Refusal :=
  runPass (.regroup h f) .once (fun c s =>
    if (s.warp c.k).trapMode then .double s
    else
      withBarrier c f (fun t b =>
        if (s.bar t b).level != .team then .fault s (plainFault causeBarrier)
        else
          let n := if f.e0 == 643#10 then 0 else (fieldOf f.ctl 7 6).toNat + 1
          let x := s.bar t b
          if arriveWaits s c.k 0 then .wait s
          else if x.arr == x.initw then .fault s (plainFault causeBarrier)
          else
            let s1 := s.setBar t b { x with
              regroup := x.regroup ++ [((s.warp c.k).warpid, f.e0.toNat, n, x.counting.toNat)] }
            let s2 := s1.modWarp c.k (fun w => w.modSplit c.e (fun y => { y with rgWait := true }))
            .moved (arrive c.k t b 0 (countIssue c 1 s2))) s) s

end Sys2Proof.Machine
end

