-- ==== Sys2Proof/Machine/Lane.lean ====
section
/-!
DEFINITION. Machine/Lane.lean: lane exchange, reductions, scans and votes (R152 to R157).
-/

namespace Sys2Proof.Machine

open Sys2Proof

/-! ## Lane exchange (R152 to R154) -/

/-- Each lane receives the word of the source lane that from names, or 0 when it is 96 or more; D
takes the tag of A, or FMT for the zero source (R112). -/
def exchange (h : Hdr) (c : Ctx) (d a : RCode) (pick : Nat → Nat) (s : State) : PassResult :=
  let x := c.srcOf a
  deliver c d (if x.free then h.fmt else x.tag) (fun l => if pick l < 96 then x.word (pick l) else 0#32)
    (fun l => pick l < 96 && x.poison.getLsbD (pick l)) s

def execVlane (h : Hdr) (f : FV) (s : State) : Host.Outcome State Fault Refusal :=
  runPass (.vlane h f) .vec (fun c s =>
    let n := (c.view.sval c.e f.b.toNat).toNat
    exchange h c f.d f.a (fun _ => n) s) s

def execVperm (h : Hdr) (f : FV) (s : State) : Host.Outcome State Fault Refusal :=
  runPass (.vperm h f) .vec (fun c s =>
    let b := c.srcOf f.b
    exchange h c f.d f.a (fun l => (b.word l).toNat) s) s

def execQxch (h : Hdr) (f : FV) (s : State) : Host.Outcome State Fault Refusal :=
  runPass (.qxch h f) .vec (fun c s =>
    exchange h c f.d f.a (fun l => l / 4 * 4 + f.fn.toNat / 4 ^ (l % 4) % 4) s) s

/-! ## Combining elements (R78, R155) -/

/-- Two elements of a format combined by an operation of R78, with the flags of a sum. -/
def combine (fmt : BitVec 4) (op : Nat) (x y : Nat) : Nat × FFlags :=
  let w := fmtWidth fmt
  match op with
  | 0 =>
    if isFltFmt fmt then
      let (v, f1) := sumVals [elemVal fmt x, elemVal fmt y] 0
      let (r, f2) := toFmt v fmt 0 0
      (r, f1 ||| f2)
    else ((x + y) % 2 ^ w, 0#5)
  | 1 =>
    if isFltFmt fmt then minMax fmt false (elemVal fmt x) (elemVal fmt y)
    else (if intOf fmt x ≤ intOf fmt y then x else y, 0#5)
  | 2 =>
    if isFltFmt fmt then minMax fmt true (elemVal fmt x) (elemVal fmt y)
    else (if intOf fmt x ≤ intOf fmt y then y else x, 0#5)
  | 3 => (x &&& y, 0#5)
  | 4 => (x ||| y, 0#5)
  | _ => (x ^^^ y, 0#5)

/-- The identity of an operation (R155). -/
def combineId (fmt : BitVec 4) (op : Nat) : Nat :=
  let w := fmtWidth fmt
  match op with
  | 1 => if isFltFmt fmt then (ffmt fmt).infBits false else bitsOfInt w (intHi fmt)
  | 2 => if isFltFmt fmt then (ffmt fmt).infBits true else bitsOfInt w (intLo fmt)
  | 3 => 2 ^ 32 - 1
  | _ => 0

/-- Words combined element by element. -/
def combineWords (fmt : BitVec 4) (op : Nat) (x y : Word) : Word × FFlags :=
  let w := fmtWidth fmt
  let rs := (List.range (fmtElems fmt)).map (fun e => combine fmt op (elemBits w x e) (elemBits w y e))
  (BitVec.ofNat 32 (packElems w (rs.map (·.1))), rs.foldl (fun a r => a ||| r.2) 0#5)

/-- The identity in every element. -/
def combineIdWord (fmt : BitVec 4) (op : Nat) : Word :=
  mapElems (fmtWidth fmt) (fmtElems fmt) (fun _ => combineId fmt op)

/-- One level of the tree: a node with one present child passes it unchanged (R155). -/
def treeLevel (fmt : BitVec 4) (op : Nat) : List (Option (Word × FFlags)) → List (Option (Word × FFlags))
  | some x :: some y :: r =>
    let (z, fl) := combineWords fmt op x.1 y.1
    some (z, x.2 ||| y.2 ||| fl) :: treeLevel fmt op r
  | some x :: none :: r => some x :: treeLevel fmt op r
  | none :: y :: r => y :: treeLevel fmt op r
  | [x] => [x]
  | [] => []

/-- Levels until one node is left. -/
def treeReduce (fmt : BitVec 4) (op : Nat) : Nat → List (Option (Word × FFlags)) → List (Option (Word × FFlags))
  | 0, xs => xs
  | n + 1, xs => treeReduce fmt op n (treeLevel fmt op xs)

/-- The combination of the words of a set of lanes in the tree over lanes 0 to 95 (R155). -/
def reduceLanes (fmt : BitVec 4) (op : Nat) (m : Lanes) (f : Nat → Word) : Word × FFlags :=
  match treeReduce fmt op 7 ((List.range 96).map (fun l => if m.getLsbD l then some (f l, 0#5) else none)) with
  | some x :: _ => x
  | _ => (combineIdWord fmt op, 0#5)

/-- The scan of the words of lanes in ascending order: each lane with what it receives and the flags of
the combination that gave it (R156). acc is the combination of the lanes before, if any. -/
def scanLanes (fmt : BitVec 4) (op : Nat) (excl : Bool) (f : Nat → Word) :
    List Nat → Option (Word × FFlags) → List (Nat × Word × FFlags)
  | [], _ => []
  | l :: ls, acc =>
    let now := match acc with
      | none => (f l, 0#5)
      | some a => combineWords fmt op a.1 (f l)
    let out := if excl then acc.getD (combineIdWord fmt op, 0#5) else now
    (l, out) :: scanLanes fmt op excl f ls (some now)

/-! ## Contributing lanes (R141) -/

/-- The words of an opcode over the passes of the instruction, made and to come, each with the live lanes that take
part in its pass: the contributing lanes (R141, R237; log 17). -/
def contributions (c : Ctx) (op : Nat) : List (Instr × Lanes) :=
  let live (m : Lanes) : Lanes := m &&& c.view.live
  (c.q.took.filter (fun t => t.2.1.opNum == op)).map (fun t => (t.2.1, live t.2.2)) ++
  c.q.todo.filterMap (fun p => match planeInstr c.q p with
    | some x => if x.opNum == op then some (x, live (partNow c.view c.view c.q (Instr.hdr x) p)) else none
    | none => none)

/-- The live lanes that take part in some pass of the instruction (R141). -/
def contributing (c : Ctx) (op : Nat) : Lanes := (contributions c op).foldl (fun m x => m ||| x.2) 0#96

/-- The field A of a reduction, scan or vote. -/
def fieldA (i : Instr) : Nat :=
  match i with
  | .vred _ f | .vscan _ f | .vvote _ f => f.a.toNat
  | _ => 643

/-- What a contributing lane gives: its element of what its own plane's word names (R237; log 17). -/
def contribution {α : Type} (xs : List (Instr × Lanes)) (get : Nat → Nat → α) (none : α) (l : Nat) : α :=
  match xs.find? (fun x => x.2.getLsbD l) with
  | some x => get (fieldA x.1) l
  | Option.none => none

/-- The contributing lanes whose word is poisoned: every one of them is consumed, in whichever pass it is (R142,
R217). -/
def poisonedContributions (xs : List (Instr × Lanes)) (bad : Nat → Lanes) : Lanes :=
  xs.foldl (fun m x => m ||| (x.2 &&& bad (fieldA x.1))) 0#96

/-- Whether no later pass of the issue has the opcode. -/
def lastPass (c : Ctx) (op : Nat) : Bool :=
  !(c.q.todo.tail.any (fun p => match planeInstr c.q p with | some x => x.opNum == op | none => false))

/-- A reduction, scan or vote: nothing in a split of no active lane (R238), POISON-USE over all contributing lanes
(R142), else its effect. -/
def gather (c : Ctx) (op : Nat) (bad : Nat → Lanes) (eff : List (Instr × Lanes) → PassResult) (s : State) :
    PassResult :=
  let xs := contributions c op
  let m := poisonedContributions xs bad
  if noLanes (c.view.execMask c.e &&& c.view.live) then .ok s
  else if !noLanes m then .fault s { cause := causePoison, va := 0#80, lanes := m }
  else eff xs

/-- The word of a contributing lane. -/
def vectorOf (c : Ctx) (xs : List (Instr × Lanes)) (l : Nat) : Word :=
  contribution xs (fun a l => (c.view.src c.e a).word l) 0#32 l

def execVred (h : Hdr) (f : FV) (s : State) : Host.Outcome State Fault Refusal :=
  runPass (.vred h f) .vec (fun c s => gather c 0x5C (fun a => (c.view.src c.e a).poison) (fun xs =>
    if lastPass c 0x5C then
      let (v, fl) := reduceLanes h.fmt (f.fn.toNat % 8) (contributing c 0x5C) (vectorOf c xs)
      .ok (s.modWarp c.k (fun w => (w.setS c.e f.d.toNat v).orFlags fl))
    else .ok s) s) s

def execVscan (h : Hdr) (f : FV) (s : State) : Host.Outcome State Fault Refusal :=
  runPass (.vscan h f) .vec (fun c s => gather c 0x5D (fun a => (c.view.src c.e a).poison) (fun xs =>
    let rs := scanLanes h.fmt (f.fn.toNat % 8) (f.fn.getLsbD 3) (vectorOf c xs)
      (lanesOf (contributing c 0x5D)) none
    let mine := rs.filter (fun r => c.live.getLsbD r.1)
    let g (l : Nat) : Word := match tget rs l with | some r => r.1 | none => 0#32
    .ok (s.modWarp c.k (fun w => (c.putV f.d.toNat h.fmt c.live g 0#96 w).orFlags
      (mine.foldl (fun a r => a ||| r.2.2) 0#5)))) s) s

/-- The result of a vote as a value of 96 bits (R157). -/
def voteValue (kind : Nat) (m p : Lanes) : Nat :=
  let one (b : Bool) : Nat := if b then 1 else 0
  match kind with
  | 0 => one (m &&& ~~~p == 0#96)
  | 1 => one (m &&& p != 0#96)
  | 2 => one (m &&& ~~~p == 0#96 || m &&& p == 0#96)
  | 3 => (m &&& p).toNat
  | _ => laneCount (m &&& p)

/-- The predicate bits of the contributing lanes. -/
def votesOf (c : Ctx) (xs : List (Instr × Lanes)) : Lanes :=
  xs.foldl (fun m x => m ||| (x.2 &&& c.view.pbits (fieldA x.1))) 0#96

def execVvote (h : Hdr) (f : FV) (s : State) : Host.Outcome State Fault Refusal :=
  runPass (.vvote h f) .vec (fun c s => gather c 0x5E (fun a => beatLanes (c.view.pPoison a)) (fun xs =>
    if lastPass c 0x5E then
      let v := voteValue f.fn.toNat (contributing c 0x5E) (votesOf c xs)
      .ok (s.modWarp c.k (fun w => w.setSs c.e f.d.toNat (wordsOf (if f.fn == 3#8 then 3 else 1) v)))
    else .ok s) s) s

end Sys2Proof.Machine
end

