-- ==== Sys2Proof/Machine/Gang.lean ====
section
/-!
DEFINITION. Machine/Gang.lean: the rendezvous of a gang broken by a fault (R29, R377 to R380).
-/

namespace Sys2Proof.Machine

open Sys2Proof

/-- Where the matrix instruction that holds a split stands: its slot, its repetition under a REP, and its planes
(R58, R191). -/
def Warp.heldAt (w : Warp) (e : Nat) : Word × Nat × BitVec 4 :=
  if w.trapMode then
    match w.trapSplit with
    | some t => (if t.inRep then following t.offset else t.offset, if t.inRep then t.repJ else 0, 1#4)
    | none => (0#32, 0, 0#4)
  else
    let x := w.split e
    let occ := w.occupied x.members
    (if x.inRep then following x.offset else x.offset, if x.inRep then x.repJ else 0,
      match tget w.reissues e with | some r => r.planes &&& occ | none => occ)

/-- TRAPPC of a matrix instruction that is held (R29). -/
def Warp.heldPc (w : Warp) (e : Nat) : BitVec 64 :=
  let a := w.heldAt e
  trapPcOf a.2.1 a.2.2 a.1

/-- A rendezvous entry taken away, and every member that waits there takes a fault of its own, of an instruction
that has passed its decode checks. -/
def gangFault (g : Nat) (r : Rendezvous) (f : Nat → FaultInfo) (s : State) : State :=
  let s1 := s.modCore g (fun c => { c with rendezvous := c.rendezvous.filter (fun x => x != r) })
  r.joined.foldl (fun s m =>
    let k := m.1
    let e := m.2.1
    let a := (s.warp k).heldAt e
    let stand : Reissue :=
      { offset := a.1, planes := a.2.2, low := none, checked := true, pinned := false, mate := none,
        progress := ((tget (s.warp k).reissues ((s.warp k).reissueKey e)).map (·.progress)).getD Progress.start }
    let (w1, _) := (s.warp k).readyTrap e stand true none
    raiseFault k e ((s.warp k).heldPc e) (f k)
      (s.setWarp k { w1 with reissues := tdel w1.reissues ((s.warp k).reissueKey e) })) s1

/-- An EXIT by a member of a gang whose other members wait: each of them takes GANG-MISMATCH (R29). -/
def gangBreak (k : Nat) (s : State) : State :=
  let g := coreOf k
  ((s.core g).rendezvous.filter (fun r => r.gang.contains (slotOf k) && !(r.joined.any (·.1 == k)))).foldl
    (fun s r => gangFault g r (fun _ => plainFault causeGang) s) s

end Sys2Proof.Machine
end

