-- ==== Sys2Proof/Machine/Control.lean ====
section
/-!
DEFINITION. Machine/Control.lean: the control instructions but REGROUP (R253 to R263).
-/

namespace Sys2Proof.Machine

open Sys2Proof

/-! ## Shared operations -/

/-- The logarithm of the plane stride that bounds a warp's offsets; none in trap mode (R232, R252). -/
def strideOf (s : State) (k : Nat) : Nat :=
  if (s.warp k).trapMode then 0 else (s.warpLaunch k).info.pstride

/-- The reconvergence point that an instruction names: none under RSLOT 7; faulty out of range (R56,
R250). -/
def pointOf (s : State) (c : Ctx) (rline : BitVec 27) (rslot : BitVec 3) : Option (Option Word) :=
  if rslot == 7#3 then some none
  else
    match offsetAt (lineOf c.q.offset) rline.toInt rslot.toNat (strideOf s c.k) with
    | some p => some (some p)
    | none => none

/-- Whether the trap split's active lanes disagree on a transfer: some transfer and some do not (R252). -/
def trapDisagrees (s : State) (c : Ctx) : Bool :=
  (s.warp c.k).trapMode && !noLanes c.live && c.act &&& ~~~c.live != 0#96

/-- The faults of target lines' fetches, each with its line and the lanes that go there, raised for the whole instruction:
the one that R220 records, and the lanes of every line, since none of them moves (R505; log 39). -/
def fetchFault (lanes : Lanes) (fs : List (BitVec 8 × A80 × Lanes)) (s : State) : Option PassResult :=
  (worstFetch fs).map (fun x =>
    let f : FaultInfo := { cause := x.1, va := x.2, lanes := lanes, named := fs.map (fun y => (y.2.1, 3)) }
    if x.1 == causePoison then .fault s f else .pageFault s f)

/-- The fetch of target lines, each of a plane and an offset with the lanes that go there: a miss of any makes the
instruction wait, and a fault of any stops it, before any lane moves (R505). -/
def fetchLines (k : Nat) (ts : List (Nat × Word × Lanes)) (s : State) : Option PassResult :=
  let ls := ts.map (fun t => (getLine s k t.1 t.2.1, t.2.2))
  let lanes := ts.foldl (fun m t => m ||| t.2.2) 0#96
  let missing := ls.filterMap (fun x => match x.1 with | .missing va => some va | _ => none)
  match fetchFault lanes (ls.filterMap (fun x => match x.1 with | .fault cause va => some (cause, va, x.2) | _ => none)) s with
  | some r => some r
  | none => if missing.isEmpty then none else some (.wait (missing.foldl (fun t va => freeze k va t) s))

/-- The live lanes that take part in a plane's pass of a word to come. -/
def lanesToCome (s : State) (c : Ctx) (h : Hdr) (p : Nat) : Lanes :=
  partNow (s.warp c.k) c.view c.q h p &&& (s.warp c.k).live

/-- The lanes of a pass that transfer, and the point named, joined to the issue (R238). Where the planes' words name
different points the one token takes that of the first pass that names one, since R255 and R241 do not say which
(DESIGN CHOICE; log 41). -/
def State.addMoves (s : State) (m : Lanes) (o : Word) (point : Option Word) : State :=
  s.modCur (fun q => { q with
    moves := q.moves ++ [(m, o)]
    point := match q.point with | some p => some p | none => point })

/-- The code pointer of the offset that follows (R232). -/
def linkOf (c : Ctx) : A80 := pointerOf (following c.q.offset)

/-- a63 written with the return pointer (R255, R256). -/
def writeLink (c : Ctx) (s : State) : State := s.modWarp c.k (fun w => w.setA 767 (linkOf c))

/-- The target lines of the direct transfers among the words still to pass, each in its plane, with the lanes that
transfer there (R250, R505). -/
def directTargets (s : State) (c : Ctx) : List (Nat × Word × Lanes) :=
  (c.q.todo.filterMap (fun p =>
    match planeInstr c.q p with
    | some (.bra h f) | some (.call h f) =>
      (offsetAt (lineOf c.q.offset) f.tline.toInt f.tslot.toNat (strideOf s c.k)).map
        (fun o => (p, o, lanesToCome s c h p))
    | _ => none)).filter (fun t => !noLanes t.2.2)

/-- The fetch of the target lines, before any lane moves: the line of every plane in which a lane transfers is fetched in
the first pass (R505; log 39). -/
def fetchTargets (c : Ctx) (s : State) : Option PassResult :=
  if c.q.took.isEmpty then fetchLines c.k (directTargets s c) s else none

/-- A direct transfer of a pass's lanes: the target's landing is checked in the pass's plane (R250,
R255). -/
def directTransfer (f : FC) (link : Bool) (c : Ctx) (s : State) : PassResult :=
  if trapDisagrees s c then .double s
  else
    match fetchTargets c s with
    | some r => r
    | none =>
      if noLanes c.live then .ok s
      else
        match offsetAt (lineOf c.q.offset) f.tline.toInt f.tslot.toNat (strideOf s c.k),
            pointOf s c f.rline f.rslot with
        | some o, some p =>
          match landing s c.k c.p o none with
          | .lands => .ok ((if link then writeLink c s else s).addMoves c.live o p)
          | .faults cause va => (fetchFault c.live [(cause, va, c.live)] s).getD (.wait s)
          | .waits va => .wait (freeze c.k va s)
          | _ => .fault s (plainFault causeTargetMask)
        | _, _ => .fault s (plainFault causeTargetMask)

/-- The planes of the passes to come that hold a lane of a set, each with those lanes. -/
def planesHolding (c : Ctx) (m : Lanes) : List (Nat × Lanes) :=
  (c.q.todo.map (fun p => (p, activeLanes c.view c.q p &&& m))).filter (fun x => !noLanes x.2)

/-- The outcome of an indirect landing whose lines are at hand, in several planes (R251): none when every plane
passes. -/
def indirectOutcome (ls : List Landing) (s : State) : Option PassResult :=
  let good := ls.filter (· == .lands)
  if good.length = ls.length then none
  else if !good.isEmpty then some (.fault s (plainFault causePlaneSkew))
  else if ls.any (· == .badPad) then some (.fault s (plainFault causePadTag))
  else some (.fault s (plainFault causeTargetMask))

/-- An indirect transfer of the lanes of every occupied plane (R251, R256). -/
def indirectTransfer (f : FCX) (pad : Option (BitVec 7)) (link : Bool) (c : Ctx) (s : State) : PassResult :=
  if noLanes c.live then .ok s
  else if trapDisagrees s c then .double s
  else
    let a := c.view.aval f.a.toNat
    let o := a.setWidth 32
    if a.toNat ≥ 2 ^ 32 || slotNum o ≥ 5 || !offsetInRange s c.k o then .fault s (plainFault causeTargetMask)
    else
      match pointOf s c f.rline f.rslot with
      | none => .fault s (plainFault causeTargetMask)
      | some p =>
        let ps := planesHolding c c.live
        match fetchLines c.k (ps.map (fun x => (x.1, o, x.2))) s with
        | some r => r
        | none =>
          match indirectOutcome (ps.map (fun x => landing s c.k x.1 o pad)) s with
          | some r => r
          | none => .ok ((if link then writeLink c s else s).addMoves c.live o p)

/-! ## The instructions -/

def execNop (h : Hdr) (bits : BitVec 72) (s : State) : Host.Outcome State Fault Refusal :=
  runPass (.nop h bits) .vec (fun _ s => .ok s) s

def execPad (h : Hdr) (f : FC) (s : State) : Host.Outcome State Fault Refusal :=
  runPass (.pad h f) .vec (fun _ s => .ok s) s

def execBra (h : Hdr) (f : FC) (s : State) : Host.Outcome State Fault Refusal :=
  runPass (.bra h f) .vec (directTransfer f false) s

def execBrx (h : Hdr) (f : FCX) (s : State) : Host.Outcome State Fault Refusal :=
  runPass (.brx h f) .once (indirectTransfer f (some f.tag) false) s

def execCall (h : Hdr) (f : FC) (s : State) : Host.Outcome State Fault Refusal :=
  runPass (.call h f) .vec (directTransfer f true) s

def execCallx (h : Hdr) (f : FCX) (s : State) : Host.Outcome State Fault Refusal :=
  runPass (.callx h f) .once (indirectTransfer f (some f.tag) true) s

def execRet (h : Hdr) (f : FCX) (s : State) : Host.Outcome State Fault Refusal :=
  runPass (.ret h f) .once (indirectTransfer f none false) s

/-- EXIT: the lanes that take part leave; in trap mode it is a double fault, whether or not a lane takes part
(R258). -/
def execExit (h : Hdr) (f : FX) (s : State) : Host.Outcome State Fault Refusal :=
  runPass (.exit h f) .vec (fun c s =>
    if (s.warp c.k).trapMode then .double s
    else if noLanes c.live then .ok s
    else .ok (gangBreak c.k (s.modWarp c.k (fun w => w.leave c.live)))) s

/-- JOIN: a token over every member, then the following offset (R257). -/
def execJoin (h : Hdr) (f : FC) (s : State) : Host.Outcome State Fault Refusal :=
  runPass (.join h f) .once (fun c s =>
    match pointOf s c f.rline f.rslot with
    | some (some p) =>
      if (s.warp c.k).trapMode || noLanes c.live then .ok s
      else
        match (s.warp c.k).pushToken c.e p with
        | some w => .ok (s.setWarp c.k w)
        | none => .ok (countWarp 0x06 1 c.k s)
    | _ => .fault s (plainFault causeTargetMask)) s

/-- YIELD: the split, in trap mode the trap split, is not selected again until another has issued, or 32 cycles have
passed (R259). -/
def execYield (h : Hdr) (f : FX) (s : State) : Host.Outcome State Fault Refusal :=
  runPass (.yield h f) .vec (fun c s =>
    if noLanes c.live then .ok s
    else .ok (s.modWarp c.k (fun w =>
      if w.trapMode then { w with trapSplit := w.trapSplit.map (fun t => { t with yielded := true, aged := false }) }
      else w.modSplit c.e (fun x => { x with yielded := true, aged := false })))) s

/-- The plane that PLANE gives a lane. -/
def planeFor (f : FX) (c : Ctx) (l : Nat) : Nat :=
  if f.ctl.getLsbD 2 then ((c.view.src c.e f.e0.toNat).word l).toNat % 4 else f.ctl.toNat % 4

/-- The lanes of a set that PLANE sends to a plane. -/
def sentTo (f : FX) (c : Ctx) (m : Lanes) (p : Nat) : Lanes := m &&& mkLanes (fun l => planeFor f c l == p)

/-- The lines on which the lanes land that a PLANE's passes to come send to another plane, with those lanes (R250,
R505). -/
def planeTargets (s : State) (c : Ctx) : List (Nat × Word × Lanes) :=
  let o := following c.q.offset
  if !offsetInRange s c.k o then []
  else (c.q.todo.flatMap (fun p =>
    match planeInstr c.q p with
    | some (.plane h f) =>
      ((List.range (s.warpLaunch c.k).info.planeCount).filter (· != p)).map
        (fun n => (n, o, sentTo f c (lanesToCome s c h p) n))
    | _ => [])).filter (fun t => !noLanes t.2.2)

/-- PLANE: each active lane takes its new plane when the instruction ends; the lines on which lanes land are fetched in
the first pass (R260, R505). -/
def execPlane (h : Hdr) (f : FX) (s : State) : Host.Outcome State Fault Refusal :=
  runPass (.plane h f) .vec (fun c s =>
    if (s.warp c.k).trapMode then .double s
    else
      match (if c.q.took.isEmpty then fetchLines c.k (planeTargets s c) s else none) with
      | some r => r
      | none =>
        let n := (s.warpLaunch c.k).info.planeCount
        if (lanesOf c.live).any (fun l => n ≤ planeFor f c l) then .fault s (plainFault causePlaneSkew)
        else
          let ps := (List.range 4).filter (fun p => sentTo f c c.live p != 0#96)
          let o := following c.q.offset
          let others := ps.filter (· != c.p)
          if !others.isEmpty && !offsetInRange s c.k o then .fault s (plainFault causeTargetMask)
          else
            match fetchLines c.k (others.map (fun p => (p, o, sentTo f c c.live p))) s with
            | some r => r
            | none =>
              if others.any (fun p => landing s c.k p o none != .lands) then .fault s (plainFault causeTargetMask)
              else .ok (s.modCur (fun q => { q with shifts := q.shifts ++ ps.map (fun p => (sentTo f c c.live p, p)) }))) s

/-- The line that goes when a core's instruction cache, of 2,048 lines, is full: the next one in the circular order of
addresses (log 14). -/
def icacheVictim (c : Core) : Option Nat :=
  if c.icache.length < 2048 then none
  else match c.icache.find? (fun x => c.icacheNext ≤ x.1) with
    | some x => some x.1
    | none => c.icache.head?.map (·.1)

/-- A line read through its home slice into the core's instruction cache (R3, R248, R261). -/
def icacheFill (g key : Nat) (tkey : BitVec 8) (s : State) : State :=
  let s1 := (List.range 16).foldl (fun t i => resolveMem (64 * key + 4 * i) t) (touchHome (64 * key) tkey s)
  let bits : BitVec 512 := BitVec.ofNat 512 (leValue (mgets s1.mem (64 * key) 64))
  s1.modCore g (fun c =>
    let c1 := match (tget c.icache key), icacheVictim c with
      | none, some v => { c with icache := tdel c.icache v, icacheNext := v + 1 }
      | _, _ => c
    { c1 with icache := tput c1.icache key bits })

/-- A line that IPREF asks for at a place: of KIND 0 to 2, and not poisoned on access (R261, R284). -/
def codePrefetch (g : Nat) (p : Place) (tkey : BitVec 8) (s : State) : State :=
  if p.poa || 2 < keyKind p.key then s else icacheFill g (p.key / 64) tkey s

/-- One line requested by IPREF, which needs no permission: skipped when it lies outside the plane's code or has no
translation; the instruction does not wait for a walk, which brings the line when it ends (R261, R284, R286). -/
def prefetchCode (c : Ctx) (line : Int) (s : State) : State :=
  if line < 0 || line ≥ 2 ^ 29 then s
  else
    let o : Word := BitVec.ofNat 32 (8 * line.toNat)
    if !offsetInRange s c.k o then s
    else
      let l := s.warpLaunch c.k
      let g := coreOf c.k
      let va := codeAddr s c.k c.p o
      match translate s g l va .prefetch with
      | .ok p => codePrefetch g p l.tkey s
      | .miss => joinWalk g l (va.toNat / 2 ^ 16) (fun v => { v with lines := v.lines ++ [(g, va.toNat)] }) s
      | _ => s

/-- IPREF: the lines named come into the instruction cache (R261). -/
def execIpref (h : Hdr) (f : FC) (s : State) : Host.Outcome State Fault Refusal :=
  runPass (.ipref h f) .vec (fun c s =>
    if noLanes c.live then .ok s
    else .ok ((List.range (f.tag.toNat + 1)).foldl (fun s (i : Nat) =>
      prefetchCode c ((lineOf c.q.offset : Int) + f.tline.toInt + (i : Int)) s) s)) s

/-- WSET: each plane pass replaces the working set, whether or not a lane of the plane is active; nothing issues
until registers not staged yet are (R91, R93). A split with no active lane at all has no effect (R238). -/
def execWset (h : Hdr) (f : FW) (s : State) : Host.Outcome State Fault Refusal :=
  runPass (.wset h f) .vec (fun c s =>
    if noLanes (((s.warp c.k).execMask c.e) &&& (s.warp c.k).live) then .ok s
    else .ok (replaceSet c.k (f.used.map (fun r => { base := r.1, len := r.2 })) s)) s

/-- REP: its repetitions follow, each a step of its own (R263). -/
def execRep (h : Hdr) (f : FP) (s : State) : Host.Outcome State Fault Refusal :=
  runPass (.rep h f) .once (fun c s =>
    .moved (s.modWarp c.k (fun w =>
      if w.trapMode then { w with trapSplit := w.trapSplit.map (fun t => { t with inRep := true, repJ := 0 }) }
      else w.modSplit c.e (fun x => { x with inRep := true, repJ := 0 })))) s

end Sys2Proof.Machine
end

