-- ==== Sys2Proof/Machine/VectorFloat.lean ====
section
/-!
DEFINITION. Machine/VectorFloat.lean: floating-point arithmetic, special functions and conversions
(R159 to R176).
-/

namespace Sys2Proof.Machine

open Sys2Proof

/-! ## Shared operations -/

/-- A word from n elements of w bits, with the flags of all. -/
def floatWord (w n : Nat) (g : Nat → Nat × FFlags) : Word × FFlags :=
  let rs := (List.range n).map g
  (BitVec.ofNat 32 (packElems w (rs.map (·.1))), rs.foldl (fun a r => a ||| r.2) 0#5)

/-- The flags of the live lanes that take part; helper lanes set none (R133). -/
def laneFlags (c : Ctx) (g : Nat → Word × FFlags) : FFlags :=
  (lanesOf c.live).foldl (fun a l => a ||| (g l).2) 0#5

/-- A vector result with flags, written in the lanes that take part (R134, R161). -/
def putFloat (c : Ctx) (d : RCode) (tag : BitVec 4) (g : Nat → Word × FFlags) (s : State) : PassResult :=
  .ok (s.modWarp c.k (fun w =>
    (c.putV d.toNat tag c.part (fun l => (g l).1) 0#96 w).orFlags (laneFlags c g)))

/-- A predicate result with flags. -/
def putFloatPred (c : Ctx) (d : RCode) (g : Nat → Bool × FFlags) (s : State) : PassResult :=
  .ok (s.modWarp c.k (fun w =>
    (w.setP d.toNat c.part (mkLanes (fun l => (g l).1))).orFlags
      ((lanesOf c.live).foldl (fun a l => a ||| (g l).2) 0#5)))

/-- An integer zero has no sign (R172). -/
def plainZero (fmt : BitVec 4) (x : FVal) : FVal :=
  match x with
  | .fin b m e => .fin (b && !(isIntFmt fmt && m = 0)) m e
  | y => y

/-- Element e of lane l of a source of a format, as an exact value with its modifiers (R51). -/
def floatElem (fmt : BitVec 4) (a n : BitVec 1) (x : Src) (l e : Nat) : FVal :=
  plainZero fmt (fmods a n (elemVal fmt (elemBits (fmtWidth fmt) (x.word l) e)))

/-- Floating-point arithmetic on the modified sources, finished by SCALE, CLAMP and one rounding
(R162). -/
def floatEffect (h : Hdr) (f : FV) (op : FVal → FVal → FVal → FVal × FFlags) (c : Ctx) (s : State) :
    PassResult :=
  let a := c.srcOf f.a
  let b := c.srcOf f.b
  let x := c.srcOf f.c
  putFloat c f.d h.fmt (fun l => floatWord (fmtWidth h.fmt) (fmtElems h.fmt) (fun e =>
    let (v, f1) := op (floatElem h.fmt f.aa f.na a l e) (floatElem h.fmt f.ab f.nb b l e)
      (floatElem h.fmt f.ac f.nc x l e)
    let (r, f2) := finishVal v h.fmt f.scale.toInt f.clamp.toNat f.rnd.toNat
    (r, f1 ||| f2))) s

/-! ## Arithmetic (R162 to R168) -/

def execFadd (h : Hdr) (f : FV) (s : State) : Host.Outcome State Fault Refusal :=
  runPass (.fadd h f) .vec (floatEffect h f (fun a b _ => sumVals [a, b] f.rnd.toNat)) s

def execFsub (h : Hdr) (f : FV) (s : State) : Host.Outcome State Fault Refusal :=
  runPass (.fsub h f) .vec (floatEffect h f (fun a b _ => sumVals [a, b.neg] f.rnd.toNat)) s

def execFmul (h : Hdr) (f : FV) (s : State) : Host.Outcome State Fault Refusal :=
  runPass (.fmul h f) .vec (floatEffect h f (fun a b _ => mulVals a b)) s

def execFfma (h : Hdr) (f : FV) (s : State) : Host.Outcome State Fault Refusal :=
  runPass (.ffma h f) .vec (floatEffect h f (fun a b x => dotVals x [(a, b)] f.rnd.toNat)) s

/-- FMIN and FMAX on the modified sources (R164). -/
def minMaxEffect (h : Hdr) (f : FV) (isMax : Bool) (c : Ctx) (s : State) : PassResult :=
  let a := c.srcOf f.a
  let b := c.srcOf f.b
  putFloat c f.d h.fmt (fun l => floatWord (fmtWidth h.fmt) (fmtElems h.fmt) (fun e =>
    minMax h.fmt isMax (floatElem h.fmt f.aa f.na a l e) (floatElem h.fmt f.ab f.nb b l e))) s

def execFmin (h : Hdr) (f : FV) (s : State) : Host.Outcome State Fault Refusal :=
  runPass (.fmin h f) .vec (minMaxEffect h f false) s

def execFmax (h : Hdr) (f : FV) (s : State) : Host.Outcome State Fault Refusal :=
  runPass (.fmax h f) .vec (minMaxEffect h f true) s

def execFcmp (h : Hdr) (f : FV) (s : State) : Host.Outcome State Fault Refusal :=
  runPass (.fcmp h f) .vec (fun c s =>
    let a := c.srcOf f.a
    let b := c.srcOf f.b
    putFloatPred c f.d (fun l =>
      let rs := (List.range (fmtElems h.fmt)).map (fun e =>
        fcmpVal (f.fn.toNat % 16) (floatElem h.fmt f.aa f.na a l e) (floatElem h.fmt f.ab f.nb b l e))
      (rs.all (·.1), rs.foldl (fun x r => x ||| r.2) 0#5)) s) s

def execFclass (h : Hdr) (f : FV) (s : State) : Host.Outcome State Fault Refusal :=
  runPass (.fclass h f) .vec (fun c s =>
    let a := c.srcOf f.a
    let m := c.view.sval c.e f.b.toNat
    putPred c f.d (fun l => (List.range (fmtElems h.fmt)).all (fun e =>
      m.getLsbD (classBit h.fmt (elemBits (fmtWidth h.fmt) (a.word l) e)))) s) s

/-- x rounded to an integral value of the format (R167). An infinity passes the rounding; CLAMP 3 then
limits it (R51, R120; log 34). -/
def roundIntegral (fmt : BitVec 4) (rnd clamp : Nat) (x : FVal) : Nat × FFlags :=
  match x with
  | .nan s => ((ffmt fmt).qnan, flagIf s flagNV)
  | .inf b => (if clamp == 3 then (ffmt fmt).maxBits b else (ffmt fmt).infBits b, 0#5)
  | .fin b m e =>
    let (n, exact) := roundGrid b m e 0 rnd
    let (r, fl) := toFmt (.fin b n 0) fmt rnd clamp
    (r, fl ||| flagIf (!exact) flagNX)

def execFrnd (h : Hdr) (f : FV) (s : State) : Host.Outcome State Fault Refusal :=
  runPass (.frnd h f) .vec (fun c s =>
    let a := c.srcOf f.a
    putFloat c f.d h.fmt (fun l => floatWord (fmtWidth h.fmt) (fmtElems h.fmt) (fun e =>
      roundIntegral h.fmt f.rnd.toNat f.clamp.toNat
        (scaleVal f.scale.toInt (floatElem h.fmt f.aa f.na a l e)))) s) s

def execFdot2 (h : Hdr) (f : FV) (s : State) : Host.Outcome State Fault Refusal :=
  runPass (.fdot2 h f) .vec (fun c s =>
    let a := c.srcOf f.a
    let b := c.srcOf f.b
    let x := c.srcOf f.c
    let t := cvtSrc f.fn
    putFloat c f.d h.fmt (fun l => floatWord 32 1 (fun _ =>
      let p (e : Nat) : FVal × FVal := (floatElem t f.aa f.na a l e, floatElem t f.ab f.nb b l e)
      let (v, f1) := dotVals (elemVal 6#4 (x.word l).toNat) [p 0, p 1] f.rnd.toNat
      let (r, f2) := finishVal v 6#4 f.scale.toInt f.clamp.toNat f.rnd.toNat
      (r, f1 ||| f2))) s) s

/-! ## Special functions (R169 to R171) -/

/-- A long-latency float result: the destination empties, and its lanes and flags are written at the
writeback (R104, R171); a pass without a lane only tags it, when another pass has one (R112). -/
def putSpecial (c : Ctx) (d : RCode) (tag : BitVec 4) (g : Nat → Word × FFlags) (s : State) : PassResult :=
  if noLanes c.part then .ok (if c.any then s.modWarp c.k (fun w => w.putTag d.toNat tag) else s)
  else
    let x : VWrite :=
      { reg := d.toNat, mask := c.part, words := mkWords (fun l => if c.part.getLsbD l then (g l).1 else 0#32),
        poison := 0#96 }
    let keep := isV d.toNat || isKv d.toNat
    .ok (s.modWarp c.k (fun w => w.produceV c.q.wb tag [d.toNat] (fun b =>
      { b with vwrites := if keep then b.vwrites ++ [x] else b.vwrites
               flags := b.flags ||| laneFlags c g, isFloat := true })))

/-- A special function of the modified source, element by element; choice indexes the value that R169
leaves open, by operation, format, source bits, SCALE and CLAMP (log 9). -/
def specialEffect (op : Nat) (h : Hdr) (f : FV) (g : FVal → Nat → Nat × FFlags) (c : Ctx) (s : State) :
    PassResult :=
  let a := c.srcOf f.a
  let w := fmtWidth h.fmt
  putSpecial c f.d h.fmt (fun l => floatWord w (fmtElems h.fmt) (fun e =>
    g (floatElem h.fmt f.aa f.na a l e)
      (Config.specialChoice (4 * op + 2 * f.na.toNat + f.aa.toNat) h.fmt.toNat
        (elemBits w (a.word l) e) f.scale.toNat f.clamp.toNat))) s

/-- FRCP and FSQRT: the exact function, rounded once under RND (R169). -/
def rootEffect (h : Hdr) (f : FV) (g : FVal → FVal × FFlags) (c : Ctx) (s : State) : PassResult :=
  let a := c.srcOf f.a
  putSpecial c f.d h.fmt (fun l => floatWord (fmtWidth h.fmt) (fmtElems h.fmt) (fun e =>
    let (v, f1) := g (floatElem h.fmt f.aa f.na a l e)
    let (r, f2) := finishVal v h.fmt f.scale.toInt f.clamp.toNat f.rnd.toNat
    (r, f1 ||| f2))) s

def execFrcp (h : Hdr) (f : FV) (s : State) : Host.Outcome State Fault Refusal :=
  runPass (.frcp h f) .vec (rootEffect h f frcpVal) s

def execFsqrt (h : Hdr) (f : FV) (s : State) : Host.Outcome State Fault Refusal :=
  runPass (.fsqrt h f) .vec (rootEffect h f fsqrtVal) s

def execFrsq (h : Hdr) (f : FV) (s : State) : Host.Outcome State Fault Refusal :=
  runPass (.frsq h f) .vec
    (specialEffect 0x69 h f (fun x n => frsqBits h.fmt x f.scale.toInt f.clamp.toNat n)) s

def execFexp2 (h : Hdr) (f : FV) (s : State) : Host.Outcome State Fault Refusal :=
  runPass (.fexp2 h f) .vec
    (specialEffect 0x6B h f (fun x n => fexp2Bits h.fmt x f.scale.toInt f.clamp.toNat n)) s

def execFlog2 (h : Hdr) (f : FV) (s : State) : Host.Outcome State Fault Refusal :=
  runPass (.flog2 h f) .vec
    (specialEffect 0x6C h f (fun x n => flog2Bits h.fmt x f.scale.toInt f.clamp.toNat n)) s

def execFsin (h : Hdr) (f : FV) (s : State) : Host.Outcome State Fault Refusal :=
  runPass (.fsin h f) .vec
    (specialEffect 0x6D h f (fun x n => fsinBits h.fmt x f.scale.toInt f.clamp.toNat n)) s

def execFcos (h : Hdr) (f : FV) (s : State) : Host.Outcome State Fault Refusal :=
  runPass (.fcos h f) .vec
    (specialEffect 0x6E h f (fun x n => fcosBits h.fmt x f.scale.toInt f.clamp.toNat n)) s

/-! ## Conversions (R172 to R176) -/

/-- cvt of R175: an element of the source format in the destination format (R172). -/
def convert (h : Hdr) (f : FV) (x : FVal) : Nat × FFlags :=
  finishVal x h.fmt f.scale.toInt f.clamp.toNat f.rnd.toNat

def execVcvt (h : Hdr) (f : FV) (s : State) : Host.Outcome State Fault Refusal :=
  runPass (.vcvt h f) .vec (fun c s =>
    let a := c.srcOf f.a
    putFloat c f.d h.fmt (fun l => floatWord (fmtWidth h.fmt) (fmtElems h.fmt) (fun e =>
      convert h f (floatElem (cvtSrc f.fn) f.aa f.na a l e))) s) s

def execVpack (h : Hdr) (f : FV) (s : State) : Host.Outcome State Fault Refusal :=
  runPass (.vpack h f) .vec (fun c s =>
    let a := c.srcOf f.a
    let b := c.srcOf f.b
    let x := c.srcOf f.c
    let t := cvtSrc f.fn
    let ns := fmtElems t
    let lo := 2 * ns * (fieldOf f.fn 4 4).toNat
    putFloat c f.d h.fmt (fun l => floatWord (fmtWidth h.fmt) (fmtElems h.fmt) (fun e =>
      if e < lo || lo + 2 * ns ≤ e then (elemBits (fmtWidth h.fmt) (x.word l) e, 0#5)
      else if e < lo + ns then convert h f (floatElem t f.aa f.na a l (e - lo))
      else convert h f (floatElem t f.ab f.nb b l (e - lo - ns)))) s) s

def execVunpk (h : Hdr) (f : FV) (s : State) : Host.Outcome State Fault Refusal :=
  runPass (.vunpk h f) .vec (fun c s =>
    let a := c.srcOf f.a
    let nd := fmtElems h.fmt
    let lo := nd * (fieldOf f.fn 4 4).toNat
    putFloat c f.d h.fmt (fun l => floatWord (fmtWidth h.fmt) nd (fun e =>
      convert h f (floatElem (cvtSrc f.fn) f.aa f.na a l (lo + e)))) s) s

end Sys2Proof.Machine
end

