-- ==== Sys2Proof/Machine/Matrix.lean ====
section
/-!
DEFINITION. Machine/Matrix.lean: accumulator memory, gangs and the matrix instructions, the matrix engine
and its batches (R370 to R396, R480, R481).
-/

namespace Sys2Proof.Machine

open Sys2Proof

/-! ## LDACC and STACC (R373 to R376) -/

/-- The word offset of a lane (R374). -/
def accOff (c : Ctx) (f : FM) (l : Nat) : Int :=
  ((c.view.sval c.e f.a.toNat).toNat : Int) + laneIndex c f false l * 2 ^ f.ish.toNat + fullOffset f

/-- An access of the lanes to accumulator memory: alignment, bounds, then every lane in ascending order. -/
def accAccess (c : Ctx) (f : FM) (doLane : Nat → Nat → State → List (Word × Bool) × State)
    (finish : List (Nat × List (Word × Bool)) → State → State) (s : State) : PassResult :=
  let n : Int := widthRegs f.width
  let xs := (lanesOf c.live).map (fun l => (l, accOff c f l))
  let mis := xs.filter (fun x => x.2 % n != 0)
  let out := xs.filter (fun x => x.2 < 0 || x.2 + n > ((s.warpLaunch c.k).info.accum : Int))
  match mis, out with
  | (_, va) :: _, _ =>
    .fault s { cause := causeAlignment, va := offsetVa va, lanes := lanesOfList (mis.map (·.1)) }
  | [], (_, va) :: _ =>
    .fault s { cause := causeAccum, va := offsetVa va, lanes := lanesOfList (out.map (·.1)) }
  | [], [] =>
    if !xs.isEmpty && (s.warp c.k).acquireOut then .wait s
    else
      let (rs, s1) := sharedLanes doLane xs s
      .ok (finish rs s1)

/-- n accumulator words of a team read, upsets resolved (R370). -/
def accFetch (t o n : Nat) (s : State) : List (Word × Bool) × State :=
  let s1 := (span o n).foldl (fun s a =>
    if (s.team t).image.isSome then s else resolveAcc (s.team t).core (accPhys (s.team t) a) s) s
  ((span o n).map (fun a => accRead (s1.team t) a s1), s1)

def execLdacc (h : Hdr) (f : FM) (s : State) : Host.Outcome State Fault Refusal :=
  runPass (.ldacc h f) .vec (fun c s =>
    let n := widthRegs f.width
    accAccess c f (fun _ o s => accFetch (s.warp c.k).team o n s) (finishVector c f true n) s) s

def execStacc (h : Hdr) (f : FM) (s : State) : Host.Outcome State Fault Refusal :=
  runPass (.stacc h f) .vec (fun c s =>
    let data := vectorData c f
    let n := widthRegs f.width
    accAccess c f (fun l o s =>
      let ws := wordsOf n (data l)
      ([], (List.range n).foldl (fun s j =>
        accWrite (s.warp c.k).team (o + j) ((lget ws j).getD 0#32) false s) s)) (fun _ s => s) s) s

/-! ## Batches (R394, R395, R480) -/

def Batch.open : Batch := { closed := false, commands := 0, flags := 0#5, sat := false, returned := false }

def Warp.batch (w : Warp) (n : BitVec 16) : Batch := (tget w.batches n.toNat).getD Batch.open

def Warp.setBatch (w : Warp) (n : BitVec 16) (b : Batch) : Warp :=
  { w with batches := tput w.batches n.toNat b }

/-- The batches closed and not complete. -/
def Warp.batchesOut (w : Warp) : Nat := (w.batchNext - 1#16 - w.batchDone).toNat

/-- DONE moves over every closed batch whose commands have completed (R394). -/
def Warp.batchAdvance : Nat → Warp → Warp
  | 0, w => w
  | n + 1, w =>
    let next := w.batchDone + 1#16
    if w.batchesOut != 0 && (w.batch next).closed && (w.batch next).commands == 0 then
      batchAdvance n { w with batchDone := next }
    else w

/-- A command joins the open batch of a warp; its number is NEXT (R394). -/
def Warp.batchJoin (w : Warp) : Warp :=
  let b := w.batch w.batchNext
  w.setBatch w.batchNext { b with commands := b.commands + 1 }

/-- A command of batch n has completed its writes (R388, R394). -/
def Warp.batchLeave (w : Warp) (n : BitVec 16) (flags : BitVec 5) (sat : Bool) : Warp :=
  let b := w.batch n
  (w.setBatch n { b with commands := b.commands - 1, flags := b.flags ||| flags, sat := b.sat || sat }).batchAdvance 64

/-- MBATCH closes the open batch; the one 65 back is no longer tracked (R394). -/
def Warp.closeBatch (w : Warp) : Warp :=
  let n := w.batchNext
  let w1 := w.setBatch n { w.batch n with closed := true }
  let w2 := { w1 with
    batchNext := n + 1#16
    batches := tdel (tdel w1.batches (n - 64#16).toNat) (n + 1#16).toNat }
  w2.batchAdvance 64

/-- The status word of a batch (R396). -/
def batchStatus (b : Batch) : Word := (if b.sat then 0x100#32 else 0#32) ||| b.flags.setWidth 32

/-- An instruction that takes effect when a live lane takes part, once a warp (R381). -/
def onceEffect (go : Ctx → State → PassResult) (c : Ctx) (s : State) : PassResult :=
  if noLanes c.live then .ok s else go c s

def execMbatch (h : Hdr) (f : FX) (s : State) : Host.Outcome State Fault Refusal :=
  runPass (.mbatch h f) .once (onceEffect (fun c s =>
    let w := s.warp c.k
    if 64 ≤ w.batchesOut then .wait s
    else .ok (s.modWarp c.k (fun w => w.closeBatch.setS c.e f.e0.toNat (w.batchNext.setWidth 32))))) s

/-- MWAIT (R395). -/
def mwaitEffect (f : FX) (c : Ctx) (s : State) : PassResult :=
  let w := s.warp c.k
  let n : BitVec 16 := if f.e1 == 643#10 then fieldOf f.ctl 0 16 else fieldOf (c.view.sval c.e f.e1.toNat) 0 16
  let d := (w.batchNext - n).toNat
  if d = 0 || 32768 < d then .fault s (plainFault causeBarrier)
  else if 64 < d then .ok (s.modWarp c.k (fun w => w.setS c.e f.e0.toNat 0x8000#32))
  else if d ≤ w.batchesOut then .wait s
  else
    let b := w.batch n
    .ok (s.modWarp c.k (fun w =>
      ((w.setBatch n { b with returned := true }).orFlags b.flags).setS c.e f.e0.toNat (batchStatus b)))

def execMwait (h : Hdr) (f : FX) (s : State) : Host.Outcome State Fault Refusal :=
  runPass (.mwait h f) .once (onceEffect (mwaitEffect f)) s

/-! ## Gangs and column masks (R377, R378, R385) -/

/-- The WARPIDs that MGANG lists. -/
def mgangList (f : FX) : List Nat :=
  ([fieldOf f.ctl 0 6, fieldOf f.ctl 8 6, fieldOf f.ctl 16 6, fieldOf f.ctl 24 6].map BitVec.toNat ++
    [f.e1.toNat, f.e2.toNat]).take f.e0.toNat

/-- Whether a list names nothing twice. -/
def noRepeat : List Nat → Bool
  | [] => true
  | x :: xs => !xs.contains x && noRepeat xs

/-- The slot of the team's maths warp with a WARPID, when it has not retired. -/
def mathsSlot (s : State) (t i : Nat) : Option Nat :=
  match s.warpNamed t i with
  | some k => if (s.warp k).role == 1#2 then some (slotOf k) else none
  | none => none

def execMgang (h : Hdr) (f : FX) (s : State) : Host.Outcome State Fault Refusal :=
  runPass (.mgang h f) .once (onceEffect (fun c s =>
    let ids := mgangList f
    let w := s.warp c.k
    let slots := ids.map (mathsSlot s w.team)
    if slots.any (·.isNone) || !noRepeat ids || (!ids.isEmpty && !ids.contains w.warpid) then
      .fault s (plainFault causeGang)
    else .ok (s.modWarp c.k (fun w => { w with gang := slots.filterMap id })))) s

def execMcolm (h : Hdr) (f : FX) (s : State) : Host.Outcome State Fault Refusal :=
  runPass (.mcolm h f) .once (onceEffect (fun c s =>
    let n := (fieldOf f.ctl 0 2).toNat
    let v := (c.view.sval c.e f.e0.toNat).toNat
    let m : BitVec 256 := if f.ctl.getLsbD 2 then BitVec.ofNat 256 (c.view.svals c.e f.e0.toNat 8)
      else (~~~(0#256)) <<< min v 256
    .ok (s.modWarp c.k (fun w => { w with mcols := tput w.mcols n m })))) s

/-! ## Operands (R382, R383) -/

/-- K of a format (R382). -/
def mmaK (fmt : BitVec 4) : Nat := 256 / fmtWidth fmt

/-- Element e of a lane's row of a fragment: packed, or plane-major for HS (R382). -/
def fragElem (fmt : BitVec 4) (regs : List VReg) (l e : Nat) : Nat :=
  let w := fmtWidth fmt
  let word (r : Nat) : Word := wordAt ((lget regs r).getD VReg.zero).words l
  if hsBits fmt = 0 then elemBits w (word (e / fmtElems fmt)) (e % fmtElems fmt)
  else bitsNat (fun b => (word (mmaK fmt / 32 * (w - 1 - b) + e / 32)).getLsbD (e % 32)) w

/-- Element (r, c) of a tile, with the poison of its word (R268). -/
def tileElem (s : State) (t : Nat) (x : Tile) (r c : Nat) : Nat × Bool :=
  let w := fmtWidth x.fmt
  let bs := (span (x.byteOf r c) ((w + 7) / 8)).flatMap (fun b => sharedRead (s.team t) (x.place b) 1 s)
  (leValue (bs.map (·.1)) / 2 ^ (c * w % 8) % 2 ^ w, bs.any (·.2))

/-- The upsets of n rows of a tile resolved, as an engine reads them (R88). -/
def resolveTile (t : Nat) (x : Tile) (r0 n : Nat) (s : State) : State :=
  (span r0 n).foldl (fun s r => (tileRead t x (128 * x.pitch * r) (128 * x.pitch) s).2) s

/-! ## MMA and MMAP (R379 to R389) -/

/-- The planes of A, or of B, that a matrix instruction reads (R386). -/
def planesRead (i : Instr) (b : Bool) : Nat :=
  match i with
  | .mmap _ f => (if b then fieldOf f.fn 5 3 else fieldOf f.fn 2 3).toNat + 1
  | _ => hsBits (Instr.hdr i).fmt

/-- The lanes of a member's rows that hold a poisoned A word, in any of its eight registers (R382, R389). -/
def poisonedRows (rows : Lanes) (regs : List VReg) : Lanes :=
  regs.foldl (fun m r => m ||| (r.poisonNow &&& rows)) 0#96

/-- The word of an element of D: its value, flags and saturation (R387, R388). -/
def mmaWord (i : Instr) (f : FV) (cw : Word) (as bs : List Nat) : Word × BitVec 5 × Bool :=
  let fmt := (Instr.hdr i).fmt
  if hsBits fmt = 0 then
    let sg (n : BitVec 1) (x : FVal) : FVal := if n == 1#1 then x.neg else x
    let ps := List.zipWith (fun a b => (sg f.na (elemVal fmt a), sg f.nb (elemVal fmt b))) as bs
    let (v, fl) := dotVals (sg f.nc (elemVal 6#4 cw.toNat)) ps 0
    let (r, fl2) := toFmt v 6#4 0 0
    (BitVec.ofNat 32 r, fl ||| fl2, false)
  else
    let k := hsBits fmt
    let pa := planesRead i false
    let pb := planesRead i true
    let code (n : BitVec 1) (p x : Nat) : Int :=
      let v : Int := signedOf k x
      (if n == 1#1 then -v - 1 else v) / 2 ^ (k - p)
    let c0 : Int := cw.toInt
    let sum := (List.zipWith (fun a b => (2 * code f.na pa a + 1) * (2 * code f.nb pb b + 1)) as bs).foldl
      (fun m x => m + x * 2 ^ (2 * k - pa - pb)) (if f.nc == 1#1 then -c0 else c0)
    let r := satInt sum (-(2 ^ 31)) (2 ^ 31 - 1)
    (BitVec.ofInt 32 r, 0#5, r != sum)

/-- The fields of a matrix multiplication. -/
def mmaFields (i : Instr) : FV :=
  match i with
  | .mma _ f | .mmap _ f => f
  | _ => { d := 0#10, a := 0#10, b := 0#10, c := 643#10, fn := 0#8, na := 0#1, aa := 0#1, nb := 0#1,
           ab := 0#1, nc := 0#1, ac := 0#1, clamp := 0#2, scale := 0#4, reuse := 0#1, rnd := 0#3, low := 0#8 }

/-- What a command writes: for each row and column that takes part, the word, its poison, its flags and
whether it saturated (R384, R387, R389). -/
def mmaWrites (s : State) (q : MatrixCmd) (i : Instr) : List ((Nat × Word × Bool) × BitVec 5 × Bool) :=
  let f := mmaFields i
  let fmt := (Instr.hdr i).fmt
  let x := s.tile q.team q.tile
  let n := x.dim0
  let ks := List.range (mmaK fmt)
  let cols := (List.range n).filter (fun c => !q.columns.getLsbD c)
  let bcols := cols.map (fun c => (c, ks.map (fun k => tileElem s q.team x k c)))
  (List.range q.members.length).flatMap (fun j =>
    match lget q.members j with
    | none => []
    | some m => (lanesOf m.rows).flatMap (fun l =>
        let as := ks.map (fragElem fmt m.regs l)
        bcols.map (fun b =>
          let o := n * (96 * j + l) + b.1
          let cw := if f.c == 643#10 then (0#32, false) else accRead (s.team q.team) (q.cbase + o) s
          let (v, fl, sat) := mmaWord i f cw.1 as (b.2.map (·.1))
          ((q.dbase + o, v, cw.2 || b.2.any (·.2)), fl, sat))))

/-- A member of a gang at the rendezvous: warp, entry, whether its REP has repetitions left, rows, A registers. -/
abbrev Joined := Nat × Nat × Bool × Lanes × List VReg

/-- Every joined member but one takes a fault of its own. -/
def gangFaultOthers (k : Nat) (r : Rendezvous) (js : List Joined) (f : Nat → FaultInfo) (s : State) : State :=
  let g := coreOf k
  let r1 := { r with joined := js.filter (fun m => m.1 != k) }
  gangFault g r1 f (s.modCore g (fun c => { c with
    rendezvous := c.rendezvous.filter (fun x => x.leader != r.leader) ++ [r1] }))

/-- The rendezvous entry kept, and the member waits. -/
def gangWait (k : Nat) (r : Rendezvous) (s : State) : State :=
  s.modCore (coreOf k) (fun c => { c with
    rendezvous := c.rendezvous.filter (fun x => x.leader != r.leader) ++ [r] })

/-- The gang of a warp; an empty GANG is the warp alone (R378). -/
def Warp.gangOf (w : Warp) (k : Nat) : List Nat := if w.gang.isEmpty then [slotOf k] else w.gang

/-- Whether a slot of a gang no longer holds a live warp of the team (R379). -/
def gangGone (s : State) (k slot : Nat) : Bool :=
  let j := 48 * coreOf k + slot
  (tget s.warps j).isNone || (s.warp j).retired || (s.warp j).team != (s.warp k).team

/-- The A-reuse latch after a matrix instruction (R103). -/
def Warp.reuseA (w : Warp) (f : FV) (regs : List VReg) : Warp :=
  { w with areuse := if f.reuse == 1#1 then some { base := f.a.toNat, regs := regs } else none }

/-- The command of a complete gang is queued, and the other members' splits advance (R379, R392, R394). -/
def mmaRelease (i : Instr) (k : Nat) (js : List Joined) (tile dbase cbase : Nat) (cols : BitVec 256)
    (s : State) : State :=
  let g := coreOf k
  let t := (s.warp k).team
  let (rd, s1) := readerIssues t tile s
  let ms : List MatrixRows := js.map (fun m =>
    { warp := m.1, rows := m.2.2.2.1, regs := m.2.2.2.2, batch := (s.warp m.1).batchNext })
  let q : MatrixCmd :=
    { op := .mma i, team := t, members := ms, tile := tile, reader := rd, dbase := dbase, cbase := cbase,
      columns := cols, started := false, writes := [], flags := 0#5, sat := false }
  let s2 := s1.modCore g (fun c => { c with matrix := c.matrix ++ [q] })
  let s3 := js.foldl (fun s m => s.modWarp m.1 (fun w => w.batchJoin.reuseA (mmaFields i) m.2.2.2.2)) s2
  js.foldl (fun s m => if m.1 = k then s else advanceHeld m.1 m.2.1 m.2.2.1 s) s3

/-- The checks of R380 once every member has joined, and the release. -/
def mmaChecks (i : Instr) (k : Nat) (r : Rendezvous) (js : List Joined) (s : State) : PassResult :=
  let f := mmaFields i
  let fmt := (Instr.hdr i).fmt
  let lk := 48 * coreOf k + r.leader
  let le := ((js.find? (fun m => m.1 == lk)).map (fun m => m.2.1)).getD 0
  let lw := s.warp lk
  let t := (s.warp k).team
  let h := lw.sval le f.b.toNat
  let x := s.tile t (handleIndex h)
  let rows := 96 * r.gang.length * x.dim0
  let dbase := (lw.sval le f.d.toNat).toNat
  let cbase := (lw.sval le f.c.toNat).toNat
  let accum := (s.launchOf t).info.accum
  let fails (c : BitVec 8) : PassResult :=
    .fault (gangFaultOthers k r js (fun _ => plainFault c) s) (plainFault c)
  let bad (m : Joined) : Lanes := poisonedRows m.2.2.2.1 m.2.2.2.2
  let badOf (j : Nat) : FaultInfo :=
    { cause := causePoison, va := 0#80,
      lanes := ((js.find? (fun m => m.1 == j)).map bad).getD 0#96 }
  match readerCheck s t h (some fmt) with
  | .stale => fails causeTile
  | .badTag => fails causeFormatTag
  | .waits => .wait (gangWait k { r with joined := js } s)
  | .issues =>
    if x.dim1 < mmaK fmt || 256 < x.dim0 then fails causeTile
    else if accum < dbase + rows || (f.c != 643#10 && accum < cbase + rows) then fails causeAccum
    else if js.any (fun m => !noLanes (bad m)) then
      .fault (gangFaultOthers k r js badOf s) (badOf k)
    else if 16 ≤ (s.core (coreOf k)).matrix.length then .wait (gangWait k { r with joined := js } s)
    else
      let s1 := s.modCore (coreOf k) (fun c => { c with
        rendezvous := c.rendezvous.filter (fun y => y.leader != r.leader) })
      .ok (mmaRelease i k js (handleIndex h) dbase cbase
        ((tget lw.mcols (fieldOf f.fn 0 2).toNat).getD 0#256) s1)

/-- The members in list order. -/
def inGangOrder (k : Nat) (gang : List Nat) (js : List Joined) : List Joined :=
  gang.filterMap (fun n => js.find? (fun m => m.1 == 48 * coreOf k + n))

/-- Whether an instruction is the second of a pair whose first has planes left: in the order of the slots it goes after
them (R39, R379). -/
def Ctx.behindFirst (c : Ctx) : Bool := c.q.mate.any (fun m => !m.second && !m.todo.isEmpty)

/-- MMA and MMAP at one member, once no acquire of the warp is out: the leader's own scalars, the rendezvous, and the
release when the last member joins (R367, R379, R380). -/
def mmaEffect (i : Instr) (c : Ctx) (s : State) : PassResult :=
  let f := mmaFields i
  let w := s.warp c.k
  let gang := w.gangOf c.k
  let leader := gang.headD (slotOf c.k)
  let fs := mmaScalars f
  let self := leader == slotOf c.k
  let entry := (s.core (coreOf c.k)).rendezvous.find? (fun r => r.leader == leader)
  let r := entry.getD { leader := leader, word := i, gang := gang, joined := [] }
  let me : Joined := (c.k, c.e, (nextRep c.q).isSome, c.live, (span f.a.toNat 8).map (fun n => c.view.vreg n))
  let js := r.joined.filter (fun m => m.1 != c.k)
  if w.acquireOut || c.behindFirst then .wait s
  else if r.word != i || r.gang != gang || gang.any (gangGone s c.k) then
    .fault (gangFaultOthers c.k r js (fun _ => plainFault causeGang) s) (plainFault causeGang)
  else
    match (if self then emptyCheck w c.h fs [] else .go) with
    | .trap => .fault s (plainFault causeEmptyRegister)
    | .wait => .wait s
    | .go =>
      if self && poisonScalar c.view fs then .fault s (plainFault causePoison)
      else if js.length + 1 < gang.length then .wait (gangWait c.k { r with joined := js ++ [me] } s)
      else mmaChecks i c.k r (inGangOrder c.k gang (js ++ [me])) s

def execMma (h : Hdr) (f : FV) (s : State) : Host.Outcome State Fault Refusal :=
  runPass (.mma h f) .once (mmaEffect (.mma h f)) s

def execMmap (h : Hdr) (f : FV) (s : State) : Host.Outcome State Fault Refusal :=
  runPass (.mmap h f) .once (mmaEffect (.mmap h f)) s

/-! ## MLDA and MZERO (R390, R391) -/

/-- The row of a fragment that MLDA builds: each element with its poison; beyond the tile's edges zero. -/
def mldaRow (s : State) (t : Nat) (x : Tile) (fmt : BitVec 4) (r col0 : Nat) : List (Nat × Bool) :=
  (List.range (mmaK fmt)).map (fun e =>
    if r < x.dim1 && col0 + e < x.dim0 then tileElem s t x r (col0 + e) else (0, false))

/-- Word r of a row of a fragment, with its poison (R382). -/
def fragWord (fmt : BitVec 4) (row : List (Nat × Bool)) (r : Nat) : Word × Bool :=
  let w := fmtWidth fmt
  if hsBits fmt = 0 then
    let es := (row.drop (r * fmtElems fmt)).take (fmtElems fmt)
    (BitVec.ofNat 32 (packElems w (es.map (·.1))), es.any (·.2))
  else
    let per := mmaK fmt / 32
    let es := (row.drop (r % per * 32)).take 32
    let bit := w - 1 - r / per
    (BitVec.ofNat 32 (bitsNat (fun i => ((lget es i).getD (0, false)).1.testBit bit) 32), es.any (·.2))

/-- MLDA, once no acquire of the warp is out: the tile's checks, and the wait on a FILLING one, whatever the predicate; then
each lane that takes part gets its row, a helper lane zero, as of a load (R13, R114, R367, R390). -/
def mldaEffect (h : Hdr) (f : FX) (c : Ctx) (s : State) : PassResult :=
  let t := (s.warp c.k).team
  let hd := c.view.sval c.e f.e1.toNat
  let rc := c.view.sval c.e f.e2.toNat
  let row0 := (fieldOf rc 0 16).toNat
  let col0 := (fieldOf rc 16 16).toNat
  if (s.warp c.k).acquireOut then .wait s else
  match readerCheck s t hd (some h.fmt) with
  | .stale => .fault s (plainFault causeTile)
  | .badTag => .fault s (plainFault causeFormatTag)
  | .waits => .wait s
  | .issues =>
    if !c.any then .ok s else
    let i := handleIndex hd
    let (rd, s1) := readerIssues t i s
    let s2 := s1.modCore (coreOf c.k) (fun y => { y with
      readers := y.readers.map (fun r => if r.id = rd then { r with finished := true } else r) })
    let x := s2.tile t i
    let s3 := resolveTile t x row0 (min 96 (x.dim1 - row0)) s2
    let n := mldaRegs h.fmt (fieldOf f.ctl 0 4).toNat
    let rows := (lanesOf c.live).map (fun l => (l, mldaRow s3 t x h.fmt (row0 + l) col0))
    let rs := rows.map (fun r => (r.1, (List.range n).map (fragWord h.fmt r.2)))
    .ok (s3.modWarp c.k (fun w => w.produceV c.q.wb h.fmt (span f.e0.toNat n) (fun b =>
      { b with vwrites := b.vwrites ++ laneWrites f.e0.toNat n c.part rs })))

def execMlda (h : Hdr) (f : FX) (s : State) : Host.Outcome State Fault Refusal :=
  runPass (.mlda h f) .once (mldaEffect h f) s

def execMzero (h : Hdr) (f : FX) (s : State) : Host.Outcome State Fault Refusal :=
  runPass (.mzero h f) .once (onceEffect (fun c s =>
    let base := (c.view.sval c.e f.e0.toNat).toNat
    let n := (c.view.sval c.e f.e1.toNat).toNat
    let t := (s.warp c.k).team
    if (s.launchOf t).info.accum < base + n then .fault s (plainFault causeAccum)
    else if n = 0 then .ok s
    else if (s.warp c.k).acquireOut || 16 ≤ (s.core (coreOf c.k)).matrix.length then .wait s
    else
      let q : MatrixCmd :=
        { op := .zero base n, team := t,
          members := [{ warp := c.k, rows := 0#96, regs := [], batch := (s.warp c.k).batchNext }],
          tile := 0, reader := 0, dbase := base, cbase := 0, columns := 0#256, started := false,
          writes := [], flags := 0#5, sat := false }
      .ok ((s.modCore (coreOf c.k) (fun y => { y with matrix := y.matrix ++ [q] })).modWarp c.k Warp.batchJoin))) s

/-! ## The engine (R392) -/

/-- The accumulator words that a command reads, resolved. -/
def resolveCommand (q : MatrixCmd) (n : Nat) (s : State) : State :=
  (accFetch q.team q.cbase (96 * q.members.length * n) s).2

/-- A command that starts reads its operands and computes its writes; its tile is read (R271, R387). -/
def startCommand (g : Nat) (q : MatrixCmd) (s : State) : MatrixCmd × State :=
  match q.op with
  | .zero base n =>
    ({ q with started := true, writes := (span base n).map (fun a => (a, 0#32, false)) }, s)
  | .mma i =>
    let x := s.tile q.team q.tile
    let s1 := resolveTile q.team x 0 (mmaK (Instr.hdr i).fmt) s
    let s2 := if (mmaFields i).c == 643#10 then s1 else resolveCommand q x.dim0 s1
    let ws := mmaWrites s2 q i
    ({ q with started := true, writes := ws.map (·.1),
              flags := ws.foldl (fun f w => f ||| w.2.1) 0#5, sat := ws.any (·.2.2) },
      s2.modCore g (fun c => { c with
        readers := c.readers.map (fun r => if r.id = q.reader then { r with finished := true } else r) }))

/-- MATRIX_COMMAND_START: the head of the queue starts (R392). -/
def execMatrixCommandStart (core : Nat) (s : State) : Host.Outcome State Fault Refusal :=
  match (s.core core).matrix with
  | q :: rest =>
    if q.started then .next s
    else
      let (q1, s1) := startCommand core q s
      .next (s1.modCore core (fun c => { c with matrix := q1 :: rest }))
  | [] => .next s

/-- MATRIX_COMMAND_COMPLETE: the writes take place, and each member's batch counts the command
(R392, R394). -/
def execMatrixCommandComplete (core : Nat) (s : State) : Host.Outcome State Fault Refusal :=
  match (s.core core).matrix with
  | q :: rest =>
    if !q.started then .next s
    else
      let s1 := q.writes.foldl (fun s w => accWrite q.team w.1 w.2.1 w.2.2 s) s
      let s2 := q.members.foldl (fun s m =>
        if (s.warp m.warp).team = q.team then s.modWarp m.warp (fun w => w.batchLeave m.batch q.flags q.sat) else s) s1
      .next (s2.modCore core (fun c => { c with matrix := rest }))
  | [] => .next s

/-- READER_FINISH: an engine that has read its tile counts no more (R271). -/
def execReaderFinish (core i : Nat) (s : State) : Host.Outcome State Fault Refusal :=
  match lget (s.core core).readers i with
  | some r =>
    if !r.finished then .next s
    else
      let dec (x : Tile) : Tile := ({ x with readers := x.readers - 1 } : Tile).due
      .next (s.modCore core (fun c => { c with
        readers := ldel c.readers i
        tiles := match tget c.tiles r.tile with | some x => tput c.tiles r.tile (dec x) | none => c.tiles }))
  | none => .next s

end Sys2Proof.Machine
end

