-- ==== Sys2Proof/Machine/Engine.lean ====
section
/-!
DEFINITION. Machine/Engine.lean: the memory accesses that engines make for a launch, and the reads of
descriptors that instructions wait for (R218, R284, R367, R398, R412).
-/

namespace Sys2Proof.Machine

open Sys2Proof

/-! ## Places of an engine's access -/

/-- Where an engine's access of a launch goes. -/
inductive EnginePlace where
  | here (p : Place)
  | silent
  | fault (cause : BitVec 8)
  /-- An entry of a walk cannot be read, in a package and die (R218, R283). -/
  | bad (p d : Nat)
  | stall
deriving DecidableEq, Repr

/-- What the gateway answers, as an engine or a front end takes it. -/
def EnginePlace.ofFabric : FabricPlace → EnginePlace
  | .place q => .here q
  | .refused => .fault causeProtection
  | .silent => .silent
  | .stall => .stall
  | .bad n d => .bad n d

/-- The translation of an engine's access, its walk made at once; a KIND 4 address is followed to its
target, through the gateway of the core's die (R318, R412, R436, R437; log 6). -/
def enginePlace (g : Nat) (l : Launch) (va : A80) (a : Access) (s : State) : EnginePlace × State :=
  match translateNow s g l.root l.asn l.tkey va a with
  | (.ok p, _, t) =>
    if keyKind p.key = 4 then
      let (x, t1) := farPlace g l.tkey p a t
      (EnginePlace.ofFabric x, t1)
    else (.here p, t)
  | (.fault c, bad, t) => (if bad then .bad (pkgOf g) (dieOf g) else .fault c, t)
  | (_, _, t) => (.stall, t)

/-- The pieces of a run of bytes that lie in one 128-byte line each. -/
def linePieces : Nat → A80 → Nat → List (A80 × Nat)
  | 0, _, _ => []
  | k + 1, va, n =>
    if n = 0 then []
    else
      let m := min n (128 - va.toNat % 128)
      (va, m) :: linePieces k (va + BitVec.ofNat 80 m) (n - m)

def piecesOf (va : A80) (n : Nat) : List (A80 × Nat) := linePieces (n / 128 + 2) va n

/-- Bytes at a place read at their home slice (R293). -/
def slicePlaceRead (tkey : BitVec 8) (p : Place) (n : Nat) (s : State) : List (Byte × Bool) × State :=
  let s1 := (List.range ((n + 3) / 4)).foldl (fun t i => resolveMem (p.key + 4 * i) t) (touchHome p.key tkey s)
  let bs := homeRead p.key n s1
  (if p.poa then bs.map (fun b => (b.1, true)) else bs, s1)

/-- Bytes at a place as an engine of core g reads them: the home slice's, with the dirty bytes of the
core's own L1; those that the gateway reaches at their target's slice alone (R318, R367). -/
def engineRead (g : Nat) (l : Launch) (p : Place) (n : Nat) (s : State) : List (Byte × Bool) × State :=
  if p.far then slicePlaceRead l.tkey p n s
  else globalRead g (s.clusterFused g) p n .atSlice l.tkey s

/-- Bytes that an engine of core g writes, with their poison: to the home slice, and clean into a copy
that the core's own L1 holds (R218, R367). -/
def engineWrite (g : Nat) (l : Launch) (p : Place) (bs : List (Byte × Bool)) (s : State) : State :=
  if keyKind p.key = 3 then busPost (pkgOf g) p (bs.map (·.1)) s
  else
    let s1 := homeMove p.key bs (touchHome p.key l.tkey s)
    if p.far then s1 else l1TakeClean (l1Core g (s.clusterFused g) p.key) p.key bs s1

/-- What an engine's access to a run of bytes finds. -/
inductive EngineAns where
  | bytes (bs : List (Byte × Bool))
  | fault (cause : BitVec 8) (va : A80)
  | bad (p d : Nat)
  | stall

/-- The pieces of a run read one after the other; an unanswered fabric read is poisoned (R438). -/
def readPieces (g : Nat) (l : Launch) : List (A80 × Nat) → State → EngineAns × State
  | [], s => (.bytes [], s)
  | (va, n) :: xs, s =>
    match enginePlace g l va .read s with
    | (.here p, s1) =>
      let (bs, s2) := engineRead g l p n s1
      match readPieces g l xs s2 with
      | (.bytes cs, s3) => (.bytes (bs ++ cs), s3)
      | r => r
    | (.silent, s1) =>
      match readPieces g l xs s1 with
      | (.bytes cs, s3) => (.bytes (List.replicate n (0#8, true) ++ cs), s3)
      | r => r
    | (.fault c, s1) => (.fault c va, s1)
    | (.bad p d, s1) => (.bad p d, s1)
    | (.stall, s1) => (.stall, s1)

def readRun (g : Nat) (l : Launch) (va : A80) (n : Nat) (s : State) : EngineAns × State :=
  readPieces g l (piecesOf va n) s

/-- The translations of the pieces of a run for writing, made before any byte is written. -/
def writePlaces (g : Nat) (l : Launch) : List (A80 × Nat) → State →
    Except EngineAns (List (EnginePlace × Nat)) × State
  | [], s => (.ok [], s)
  | (va, n) :: xs, s =>
    match enginePlace g l va .write s with
    | (.fault c, s1) => (.error (.fault c va), s1)
    | (.bad n d, s1) => (.error (.bad n d), s1)
    | (.stall, s1) => (.error .stall, s1)
    | (p, s1) =>
      match writePlaces g l xs s1 with
      | (.ok ps, s2) => (.ok ((p, n) :: ps), s2)
      | r => r

/-- Bytes written to places one after the other; an unanswered fabric write is dropped and counted
(R438). -/
def writeAt (g : Nat) (l : Launch) : List (EnginePlace × Nat) → List (Byte × Bool) → State → State
  | [], _, s => s
  | (p, n) :: ps, bs, s =>
    let s1 := match p with
      | .here q => engineWrite g l q (bs.take n) s
      | _ => countErrorAt 14 1 g s
    writeAt g l ps (bs.drop n) s1

/-- A run of bytes written whole, or nothing of it when a piece fails. -/
def writeRun (g : Nat) (l : Launch) (va : A80) (bs : List (Byte × Bool)) (s : State) : EngineAns × State :=
  match writePlaces g l (piecesOf va bs.length) s with
  | (.ok ps, s1) => (.bytes [], writeAt g l ps bs s1)
  | (.error e, s1) => (e, s1)

/-! ## Descriptor reads (R398) -/

/-- A warp without the descriptors that the instruction of a split has read. -/
def Warp.dropDesc (w : Warp) (e : Nat) : Warp := { w with desc := w.desc.filter (fun d => d.entry != e) }

/-- The outcome of an instruction that has used its descriptors; while it waits it keeps its copies. -/
def usedDesc (k e : Nat) (r : PassResult) : PassResult :=
  let f (s : State) : State := s.modWarp k (fun w => w.dropDesc e)
  match r with
  | .ok s => .ok (f s)
  | .moved s => .moved (f s)
  | .held s => .held (f s)
  | .wait s => .wait s
  | .part s m => .part s m
  | .fault s x => .fault (f s) x
  | .pageFault s x => .pageFault (f s) x
  | .double s => .double (f s)

/-- A warp that waits for the page of a descriptor, its other splits with it: a read of no bytes stands for the one to
come (R398). -/
def Warp.awaitDesc (w : Warp) (e : Nat) (va : A80) : Warp :=
  let r : DescRead := { entry := e, va := va, len := 0, returned := false, bytes := [], poisoned := false }
  if w.desc.contains r then w else { w with desc := w.desc ++ [r] }

/-- A warp that sends the read of a descriptor. -/
def Warp.askDesc (w : Warp) (e : Nat) (va : A80) (len : Nat) : Warp :=
  { w with desc := w.desc.filter (fun d => d.entry != e || d.len != 0) ++
      [{ entry := e, va := va, len := len, returned := false, bytes := [], poisoned := false }] }

/-- The addresses at which a descriptor's pages of 64 KiB begin, in it: a group descriptor may lie in two (R439). -/
def descPages (va : A80) (len : Nat) : List A80 :=
  va :: (List.range ((va.toNat % 65536 + len - 1) / 65536)).map (fun i =>
    BitVec.ofNat 80 (65536 * (va.toNat / 65536 + i + 1)))

/-- A descriptor of len bytes read at issue: alignment, the translation of each of its pages, and a stall of the warp
until the read returns; a poisoned word raises POISON-USE (R398, R446). TRAPVA names the descriptor, or the page of it
that fails (log 25). -/
def withDescriptor (c : Ctx) (va : A80) (len align : Nat) (go : List Byte → State → PassResult)
    (s : State) : PassResult :=
  let w := s.warp c.k
  let e := splitName w c.e
  let refuse (x : BitVec 8) (v : A80) : PassResult :=
    usedDesc c.k e (.pageFault s { cause := x, va := v, lanes := c.live })
  let wait (s : State) (x : A80) : PassResult := .wait (s.modWarp c.k (fun w => w.awaitDesc e x))
  if va.toNat % align != 0 then usedDesc c.k e (.fault s { cause := causeAlignment, va := va, lanes := 0#96 })
  else
    match w.desc.find? (fun d => d.entry == e && d.va == va && d.len == len) with
    | some d =>
      if !d.returned then .wait s
      else if d.poisoned then usedDesc c.k e (.fault s { cause := causePoison, va := 0#80, lanes := 0#96 })
      else usedDesc c.k e (go d.bytes s)
    | none =>
      if w.acquireOut then .wait s
      else
        match (descPages va len).findSome? (fun v => match laneTrans s c.k c.e v .read true with
            | .go _ | .fabric _ _ _ => none
            | x => some (v, x)) with
        | some (v, .fault x) => refuse x v
        | some (v, .miss) => wait (queueWalk c.k c.e v .read s) v
        | some (_, .bad p d) => .wait (stateErrorAt w.team p d s)
        | some (v, _) => wait s v
        | none => .wait (s.modWarp c.k (fun w => w.askDesc e va len))

/-- What the read of a descriptor finds. -/
inductive DescAns where
  | bytes (bs : List (Byte × Bool))
  | bad (p d : Nat)
  | stall
  | again

/-- The pieces of a descriptor read one after the other, through the core's L1 but for what the gateway or the bus
reaches; again when a translation no longer answers (R318, R398). -/
def readDescPieces (g : Nat) (l : Launch) : List (A80 × Nat) → State → DescAns × State
  | [], s => (.bytes [], s)
  | (va, n) :: xs, s =>
    let join (bs : List (Byte × Bool)) (r : DescAns × State) : DescAns × State :=
      match r with
      | (.bytes cs, t) => (.bytes (bs ++ cs), t)
      | r => r
    match enginePlace g l va .read s with
    | (.here p, s1) =>
      let fuse := s1.clusterFused g
      if p.far || 2 < keyKind p.key then
        let (bs, s2) := engineRead g l p n s1
        join bs (readDescPieces g l xs s2)
      else if l1Stalled s1 g fuse then (.stall, s1)
      else
        let (bs, s2) := globalRead g fuse p n (.cached 0#2) l.tkey s1
        join bs (readDescPieces g l xs s2)
    | (.silent, s1) => join (List.replicate n (0#8, true)) (readDescPieces g l xs s1)
    | (.stall, s1) => (.stall, s1)
    | (.bad p d, s1) => (.bad p d, s1)
    | (.fault _, s1) => (.again, s1)

def readDescriptor (k : Nat) (d : DescRead) (s : State) : DescAns × State :=
  readDescPieces (coreOf k) (s.warpLaunch k) (piecesOf d.va d.len) s

/-- DESCRIPTOR_READ_RETURN: the oldest read of a warp returns; one that can no longer be translated is
asked for again by its instruction (R398). -/
def execDescriptorReadReturn (warp : Nat) (s : State) : Host.Outcome State Fault Refusal :=
  match (s.warp warp).desc.find? (fun d => !d.returned && d.len != 0) with
  | none => .next s
  | some d =>
    match readDescriptor warp d s with
    | (.stall, s1) => .next s1
    | (.bytes bs, s1) =>
      .next (s1.modWarp warp (fun w => { w with desc := w.desc.map (fun e =>
        if e == d then { e with returned := true, bytes := bs.map (·.1), poisoned := bs.any (·.2) } else e) }))
    | (.bad p n, s1) => .next (stateErrorAt (s1.warp warp).team p n s1)
    | (.again, s1) => .next (s1.modWarp warp (fun w => { w with desc := w.desc.filter (· != d) }))

end Sys2Proof.Machine
end

