-- ==== Sys2Proof/Machine/Transform.lean ====
section
/-!
DEFINITION. Machine/Transform.lean: the transform pipe: XDEC, XSCAN, XSORT, XTOPK, XPLANE, the service of
its queue and its replies (R192 to R206).
-/

namespace Sys2Proof.Machine

open Sys2Proof

/-! ## Requests (R194, R195) -/

/-- Vector registers that a request writes, with their tags. -/
abbrev TagList := List (Nat × BitVec 4)

/-- A request sent to the pipe, once no acquire of the warp is out: its destinations are tagged and empty; a full queue
stalls (R194, R195, R367). -/
def sendRequest (c : Ctx) (i : Instr) (lanes : Lanes) (vsrcs : List VReg) (ssrcs : List Word)
    (vds : TagList) (sds : List Nat) (float : Bool) (s : State) : PassResult :=
  let g := coreOf c.k
  if (s.warp c.k).acquireOut || 8 ≤ (s.core g).pipe.length then .wait s
  else
    let r : XRequest :=
      { warp := c.k, wb := c.q.wb, instr := i, lanes := lanes, vsrcs := vsrcs, ssrcs := ssrcs, started := false }
    let s1 := s.modCore g (fun y => { y with pipe := y.pipe ++ [r] })
    .ok (s1.modWarp c.k (fun w =>
      let w1 := vds.foldl (fun w d => w.produceV c.q.wb d.2 [d.1] id) w
      let w2 := w1.produceS c.q.wb sds id
      let sw : List SWrite := (sds.filter isS).map (fun d => { entry := splitName w c.e, reg := d - 768, val := 0#32, poison := false })
      w2.modWb c.q.wb (fun b => { b with byPipe := true, isFloat := float, swrites := sw })))

/-- A register as the pipe reads it: absent lanes read zero (R85). -/
def Ctx.handed (c : Ctx) (n : Nat) : VReg :=
  let x := c.view.src c.e n
  { VReg.zero with words := mkWords x.word, poison := x.poison }

/-- Word of lane l of a request's source j. -/
def XRequest.word (r : XRequest) (j l : Nat) : Word := wordAt ((lget r.vsrcs j).getD VReg.zero).words l

/-- Scalar j of a request. -/
def XRequest.scalar (r : XRequest) (j : Nat) : Word := (lget r.ssrcs j).getD 0#32

/-- The writes of lanes of a register by a reply. -/
def laneWrite (reg : Nat) (xs : List (Nat × Word × Bool)) : VWrite :=
  let f (l : Nat) : Word × Bool := (tget xs l).getD (0#32, false)
  { reg := reg, mask := lanesOfList (xs.map (·.1)), words := mkWords (fun l => (f l).1),
    poison := mkLanes (fun l => (f l).2) }

/-- What a reply writes. -/
structure Reply where
  vwrites : List VWrite
  sregs : List (Nat × Word × Bool)
  flags : BitVec 5

/-! ## XDEC (R197 to R201) -/

/-- The code at bit 0 of a buffer of count bits: its value and length; none when it is incomplete or
malformed (R198). -/
def decodeCode (code k count buf : Nat) : Option (Nat × Nat) :=
  match code with
  | 0 => if k + 1 ≤ count then some (buf % 2 ^ (k + 1), k + 1) else none
  | 1 =>
    match firstBelow count (fun i => !buf.testBit i) with
    | some q =>
      if q + 1 + k ≤ count && q + 1 + k ≤ 32 then some (q * 2 ^ k + buf / 2 ^ (q + 1) % 2 ^ k, q + 1 + k)
      else none
    | none => none
  | _ =>
    match firstBelow count (fun i => buf.testBit i) with
    | some z =>
      if 2 * z + k + 1 ≤ count && 2 * z + k + 1 ≤ 32 then
        some (2 ^ (z + k) + buf / 2 ^ (z + 1) % 2 ^ (z + k) - 2 ^ k, 2 * z + k + 1)
      else none
    | none => none

/-- A lane of an XDEC step: buffer, count, stall, the poison of the two buffer words, and the value. -/
structure DecLane where
  lane : Nat
  buf : Nat
  count : Nat
  stall : Bool
  bad0 : Bool
  bad1 : Bool
  val : Nat

/-- The claims of a step, lane by lane: the lanes and the cursor. -/
def claimWords (t : Team) (s : State) (base len : Nat) : List DecLane → Nat → List DecLane × Nat
  | [], cur => ([], cur)
  | x :: xs, cur =>
    if x.count < 32 && cur < len then
      let bs := sharedRead t (base + 4 * cur) 4 s
      let bad := bs.any (·.2)
      let y := { x with buf := x.buf ||| leValue (bs.map (·.1)) * 2 ^ x.count, count := x.count + 32,
                        bad0 := x.bad0 || bad, bad1 := x.bad1 || (bad && x.count != 0) }
      let (ys, c) := claimWords t s base len xs (cur + 1)
      (y :: ys, c)
    else
      let (ys, c) := claimWords t s base len xs cur
      (x :: ys, c)

/-- A lane after its decode. -/
def decodeLane (code k : Nat) (x : DecLane) : DecLane :=
  match decodeCode code k x.count x.buf with
  | some (v, n) => { x with val := v, buf := x.buf / 2 ^ n, count := x.count - n, stall := false }
  | none => { x with stall := true }

/-- The values of the lanes that decoded, with the running carry under DELTA. -/
def deltaLanes (delta : Bool) : List DecLane → Word → Bool → List (Nat × Word × Bool) × Word × Bool
  | [], c, b => ([], c, b)
  | x :: xs, c, b =>
    if x.stall then deltaLanes delta xs c b
    else if delta then
      let c1 := c + BitVec.ofNat 32 x.val
      let b1 := b || x.bad0
      let (r, c2, b2) := deltaLanes delta xs c1 b1
      ((x.lane, c1, b1) :: r, c2, b2)
    else
      let (r, c2, b2) := deltaLanes delta xs c b
      ((x.lane, BitVec.ofNat 32 x.val, x.bad0) :: r, c2, b2)

/-- The reply of XDEC (R199). -/
def xdecReply (s : State) (r : XRequest) (f : FX) : Reply :=
  let t := s.warpTeam r.warp
  let lanes : List DecLane := (lanesOf r.lanes).map (fun l =>
    { lane := l, buf := (r.word 1 l ++ r.word 0 l : BitVec 64).toNat, count := (r.word 2 l).toNat % 128,
      stall := false, bad0 := false, bad1 := false, val := 0 })
  let (ls, cur) := claimWords t s (r.scalar 2).toNat (r.scalar 3).toNat lanes (r.scalar 0).toNat
  let ds := ls.map (decodeLane (fieldOf f.ctl 0 2).toNat (fieldOf f.ctl 2 5).toNat)
  let (vs, carry, bad) := deltaLanes (f.ctl.getLsbD 7) ds (r.scalar 1) false
  let b := f.e1.toNat
  { vwrites :=
      [laneWrite b (ds.map (fun x => (x.lane, BitVec.ofNat 32 x.buf, x.bad0))),
       laneWrite (b + 1) (ds.map (fun x => (x.lane, BitVec.ofNat 32 (x.buf / 2 ^ 32), x.bad1))),
       laneWrite (b + 2) (ds.map (fun x =>
         (x.lane, BitVec.ofNat 32 (x.count + (if x.stall then 2 ^ 31 else 0)), false))),
       laneWrite f.e0.toNat vs]
    sregs := [(f.e2.toNat, BitVec.ofNat 32 cur, false), (f.e2.toNat + 1, carry, bad)]
    flags := 0#5 }

/-- The checks of XDEC at issue, and its request (R197, R199). The spec leaves these points open (DESIGN CHOICE; log 42):
POISON-USE comes before COUNT's ILLEGAL-ENCODING, and that before BASE's ALIGNMENT and SHARED-BOUNDS; these two, whose
address is a scalar, record TRAPLANES 0 and TRAPVA = BASE; and an XDEC without DELTA uses CARRY and empties s[E2 + 1] as
one with it does. -/
def xdecEffect (h : Hdr) (f : FX) (c : Ctx) (s : State) : PassResult :=
  let b := f.e1.toNat
  let base := (c.view.sval c.e f.e3.toNat).toNat
  let len := (c.view.sval c.e (f.e3.toNat + 1)).toNat
  let count (l : Nat) : Nat := ((c.view.src c.e (b + 2)).word l).toNat % 128
  if (lanesOf c.live).any (fun l => 64 < count l) then .fault s (plainFault causeIllegalEncoding)
  else if base % 4 != 0 then .fault s { cause := causeAlignment, va := BitVec.ofNat 80 base, lanes := 0#96 }
  else if len != 0 && (s.warpLaunch c.k).info.sarea < base + 4 * len then
    .fault s { cause := causeShared, va := BitVec.ofNat 80 base, lanes := 0#96 }
  else
    sendRequest c (.xdec h f) c.live ((span b 3).map c.handed)
      [c.view.sval c.e f.e2.toNat, c.view.sval c.e (f.e2.toNat + 1), BitVec.ofNat 32 base, BitVec.ofNat 32 len]
      [(f.e0.toNat, 1#4), (b, 14#4), (b + 1, 14#4), (b + 2, 1#4)] [f.e2.toNat, f.e2.toNat + 1] false s

def execXdec (h : Hdr) (f : FX) (s : State) : Host.Outcome State Fault Refusal :=
  runPass (.xdec h f) .once (onceEffect (xdecEffect h f)) s

/-! ## XSCAN (R202) -/

/-- One step of a scan (R202). -/
def scanStep (fmt : BitVec 4) (acc x : Word) : Word × BitVec 5 :=
  if fmt == 6#4 then
    let (v, fl) := sumVals [elemVal fmt acc.toNat, elemVal fmt x.toNat] 0
    let (r, fl2) := toFmt v fmt 0 0
    (BitVec.ofNat 32 r, fl ||| fl2)
  else (acc + x, 0#5)

/-- The scan of a sequence: what each element gets, the running value and the flags. -/
def scanSeq (fmt : BitVec 4) (excl : Bool) : List (Nat × Word) → Word → BitVec 5 →
    List (Nat × Word) × Word × BitVec 5
  | [], acc, fl => ([], acc, fl)
  | (l, x) :: xs, acc, fl =>
    let (a, f1) := scanStep fmt acc x
    let (r, a2, f2) := scanSeq fmt excl xs a (fl ||| f1)
    ((l, if excl then acc else a) :: r, a2, f2)

/-- The scans of n registers one after the other. -/
def scanRegs (r : XRequest) (fmt : BitVec 4) (excl : Bool) (d : Nat) : List Nat → Word → BitVec 5 →
    List VWrite × Word × BitVec 5
  | [], acc, fl => ([], acc, fl)
  | j :: js, acc, fl =>
    let (xs, a, f1) := scanSeq fmt excl ((lanesOf r.lanes).map (fun l => (l, r.word j l))) acc fl
    let (ws, a2, f2) := scanRegs r fmt excl d js a f1
    (laneWrite (d + j) (xs.map (fun x => (x.1, x.2, false))) :: ws, a2, f2)

def xscanReply (r : XRequest) (h : Hdr) (f : FX) : Reply :=
  let n := (fieldOf f.ctl 0 3).toNat + 1
  let (ws, acc, fl) := scanRegs r h.fmt (f.ctl.getLsbD 3) f.e0.toNat (List.range n) (r.scalar 0) 0#5
  { vwrites := ws, sregs := [(f.e2.toNat, acc, false)], flags := fl }

def execXscan (h : Hdr) (f : FX) (s : State) : Host.Outcome State Fault Refusal :=
  runPass (.xscan h f) .once (onceEffect (fun c s =>
    let n := (fieldOf f.ctl 0 3).toNat + 1
    sendRequest c (.xscan h f) c.live ((span f.e1.toNat n).map c.handed) [c.view.sval c.e f.e2.toNat]
      ((span f.e0.toNat n).map (fun d => (d, h.fmt))) [f.e2.toNat] (h.fmt == 6#4) s)) s

/-! ## XSORT and XTOPK (R203 to R205) -/

/-- A key as an unsigned number in its order (R203). -/
def keyRank (fmt : BitVec 4) (x : Word) : Nat :=
  if fmt == 1#4 then x.toNat
  else if fmt == 0#4 then (x ^^^ 0x80000000#32).toNat
  else if x.getLsbD 31 then (~~~x).toNat else (x ^^^ 0x80000000#32).toNat

/-- A pair put in a list ascending by rank, after those of equal rank. -/
def insertRanked (x : Nat × Word × Word) : List (Nat × Word × Word) → List (Nat × Word × Word)
  | [] => [x]
  | y :: ys => if x.1 < y.1 then x :: y :: ys else y :: insertRanked x ys

/-- Pairs in a stable order of rank: ascending, or descending. -/
def rankSort (fmt : BitVec 4) (desc : Bool) (ps : List (Word × Word)) : List (Word × Word) :=
  ((ps.map (fun p => (if desc then 2 ^ 32 - 1 - keyRank fmt p.1 else keyRank fmt p.1, p.1, p.2))).foldl
    (fun t p => insertRanked p t) []).map (fun p => (p.2.1, p.2.2))

/-- Keys and values written to lanes in order; values under E3 643 are discarded. -/
def pairReply (f : FX) (lanes : List Nat) (ps : List (Word × Word)) : Reply :=
  let z := List.zipWith (fun l p => (l, p)) lanes ps
  { vwrites := laneWrite f.e0.toNat (z.map (fun x => (x.1, x.2.1, false))) ::
      (if f.e3 == 643#10 then [] else [laneWrite f.e3.toNat (z.map (fun x => (x.1, x.2.2, false)))])
    sregs := [], flags := 0#5 }

def xsortReply (r : XRequest) (h : Hdr) (f : FX) : Reply :=
  let ls := lanesOf r.lanes
  pairReply f ls (rankSort h.fmt (f.ctl.getLsbD 0) (ls.map (fun l => (r.word 0 l, r.word 1 l))))

/-- The destinations of a sort: keys take FMT, values the tag of E2, or B32 (R203). -/
def pairDests (c : Ctx) (h : Hdr) (f : FX) : TagList :=
  (f.e0.toNat, h.fmt) ::
    (if f.e3 == 643#10 then []
     else [(f.e3.toNat, if f.e2 == 643#10 then 14#4 else (c.view.src c.e f.e2.toNat).tag)])

def execXsort (h : Hdr) (f : FX) (s : State) : Host.Outcome State Fault Refusal :=
  runPass (.xsort h f) .once (onceEffect (fun c s =>
    sendRequest c (.xsort h f) c.live [c.handed f.e1.toNat, c.handed f.e2.toNat] [] (pairDests c h f) [] false s)) s

/-- k of XTOPK (R205). -/
def topkCount (f : FX) : Nat := (fieldOf f.ctl 0 7).toNat + 1

def xtopkReply (r : XRequest) (h : Hdr) (f : FX) : Reply :=
  let k := topkCount f
  let old := if f.ctl.getLsbD 8 then (List.range k).map (fun j => (r.word 2 j, r.word 3 j)) else []
  let new := (lanesOf r.lanes).map (fun l => (r.word 0 l, r.word 1 l))
  pairReply f (List.range k) ((rankSort h.fmt (!f.ctl.getLsbD 7) (old ++ new)).take k)

def execXtopk (h : Hdr) (f : FX) (s : State) : Host.Outcome State Fault Refusal :=
  runPass (.xtopk h f) .once (onceEffect (fun c s =>
    let merge := f.ctl.getLsbD 8
    let low := mkLanes (fun l => l < topkCount f)
    let bad := if merge then
        ((c.view.src c.e f.e0.toNat).poison ||| (c.view.src c.e f.e3.toNat).poison) &&& low else 0#96
    if !noLanes bad then .fault s { cause := causePoison, va := 0#80, lanes := bad }
    else
      sendRequest c (.xtopk h f) c.live
        ([c.handed f.e1.toNat, c.handed f.e2.toNat] ++ (if merge then [c.handed f.e0.toNat, c.handed f.e3.toNat] else []))
        [] (pairDests c h f) [] false s)) s

/-! ## XPLANE (R206) -/

/-- Bit i of plane register j of a request; an unread plane is zero. -/
def planeBit (r : XRequest) (j i : Nat) : Bool := (r.word j (i / 32)).getLsbD (i % 32)

/-- Code of element i of a request's k code registers. -/
def codeAt (r : XRequest) (k i : Nat) : Nat :=
  let per := 3072 / k
  elemBits k (r.word (i / per) (i % per / (32 / k))) (i % (32 / k))

/-- The words of lane l of register j when a block is split into planes. -/
def toPlane (r : XRequest) (k j l : Nat) : Word :=
  BitVec.ofNat 32 (bitsNat (fun b => (codeAt r k (32 * l + b)).testBit (k - 1 - j)) 32)

/-- The words of lane l of register j when P planes are joined: code c_P, sign-extended (R206). -/
def fromPlanes (r : XRequest) (k p j l : Nat) : Word :=
  mapElems k (32 / k) (fun e =>
    let i := 3072 / k * j + 32 / k * l + e
    bitsOfInt k (signedOf p (bitsNat (fun b => planeBit r (p - 1 - b) i) p)))

def xplaneReply (r : XRequest) (h : Hdr) (f : FX) : Reply :=
  let k := hsBits h.fmt
  let p := (fieldOf f.ctl 1 4).toNat
  { vwrites := (List.range k).map (fun j => laneWrite (f.e0.toNat + j) ((List.range 96).map (fun l =>
      (l, if f.ctl.getLsbD 0 then fromPlanes r k p j l else toPlane r k j l, false))))
    sregs := [], flags := 0#5 }

def execXplane (h : Hdr) (f : FX) (s : State) : Host.Outcome State Fault Refusal :=
  runPass (.xplane h f) .once (fun c s =>
    let k := hsBits h.fmt
    let dir := f.ctl.getLsbD 0
    let n := if dir then (fieldOf f.ctl 1 4).toNat else k
    let bad := (span f.e1.toNat n).foldl (fun m x => m ||| (c.view.src c.e x).poison) 0#96
    if !noLanes bad then .fault s { cause := causePoison, va := 0#80, lanes := bad }
    else sendRequest c (.xplane h f) (~~~0#96) ((span f.e1.toNat n).map c.handed) []
      ((span f.e0.toNat k).map (fun d => (d, if dir then h.fmt else 14#4))) [] false s) s

/-! ## The pipe (R195) -/

/-- What the reply to a request writes. -/
def replyOf (s : State) (r : XRequest) : Reply :=
  match r.instr with
  | .xdec _ f => xdecReply s r f
  | .xscan h f => xscanReply r h f
  | .xsort h f => xsortReply r h f
  | .xtopk h f => xtopkReply r h f
  | .xplane h f => xplaneReply r h f
  | _ => { vwrites := [], sregs := [], flags := 0#5 }

/-- The shared words that a request may read, upsets resolved (R88). -/
def resolveStream (r : XRequest) (s : State) : State :=
  match r.instr with
  | .xdec _ _ =>
    let cur := (r.scalar 0).toNat
    (span cur (min (laneCount r.lanes) ((r.scalar 3).toNat - cur))).foldl (fun s i =>
      (sharedFetch r.warp ((r.scalar 2).toNat + 4 * i) 4 s).2) s
  | _ => s

/-- TRANSFORM_SERVICE_START: the request at the head is served (R195). -/
def execTransformServiceStart (core : Nat) (s : State) : Host.Outcome State Fault Refusal :=
  match (s.core core).pipe with
  | r :: rest =>
    if r.started then .next s
    else .next (s.modCore core (fun c => { c with pipe := { r with started := true } :: rest }))
  | [] => .next s

/-- TRANSFORM_REPLY: every destination is written and full in one step (R194). -/
def execTransformReply (core : Nat) (s : State) : Host.Outcome State Fault Refusal :=
  match (s.core core).pipe with
  | r :: rest =>
    if !r.started then .next s
    else
      let s1 := (resolveStream r s).modCore core (fun c => { c with pipe := rest })
      let y := replyOf s1 r
      let w := s1.warp r.warp
      match w.pend.find? (fun b => b.id == r.wb) with
      | none => .next s1
      | some b =>
        let entry := match b.swrites with | x :: _ => x.entry | [] => 0
        let b1 := { b with
          vwrites := y.vwrites, flags := y.flags
          swrites := (y.sregs.filter (fun x => isS x.1)).map (fun x => { entry := entry, reg := x.1 - 768, val := x.2.1, poison := x.2.2 }) }
        .next (regroupAll w.team (s1.setWarp r.warp (w.land b1)))
  | [] => .next s

end Sys2Proof.Machine
end

