-- ==== Sys2Proof/Machine/Copy.lean ====
section
/-!
DEFINITION. Machine/Copy.lean: tensor descriptors, the copy instructions, the copy engine and multicast
deliveries (R279, R280, R397 to R413).
-/

namespace Sys2Proof.Machine

open Sys2Proof

/-! ## Tensor descriptors (R397) -/

/-- n bytes of a list from a position, as a number. -/
def leAt (d : List Byte) (o n : Nat) : Nat := leValue ((d.drop o).take n)

/-- Whether n bytes of a list from a position are zero. -/
def zeroAt (d : List Byte) (o n : Nat) : Bool := leAt d o n == 0

/-- The fields of a descriptor. -/
structure Tensor where
  ndim : Nat
  sfmt : BitVec 4
  dfmt : BitVec 4
  trans : Bool
  conv : Bool
  fill : Bool
  planar : Bool
  rnd : Nat
  clamp : Nat
  pl : Nat
  scale : Nat
  fillval : Nat
  base : Nat
  dims : List Nat
  strides : List Int
  box : List Nat

/-- The fields of descriptor bytes. -/
def tensorOf (d : List Byte) : Tensor :=
  let fl := leAt d 5 1
  let r := leAt d 6 1
  { ndim := leAt d 2 1, sfmt := BitVec.ofNat 4 (leAt d 3 1), dfmt := BitVec.ofNat 4 (leAt d 4 1),
    trans := fl.testBit 0, conv := fl.testBit 1, fill := fl.testBit 2, planar := fl.testBit 3,
    rnd := r % 8, clamp := r / 8 % 4, pl := leAt d 7 1 % 16, scale := leAt d 8 4,
    fillval := leAt d 12 4, base := leAt d 16 10,
    dims := (List.range 16).map (fun i => leAt d (0x20 + 4 * i) 4),
    strides := (List.range 16).map (fun i => signedOf 64 (leAt d (0x60 + 8 * i) 8)),
    box := (List.range 16).map (fun i => leAt d (0xE0 + 2 * i) 2) }

/-- Extent of the block in dimension n; dimension 1 of a tensor of one dimension counts as 1 (R400). -/
def Tensor.ext (x : Tensor) (n : Nat) : Nat := if n < x.ndim then (lget x.box n).getD 1 else 1

/-- Tensor extent and stride of a dimension. -/
def Tensor.dim (x : Tensor) (n : Nat) : Nat := (lget x.dims n).getD 0
def Tensor.stride (x : Tensor) (n : Nat) : Int := (lget x.strides n).getD 0

/-- The product of the block's extents from dimension 2 on. -/
def Tensor.outer (x : Tensor) : Nat := (span 2 14).foldl (fun p n => p * x.ext n) 1

/-- The rows a block fills, and the columns of each (R400). -/
def Tensor.rows (x : Tensor) : Nat := x.ext (if x.trans then 0 else 1) * x.outer
def Tensor.cols (x : Tensor) : Nat := x.ext (if x.trans then 1 else 0)

/-- Whether a conversion is one that R173 lists for some instruction. -/
def convPair (src dst : BitVec 4) : Bool :=
  vcvtPair src.toNat dst.toNat || vpackPair src.toNat dst.toNat || vunpkPair src.toNat dst.toNat

/-- The bytes, the fields and the dimensions of a descriptor are legal (R397). -/
def fieldsOk (d : List Byte) : Bool :=
  let x := tensorOf d
  leAt d 0 2 == 1 && 1 ≤ x.ndim && x.ndim ≤ 16 && leAt d 3 1 ≤ 14 && leAt d 4 1 ≤ 14 &&
  leAt d 5 1 < 16 && x.rnd ≤ 4 && leAt d 6 1 < 32 && leAt d 7 1 < 16 && zeroAt d 0x1A 6 &&
  x.stride 0 == 0 && (fmtWidth x.dfmt == 32 || x.fillval < 2 ^ fmtWidth x.dfmt) &&
  (List.range 16).all (fun n =>
    if n < x.ndim then 1 ≤ x.dim n && x.dim n < 2 ^ 31 && 1 ≤ x.ext n && x.ext n ≤ 4096
    else x.dim n == 0 && x.stride n == 0 && (lget x.box n).getD 0 == 0)

/-- The narrower of a descriptor's two formats, in bits. -/
def Tensor.narrow (x : Tensor) : Nat := min (fmtWidth x.sfmt) (fmtWidth x.dfmt)

/-- The rules of narrow formats and of planes (R401), for a start coordinate x0 of dimension 0. -/
def packingOk (x : Tensor) (x0 : Int) : Bool :=
  let m := 8 / x.narrow
  (8 ≤ x.narrow || (!x.trans && x0 % (m : Int) == 0 && x.ext 0 % m == 0 && x.dim 0 % m == 0)) &&
  (if x.planar then
     x.sfmt == x.dfmt && hsBits x.sfmt != 0 && !x.conv && x.dim 0 % 1024 == 0 && x.ext 0 % 1024 == 0 &&
     1 ≤ x.pl && x.pl ≤ hsBits x.sfmt
   else x.pl == 0)

/-- The rules of a conversion (R402), for a fill or for a store. -/
def conversionOk (x : Tensor) (store : Bool) : Bool :=
  if x.conv then
    (if store then convPair x.dfmt x.sfmt else convPair x.sfmt x.dfmt) &&
    (match (elemVal 6#4 x.scale : FVal) with | .fin _ m _ => m != 0 | _ => false)
  else x.sfmt == x.dfmt && x.scale == 0x3F800000 && x.rnd == 4 && x.clamp == 0

/-- The rules of the descriptor alone, for a command and its start coordinates (R405 check 1). -/
def tensorOk (d : List Byte) (x0 : Int) (store : Bool) : Bool :=
  let x := tensorOf d
  fieldsOk d && packingOk x x0 && conversionOk x store && (!x.trans || 2 ≤ x.ndim)

/-- The rules of a block against its tile (R400). -/
def tileFits (x : Tensor) (t : Tile) (row0 : Nat) : Bool :=
  t.dim0 == x.cols && row0 + x.rows ≤ t.dim1

/-! ## Elements (R399, R400) -/

/-- The block coordinate of dimension n of the element in filled row r and column c. -/
def Tensor.coord (x : Tensor) (r c n : Nat) : Nat :=
  let inner := x.ext (if x.trans then 0 else 1)
  match n with
  | 0 => if x.trans then r % inner else c
  | 1 => if x.trans then c else r % inner
  | _ => r / inner / ((span 2 (n - 2)).foldl (fun p k => p * x.ext k) 1) % x.ext n

/-- The tensor coordinate of dimension n; in dimension GD of a TGATHER the list gives it (R408). -/
def CopyCmd.at (q : CopyCmd) (x : Tensor) (r c n : Nat) : Int :=
  let b := x.coord r c n
  let x0 := ((lget q.coords n).getD 0#32).toInt
  if q.kind == .tgather && n == q.gd then x0 + ((lget q.index b).getD 0#32).toInt else x0 + b

/-- Where an element's bits lie: byte address and bit of each piece, with the number of bits; none out of
bounds (R399, R401). -/
def CopyCmd.bitsAt (q : CopyCmd) (x : Tensor) (r c : Nat) : Option (List (A80 × Nat × Nat)) :=
  let w := fmtWidth x.sfmt
  if (List.range x.ndim).any (fun n => q.at x r c n < 0 || (x.dim n : Int) ≤ q.at x r c n) then none
  else
    let start : Int := (span 1 (x.ndim - 1)).foldl (fun a n => a + q.at x r c n * x.stride n) (x.base : Int)
    let e := (q.at x r c 0).toNat
    if x.planar then
      some ((List.range x.pl).map (fun j =>
        (BitVec.ofInt 80 (start + (j * (x.dim 0 / 8) + e / 8 : Nat)), e % 8, 1)))
    else some [(BitVec.ofInt 80 (start + (e * w / 8 : Nat)), e * w % 8, w)]

/-- The fill value of an out-of-bounds element (R399). -/
def Tensor.fillBits (x : Tensor) : Nat := if x.fill then x.fillval else 0

/-- Whether a delivered code is an infinity of its format. -/
def isInfCode (fmt : BitVec 4) (r : Nat) : Bool :=
  hsBits fmt == 0 && !isIntFmt fmt && !(ffmt fmt).isE4M3 &&
  (r == (ffmt fmt).infBits false || r == (ffmt fmt).infBits true)

/-- An element converted, and whether it was delivered saturated, or as a NaN from overflow (R402). -/
def Tensor.convert (x : Tensor) (src dst : BitVec 4) (b : Nat) : Nat × Bool :=
  if !x.conv then (b, false)
  else
    let v := elemVal src b
    let (p, _) := mulVals v (elemVal 6#4 x.scale)
    let (r, fl) := cvtVal (clampVal x.clamp p) dst x.rnd x.clamp
    let big := match clampVal x.clamp p with | .inf _ => true | _ => false
    (r, !v.isNan && (big || fl &&& flagOF != 0#5) && !isInfCode dst r)

/-! ## A row of a fill -/

/-- What the read of a row finds: its elements with their poison and the number delivered saturated. -/
inductive RowAns where
  | row (es : List (Nat × Bool)) (sat : Nat)
  | fault (cause : BitVec 8) (va : A80)
  | bad (p d : Nat)
  | stall

/-- The bits of the pieces of an element, joined: for planes the first piece is the top bit. -/
def readBits (g : Nat) (l : Launch) : List (A80 × Nat × Nat) → State → RowAns × State
  | [], s => (.row [] 0, s)
  | (va, bit, n) :: xs, s =>
    match readRun g l va ((bit + n + 7) / 8) s with
    | (.bytes bs, s1) =>
      match readBits g l xs s1 with
      | (.row es k, s2) => (.row ((leValue (bs.map (·.1)) / 2 ^ bit % 2 ^ n, bs.any (·.2)) :: es) k, s2)
      | r => r
    | (.fault c a, s1) => (.fault c a, s1)
    | (.bad p d, s1) => (.bad p d, s1)
    | (.stall, s1) => (.stall, s1)

/-- The code of an element from its pieces. -/
def joinBits (x : Tensor) (es : List (Nat × Bool)) : Nat :=
  if x.planar then (es.foldl (fun v e => 2 * v + e.1) 0) * 2 ^ (hsBits x.sfmt - x.pl)
  else (es.head?.map (·.1)).getD 0

/-- An element of filled row r, read and converted, with its poison (R399 to R403); the second answer counts it when it
was delivered saturated. -/
def readElem (g : Nat) (l : Launch) (q : CopyCmd) (x : Tensor) (r c : Nat) (s : State) : RowAns × State :=
  match q.bitsAt x r c with
  | none => (.row [(x.fillBits, false)] 0, s)
  | some ps =>
    match readBits g l ps s with
    | (.row bs _, s1) =>
      let (v, sat) := x.convert x.sfmt x.dfmt (joinBits x bs)
      (.row [(v, bs.any (·.2))] (if sat then 1 else 0), s1)
    | a => a

/-- The elements of filled row r of a list of columns, as far as they can be read, with the answer that stopped it. -/
def gatherFrom (g : Nat) (l : Launch) (q : CopyCmd) (x : Tensor) (r : Nat) :
    List Nat → State → List (Nat × Bool) × Nat × Option RowAns × State
  | [], s => ([], 0, none, s)
  | c :: cs, s =>
    match readElem g l q x r c s with
    | (.row es k, s1) =>
      let (fs, n, a, s2) := gatherFrom g l q x r cs s1
      (es ++ fs, k + n, a, s2)
    | (a, s1) => ([], 0, some a, s1)

/-- The elements of a row that one engine access of 128 bytes holds (R321, R406). -/
def perAccess (fmt : BitVec 4) : Nat := 1024 / fmtWidth fmt

/-- The 128 bytes of an engine access from its elements, padding zero; a byte that holds a bit of a poisoned
element is poisoned (R268, R403). -/
def rowBytes (fmt : BitVec 4) (es : List (Nat × Bool)) : List (Byte × Bool) :=
  let w := fmtWidth fmt
  let bytes := leBytes 128 (packElems w (es.map (·.1)))
  (List.range 128).map (fun i =>
    let first := 8 * i / w
    let count := max 1 (8 / w)
    ((lget bytes i).getD 0#8, ((es.drop first).take count).any (·.2)))

/-! ## Deliveries into tiles (R279, R407, R409) -/

/-- Delivered bytes of a row judged on arrival, placed by the receiving tile's own PITCH: a byte is written and
credited while the tile is FILLING; bytes past its end are dropped (R268, R279). Answers the number of bytes written. -/
def deliverRow (t i row first : Nat) (bs : List (Byte × Bool)) (s : State) : Nat × State :=
  let x := s.tile t i
  if x.state != .filling then (0, s)
  else
    let b := 128 * x.pitch * row + first
    let n0 := min bs.length (x.bytes - b)
    let n := if x.sealed then min n0 (x.bytes - x.filled) else n0
    (n, creditTile t i n (tileWrite t x b (bs.take n) s))

/-- The bytes of a fill's access written and credited (R407). -/
def fillRow (t i row first : Nat) (bs : List (Byte × Bool)) (s : State) : State :=
  let x := s.tile t i
  creditTile t i bs.length (tileWrite t x (128 * x.pitch * row + first) bs s)

/-! ## The instructions (R404 to R411) -/

/-- The fields of CTL (R404). -/
def ctlBar (f : FX) : Option Nat := if f.ctl.getLsbD 7 then some (fieldOf f.ctl 0 7).toNat else none
def ctlGd (f : FX) : Nat := (fieldOf f.ctl 8 4).toNat
def ctlRow0 (f : FX) : Nat := (fieldOf f.ctl 12 12).toNat

/-- A copy command as an instruction forms it. -/
def newCopy (c : Ctx) (f : FX) (kind : CopyKind) (d : List Byte) (s : State) : CopyCmd :=
  let t := (s.warp c.k).team
  let e3 := f.e3.toNat
  { id := s.nextId, kind := kind, warp := c.k, team := t, desc := d,
    coords := (List.range 16).map (fun n => c.view.sval c.e (f.e1.toNat + n)),
    tile := handleIndex (c.view.sval c.e f.e2.toNat), reader := 0, row0 := ctlRow0 f, bar := ctlBar f,
    index := [], gd := ctlGd f,
    firstTeam := if kind == .tmcast then (c.view.sval c.e e3).toNat else 0,
    mask := if kind == .tmcast then fieldOf (c.view.sval c.e (e3 + 1)) 0 16 else 0#16,
    level := (fieldOf f.ctl 24 1).toNat, pin := f.ctl.getLsbD 25, rows := (tensorOf d).rows, nextRow := 0,
    begun := false, place := 0, held := [], credit := 0, credits := [], inFlight := 0, dropped := [], stopped := none }

/-- The team numbers a TMCAST delivers to (R409). -/
def CopyCmd.receivers (q : CopyCmd) : List Nat :=
  ((List.range 16).filter (fun i => q.mask.getLsbD i)).map (q.firstTeam + ·)

/-- Whether a command fills, or stores from, the issuing team's tile. -/
def CopyCmd.ownTile (q : CopyCmd) (number : Nat) : Bool :=
  match q.kind with
  | .tcopy | .tgather | .tstore => true
  | .tmcast => q.receivers.contains number
  | .tpref => false

/-- The command queued: a fill or a reader of the tile is outstanding (R269, R271, R406). -/
def queueCopy (q : CopyCmd) (own : Bool) (s : State) : State :=
  let g := coreOf q.warp
  let s1 := { s with nextId := s.nextId + 1 }
  let (q1, s2) :=
    if q.kind == .tstore then
      let (rd, t) := readerIssues q.team q.tile s1
      ({ q with reader := rd }, t)
    else if own then (q, fillIssues q.team q.tile s1)
    else (q, s1)
  s2.modCore g (fun c => { c with copies := c.copies ++ [q1] })

/-- Checks 4 to 6 of R405, and the queue. -/
def copyTile (c : Ctx) (f : FX) (q : CopyCmd) (s : State) : PassResult :=
  let x := tensorOf q.desc
  let h := c.view.sval c.e f.e2.toNat
  let own := q.ownTile (s.team q.team).number
  let y := s.tile q.team q.tile
  let full := 32 ≤ (s.core (coreOf c.k)).copies.length
  let put : PassResult := if full then .wait s else .ok (queueCopy q own s)
  if q.kind == .tmcast && q.mask == 0#16 then .ok s
  else if !own then put
  else if q.kind == .tstore then
    if !handleCurrent s q.team h || y.state == .draining then .fault s (plainFault causeTile)
    else if x.dfmt != y.fmt then .fault s (plainFault causeFormatTag)
    else if y.state == .filling || 255 ≤ y.readers then .wait s
    else put
  else if !fillOk s q.team h then .fault s (plainFault causeTile)
  else if x.dfmt != y.fmt then .fault s (plainFault causeFormatTag)
  else put

/-- The index list of a TGATHER (R408): its checks and its words. -/
def copyIndex (c : Ctx) (f : FX) (q : CopyCmd) (s : State) : PassResult :=
  if q.kind != .tgather then copyTile c f q s
  else
    let o := (c.view.sval c.e f.e3.toNat).toNat
    let n := (tensorOf q.desc).ext q.gd
    if o % 4 != 0 then .fault s { cause := causeAlignment, va := BitVec.ofNat 80 o, lanes := 0#96 }
    else if (s.warpLaunch c.k).info.sarea < o + 4 * n then
      .fault s { cause := causeShared, va := BitVec.ofNat 80 o, lanes := 0#96 }
    else
      let (bs, s1) := sharedFetch c.k o (4 * n) s
      if bs.any (·.2) then .fault s1 (plainFault causePoison)
      else
        let bytes := bs.map (·.1)
        copyTile c f { q with index := (List.range n).map (fun i => BitVec.ofNat 32 (leAt bytes (4 * i) 4)) } s1

/-- Checks 1 and 2 of R405. -/
def copyChecks (c : Ctx) (f : FX) (kind : CopyKind) (d : List Byte) (s : State) : PassResult :=
  let q := newCopy c f kind d s
  let x := tensorOf d
  let t := q.team
  let h := c.view.sval c.e f.e2.toNat
  let teams := (s.launchOf t).info.teams
  let gdOk := kind != .tgather || (q.gd < x.ndim && (q.gd != 0 || 8 ≤ x.narrow))
  let mcOk := kind != .tmcast ||
    (fieldOf (c.view.sval c.e (f.e3.toNat + 1)) 16 16 == 0#16 && q.receivers.all (fun n => n < teams))
  let fits := !q.ownTile (s.team t).number || !handleCurrent s t h || tileFits x (s.tile t q.tile) q.row0
  if !(tensorOk d ((lget q.coords 0).getD 0#32).toInt (kind == .tstore) && gdOk && mcOk && fits) then
    .fault s (plainFault causeCopy)
  else if q.bar.any (fun b => decide (s.barCount t ≤ b)) then
    .fault s (plainFault causeBarrier)
  else copyIndex c f q s

/-- A copy instruction: the descriptor is read, and the checks follow (R398, R405). -/
def copyEffect (f : FX) (kind : CopyKind) (c : Ctx) (s : State) : PassResult :=
  withDescriptor c (c.view.aval f.e0.toNat) 256 256 (fun d s => copyChecks c f kind d s) s

def execTcopy (h : Hdr) (f : FX) (s : State) : Host.Outcome State Fault Refusal :=
  runPass (.tcopy h f) .once (onceEffect (copyEffect f .tcopy)) s

def execTstore (h : Hdr) (f : FX) (s : State) : Host.Outcome State Fault Refusal :=
  runPass (.tstore h f) .once (onceEffect (copyEffect f .tstore)) s

def execTgather (h : Hdr) (f : FX) (s : State) : Host.Outcome State Fault Refusal :=
  runPass (.tgather h f) .once (onceEffect (copyEffect f .tgather)) s

def execTmcast (h : Hdr) (f : FX) (s : State) : Host.Outcome State Fault Refusal :=
  runPass (.tmcast h f) .once (onceEffect (copyEffect f .tmcast)) s

def execTpref (h : Hdr) (f : FX) (s : State) : Host.Outcome State Fault Refusal :=
  runPass (.tpref h f) .once (onceEffect (copyEffect f .tpref)) s

/-! ## Rows of a command (R406 to R412) -/

/-- A command of a core's queue, by its number, changed. -/
def modCopy (g id : Nat) (f : CopyCmd → CopyCmd) (s : State) : State :=
  s.modCore g (fun c => { c with copies := c.copies.map (fun q => if q.id = id then f q else q) })

/-- A failed translation stops a command; PROTECTION ends the team (R412). -/
def stopCopy (g : Nat) (q : CopyCmd) (cause : BitVec 8) (va : A80) (s : State) : State :=
  let s1 := modCopy g q.id (fun y => { y with stopped := some (cause, va) }) s
  if cause == causePageFault then s1 else endTeam q.team 0x20#8 cause 0#32 s1

/-- Copy saturations counted for the issuing warp (R402, R482). -/
def countSaturated (q : CopyCmd) (n : Nat) (s : State) : State :=
  if (s.warp q.warp).team = q.team && !(s.warp q.warp).retired then countWarp 0x09 n q.warp s
  else countCore 0x09 n (coreOf q.warp) s

/-- The column, tile row and byte of the row at which the access in progress of a command begins. -/
def CopyCmd.access (q : CopyCmd) : Nat × Nat × Nat :=
  let n := perAccess (tensorOf q.desc).dfmt
  let c := q.place / n * n
  (c, q.row0 + q.nextRow, q.place / n * 128)

/-- A command that has come to a column of its row; past the last it goes on to the next row. -/
def CopyCmd.advance (q : CopyCmd) (c : Nat) : CopyCmd :=
  if (tensorOf q.desc).cols ≤ c then { q with nextRow := q.nextRow + 1, place := 0, held := [] }
  else { q with place := c, held := [] }

/-- The bytes of an access delivered to every receiver of a TMCAST: the issuing team's as its own fill, the others' in
flight (R271, R275, R409). -/
def castRow (g : Nat) (q : CopyCmd) (bs : List (Byte × Bool)) (s : State) : State :=
  let lk := (s.team q.team).launch
  let (_, row, first) := q.access
  q.receivers.foldl (fun s n =>
    let t := 320 * lk + n
    if t = q.team then
      modCopy g q.id (fun y => { y with credits := tput y.credits t ((tget y.credits t).getD 0 + bs.length) })
        (fillRow t q.tile row first bs s)
    else
      let d : McDelivery :=
        { core := g, cmd := q.id, launch := lk, toTeam := t, tile := q.tile, row := row, first := first
          bytes := bs.map (·.1), poison := bs.map (·.2) }
      modCopy g q.id (fun y => { y with inFlight := y.inFlight + 1 })
        (s.modPkg (pkgOf g) (fun x => { x with multicasts := x.multicasts ++ [d] }))) s

/-- What stopped a command's access: a fault, an entry that cannot be read, or a stall (R218, R289, R412). -/
def stoppedBy (g : Nat) (q : CopyCmd) (a : RowAns) (s : State) : State :=
  match a with
  | .fault c va => stopCopy g q c va s
  | .bad p d => stateErrorAt q.team p d s
  | _ => s

/-- The next access of a fill: it reads on from the element it has come to, and writes its 128 bytes once it has them
all (R407, R412). -/
def fillStep (g : Nat) (q : CopyCmd) (s : State) : State :=
  let l := s.launchOf q.team
  let x := tensorOf q.desc
  let (c0, row, first) := q.access
  let cols := span q.place (min x.cols (c0 + perAccess x.dfmt) - q.place)
  let (es, sat, a, s1) := gatherFrom g l q x q.nextRow cols s
  let s2 := countSaturated q sat s1
  let all := q.held ++ es
  match a with
  | some a => stoppedBy g q a (modCopy g q.id (fun y => { y with place := q.place + es.length, held := all }) s2)
  | none =>
    let bs := rowBytes x.dfmt all
    let s3 := if q.kind == .tmcast then castRow g q bs s2 else fillRow q.team q.tile row first bs s2
    modCopy g q.id (fun y => { y.advance (q.place + es.length) with credit := y.credit + bs.length }) s3

/-- The places of an element's pieces for writing. -/
def elemPlaces (g : Nat) (l : Launch) (ps : List (A80 × Nat × Nat)) (s : State) :
    Except EngineAns (List (EnginePlace × Nat)) × State :=
  writePlaces g l (ps.flatMap (fun p => piecesOf p.1 ((p.2.1 + p.2.2 + 7) / 8))) s

/-- Bits written into a byte at a place, the others kept (R410). -/
def mergeBits (g : Nat) (l : Launch) (p : EnginePlace) (bit n v : Nat) (bad : Bool) (s : State) : State :=
  match p with
  | .here q =>
    let (bs, s1) := engineRead g l q 1 s
    let old := leValue (bs.map (·.1))
    let m := (2 ^ n - 1) * 2 ^ bit
    let new := old - (old &&& m) + v % 2 ^ n * 2 ^ bit
    engineWrite g l q [(BitVec.ofNat 8 new, bad)] s1
  | _ => countErrorAt 14 1 g s

/-- An element of a TSTORE that is about to be written: its pieces, its code and its poison. -/
abbrev StoreElem := List (A80 × Nat × Nat) × Nat × Bool

/-- The elements of an access, as far as they translate for writing, with the answer that stopped it (R412). -/
def reachable (g : Nat) (l : Launch) : List (Option (List (A80 × Nat × Nat))) → State →
    Nat × Option EngineAns × State
  | [], s => (0, none, s)
  | e :: es, s =>
    match elemPlaces g l (e.getD []) s with
    | (.error a, s1) => (0, some a, s1)
    | (.ok _, s1) =>
      let (n, a, s2) := reachable g l es s1
      (n + 1, a, s2)

/-- Elements that lie one after the other in memory, as runs: the address of the first bit, and the elements. -/
def storeRuns (w : Nat) : List StoreElem → List (Nat × List (Nat × Bool))
  | [] => []
  | (ps, v, bad) :: es =>
    let start := (ps.head?.map (fun p => 8 * p.1.toNat + p.2.1)).getD 0
    match storeRuns w es with
    | (next, xs) :: rest =>
      if next == start + w then (start, (v, bad) :: xs) :: rest else (start, [(v, bad)]) :: (next, xs) :: rest
    | [] => [(start, [(v, bad)])]

/-- Some bits of one byte written, the others kept (R410). -/
def storeBits (g : Nat) (l : Launch) (start n v : Nat) (bad : Bool) (s : State) : State :=
  if n = 0 then s
  else
    let (p, s1) := enginePlace g l (BitVec.ofNat 80 (start / 8)) .write s
    mergeBits g l p (start % 8) n v bad s1

/-- A run written: its whole bytes together, and by their bits the bytes that it begins or ends within (R410). -/
def storeRun (g : Nat) (l : Launch) (w start : Nat) (xs : List (Nat × Bool)) (s : State) : State :=
  let v := packElems w (xs.map (·.1))
  let n := w * xs.length
  let bad (b k : Nat) : Bool := ((xs.take ((b + k + w - 1) / w)).drop (b / w)).any (·.2)
  let head := min n ((8 - start % 8) % 8)
  let whole := (n - head) / 8
  let tail := (n - head) % 8
  let bytes := leBytes whole (v / 2 ^ head)
  let s1 := storeBits g l start head v (bad 0 head) s
  let s2 := if whole = 0 then s1
    else (writeRun g l (BitVec.ofNat 80 ((start + head) / 8))
      ((List.range whole).map (fun i => ((lget bytes i).getD 0#8, bad (head + 8 * i) 8))) s1).2
  storeBits g l (start + head + 8 * whole) tail (v / 2 ^ (head + 8 * whole)) (bad (head + 8 * whole) tail) s2

/-- The elements of an access written, from the last to the first of the planes' bits, or run by run: a word that the
access covers whole takes the poison of what it takes, a word covered in part keeps its own (R218, R410). -/
def storeElems (g : Nat) (l : Launch) (x : Tensor) (es : List StoreElem) (s : State) : State :=
  let w := fmtWidth x.sfmt
  if x.planar then
    es.foldl (fun s e => (List.range e.1.length).foldl (fun s j =>
      match lget e.1 j with
      | some (va, bit, n) => storeBits g l (8 * va.toNat + bit) n (e.2.1 / 2 ^ (w - 1 - j)) e.2.2 s
      | none => s) s) s
  else
    (storeRuns w es).foldl (fun s r => storeRun g l w r.1 r.2 s) s

/-- The next access of a TSTORE: the elements of 128 tile bytes, written up to the one that fails (R410, R412). -/
def storeStep (g : Nat) (q : CopyCmd) (s : State) : State :=
  let l := s.launchOf q.team
  let x := tensorOf q.desc
  let r := q.nextRow
  let y := s.tile q.team q.tile
  let (c0, row, _) := q.access
  let s0 := resolveTile q.team y row 1 s
  let cols := span q.place (min x.cols (c0 + perAccess x.dfmt) - q.place)
  let (n, a, s1) := reachable g l (cols.map (q.bitsAt x r)) s0
  let es := ((cols.take n).filterMap (fun c => (q.bitsAt x r c).map (fun ps => (c, ps)))).map (fun e =>
    let (b, bad) := tileElem s1 q.team y row e.1
    let (v, sat) := x.convert x.dfmt x.sfmt b
    ((e.2, v, bad), sat))
  let s2 := countSaturated q (es.filter (·.2)).length (storeElems g l x (es.map (·.1)) s1)
  match a with
  | some a =>
    let why : RowAns := match a with
      | .fault c va => .fault c va
      | .bad p d => .bad p d
      | _ => .stall
    stoppedBy g q why (modCopy g q.id (fun z => { z with place := q.place + n }) s2)
  | none =>
    let ends := x.cols ≤ q.place + n
    let count := ((List.range x.cols).filter (fun c => (q.bitsAt x r c).isSome)).length
    let bits := if ends then count * (if x.planar then x.pl else fmtWidth x.sfmt) else 0
    let s3 := modCopy g q.id (fun z => { z.advance (q.place + n) with credit := z.credit + (bits + 7) / 8 }) s2
    if !ends || r + 1 < q.rows then s3
    else s3.modCore (s3.team q.team).core (fun c => { c with
      readers := c.readers.map (fun d => if d.id = q.reader then { d with finished := true } else d) })

/-- A line placed by TPREF: in its L2 slice, or in its segment, pinned or by its class (R411). -/
def prefetchPlace (l : Launch) (lk level : Nat) (pin : Bool) (key : Nat) (s : State) : State :=
  if level = 0 then l2Place key l.tkey s
  else if pin then segPlace key 0 true (lk + 1) l.tkey s
  else segPlace key (classOf s key l.tkey) false 0 l.tkey s

/-- Lines that a TPREF prefetches one after the other, each once; one that fails is skipped, one of a MIGRATING region
holds the command there (R284, R289, R411). -/
def prefetchLines (g : Nat) (l : Launch) (q : CopyCmd) : List Nat → State → State
  | [], s => modCopy g q.id (fun y => { y with nextRow := y.nextRow + 1 }) s
  | n :: ns, s =>
    let lk := (s.team q.team).launch
    let done (s : State) : State := modCopy g q.id (fun y => { y with held := y.held ++ [(n, false)] }) s
    match translateNow s g l.root l.asn l.tkey (BitVec.ofNat 80 (128 * n)) .prefetch with
    | (.ok p, _, t) =>
      prefetchLines g l q ns (done (if p.poa || 2 < keyKind p.key then t else prefetchPlace l lk q.level q.pin p.key t))
    | (.fault _, false, t) => prefetchLines g l q ns (done t)
    | (.fault _, true, t) => stateErrorAt q.team (pkgOf g) (dieOf g) t
    | (_, _, t) => t

/-- The lines of an element's pieces. -/
def linesOfBits (ps : List (A80 × Nat × Nat)) : List Nat :=
  ps.flatMap (fun p => (piecesOf p.1 ((p.2.1 + p.2.2 + 7) / 8)).map (fun x => x.1.toNat / 128))

/-- The next row of a TPREF: the lines of its elements that in-bounds bits touch (R411). -/
def prefStep (g : Nat) (q : CopyCmd) (s : State) : State :=
  let x := tensorOf q.desc
  let ns := ((List.range x.cols).filterMap (q.bitsAt x q.nextRow)).flatMap linesOfBits
  prefetchLines g (s.launchOf q.team) q (ns.eraseDups.filter (fun n => !q.held.any (fun h => h.1 == n))) s

/-- Whether command i of a queue has a row to write now: one of the 8 served, not stopped, and every
earlier command of its warp has begun (R406); the fabric requests that its warp sent before it have been performed
(R367). -/
def copyOpen (s : State) (g i : Nat) : Bool :=
  match lget (s.core g).copies i with
  | some q => i < 8 && q.stopped.isNone && q.nextRow < q.rows &&
      ((s.core g).copies.take i).all (fun p => p.warp != q.warp || p.begun) &&
      (s.pkg (pkgOf g)).fabric.all (fun r => r.warp != q.warp || q.id < r.id)
  | none => false

/-- Whether command i of a queue writes the next row: the served commands take turns, row by row, in the order of their
issue, after the one that wrote last (R406). -/
def copyServed (s : State) (g i : Nat) : Bool :=
  let cs := (s.core g).copies
  let rank (j : Nat) : Nat × Nat := match lget cs j with
    | some q => (if (s.core g).copyNext < q.id then 0 else 1, q.id)
    | none => (2, 0)
  copyOpen s g i && (List.range 8).all (fun j =>
    !copyOpen s g j || (rank i).1 < (rank j).1 || ((rank i).1 == (rank j).1 && (rank i).2 ≤ (rank j).2))

/-- COPY_ROW_WRITE: one engine access of a command, 128 bytes of a tile row, or a block row of a TPREF (R406 to
R411). -/
def execCopyRowWrite (core i : Nat) (s : State) : Host.Outcome State Fault Refusal :=
  if !copyServed s core i then .next s
  else
    match lget (s.core core).copies i with
    | none => .next s
    | some q =>
      let s1 := (modCopy core q.id (fun y => { y with begun := true }) s).modCore core (fun c => { c with copyNext := q.id })
      match q.kind with
      | .tstore => .next (storeStep core q s1)
      | .tpref => .next (prefStep core q s1)
      | _ => .next (fillStep core q s1)

/-- The credits of a completed command (R406, R409, R469). -/
def copyCredits (q : CopyCmd) (s : State) : State :=
  match q.bar with
  | none => s
  | some b =>
    if q.kind == .tmcast then
      q.credits.foldl (fun s x => if x.2 = 0 then s else creditBarrier x.1 b x.2 s) s
    else creditBarrier q.team b q.credit s

/-- COPY_COMMAND_COMPLETE: every write has been performed (R406). -/
def execCopyCommandComplete (core i : Nat) (s : State) : Host.Outcome State Fault Refusal :=
  match lget (s.core core).copies i with
  | none => .next s
  | some q =>
    if q.stopped.isSome || q.nextRow < q.rows || q.inFlight != 0 then .next s
    else
      let s1 := s.modCore core (fun c => { c with copies := ldel c.copies i })
      let fills := q.kind != .tstore && q.ownTile (s.team q.team).number
      let s2 := if fills then fillEnds q.team q.tile s1 else s1
      .next (copyCredits q s2)

/-- MULTICAST_DELIVERY: bytes of a row arrive at a receiving team (R279, R280). -/
def execMulticastDelivery (pkg i : Nat) (s : State) : Host.Outcome State Fault Refusal :=
  match lget (s.pkg pkg).multicasts i with
  | none => .next s
  | some d =>
    let s1 := s.modPkg pkg (fun x => { x with multicasts := ldel x.multicasts i })
    let (m, s2) := deliverRow d.toTeam d.tile d.row d.first (List.zipWith (fun b p => (b, p)) d.bytes d.poison) s1
    let short := m < d.bytes.length
    let seen := match (s.core d.core).copies.find? (fun q => q.id == d.cmd) with
      | some q => q.dropped.contains d.toTeam
      | none => false
    let s3 := if short && !seen then countCore 0x21 1 (s.team d.toTeam).core s2 else s2
    .next (modCopy d.core d.cmd (fun q => { q with
      inFlight := q.inFlight - 1
      credits := tput q.credits d.toTeam ((tget q.credits d.toTeam).getD 0 + m)
      dropped := if short then unionList q.dropped [d.toTeam] else q.dropped }) s3)

end Sys2Proof.Machine
end

