-- ==== Sys2Proof/Machine/Queues.lean ====
section
/-!
DEFINITION. Machine/Queues.lean: handle queues, dataflow channels, VEER and the die link's turnaround
queue (R414 to R434).
-/

namespace Sys2Proof.Machine

open Sys2Proof

/-! ## Handle queues (R414 to R421) -/

/-- A queue that is not declared. -/
def HQueue.blank : HQueue := { ring := 0, decl := false, size := 1, count := 0, head := 0 }

def State.hq (s : State) (t q : Nat) : HQueue := (tget (s.team t).hqs q).getD HQueue.blank

def State.setHq (s : State) (t q : Nat) (x : HQueue) : State :=
  s.modTeam t (fun y => { y with hqs := tput y.hqs q x })

/-- The number of the queue, or of the endpoint, that an instruction names. -/
def queueNum (f : FX) : Nat := (fieldOf f.ctl 0 4).toNat

/-- A queue that is not declared raises QUEUE, before any wait (R417). -/
def queueCheck (f : FX) (c : Ctx) (s : State) : PreCheck :=
  if (s.hq (s.warp c.k).team (queueNum f)).decl then .pass else .fault (plainFault causeQueue)

/-- The team, the queue that an instruction names, and its state. -/
def withQueue (c : Ctx) (f : FX) (go : Nat → Nat → HQueue → PassResult) (s : State) : PassResult :=
  go (s.warp c.k).team (queueNum f) (s.hq (s.warp c.k).team (queueNum f))

/-- HQPUSH, a release of the pusher's earlier actions (R418, R421). -/
def execHqpush (h : Hdr) (f : FX) (s : State) : Host.Outcome State Fault Refusal :=
  runChecked (.hqpush h f) .first (queueCheck f) (fun c s => withQueue c f (fun t q x =>
    if x.size ≤ x.count || arriveWaits s c.k 0 then .wait s
    else
      let v := c.view.sval c.e f.e0.toNat
      let s1 := sharedStore t (x.ring + 4 * ((x.head + x.count) % x.size)) (leBytes 4 v.toNat) s
      .ok (s1.setHq t q { x with count := x.count + 1 })) s) s

/-- The oldest entry taken: its word, its poison and the state after it (R419). -/
def takeEntry (k t q : Nat) (x : HQueue) (s : State) : Word × Bool × State :=
  let (bs, s1) := sharedFetch k (x.ring + 4 * x.head) 4 s
  (BitVec.ofNat 32 (leValue (bs.map (·.1))), bs.any (·.2),
    s1.setHq t q { x with head := (x.head + 1) % x.size, count := x.count - 1 })

/-- A scalar that a producer of one word will write. -/
def produceWord (c : Ctx) (code : Nat) (v : Word) (poison : Bool) (s : State) : State :=
  s.modWarp c.k (fun w => w.produceS c.q.wb [code] (fun b =>
    { b with swrites := b.swrites ++
        (if isS code then [{ entry := splitName w c.e, reg := code - 768, val := v, poison := poison }] else []) }))

/-- HQPOP (R419). -/
def execHqpop (h : Hdr) (f : FX) (s : State) : Host.Outcome State Fault Refusal :=
  runChecked (.hqpop h f) .first (queueCheck f) (fun c s => withQueue c f (fun t q x =>
    if x.count = 0 then .wait s
    else
      let (v, bad, s1) := takeEntry c.k t q x s
      .ok (produceWord c f.e0.toNat v bad s1)) s) s

/-- HQTRY (R420). -/
def execHqtry (h : Hdr) (f : FX) (s : State) : Host.Outcome State Fault Refusal :=
  runChecked (.hqtry h f) .first (queueCheck f) (fun c s => withQueue c f (fun t q x =>
    let d := f.e0.toNat
    if x.count = 0 then .ok (s.modWarp c.k (fun w => w.setSs c.e d [0#32, 0#32]))
    else
      let (v, bad, s1) := takeEntry c.k t q x s
      .ok (s1.modWarp c.k (fun w => (w.setScalar c.e (d - 768) v bad).setS c.e (d + 1) 1#32))) s) s

/-! ## Channels (R423 to R429) -/

/-- An endpoint that is not declared. -/
def Endpoint.blank : Endpoint :=
  { base := 0, peer := 0, peerEp := 0, slots := 1, size := 64, cnt := 0, idx := 0, held := false,
    closed := false, decl := false }

def State.send (s : State) (t e : Nat) : Endpoint := (tget (s.team t).sends e).getD Endpoint.blank
def State.recv (s : State) (t e : Nat) : Endpoint := (tget (s.team t).recvs e).getD Endpoint.blank

def State.setSend (s : State) (t e : Nat) (x : Endpoint) : State :=
  s.modTeam t (fun y => { y with sends := tput y.sends e x })
def State.setRecv (s : State) (t e : Nat) (x : Endpoint) : State :=
  s.modTeam t (fun y => { y with recvs := tput y.recvs e x })

/-- A team of the launch of another, by its number. -/
def State.peerKey (s : State) (t n : Nat) : Nat := 320 * (s.team t).launch + n

/-- The endpoint that a CSEND, or a CRECV or CPOLL, names. -/
def sendNamed (f : FX) (c : Ctx) (s : State) : Endpoint := s.send (s.warp c.k).team (queueNum f)
def recvNamed (f : FX) (c : Ctx) (s : State) : Endpoint := s.recv (s.warp c.k).team (queueNum f)

/-- The endpoint of a CPOLL: a send endpoint when SEND is set (R427). -/
def polled (f : FX) (c : Ctx) (s : State) : Endpoint := if f.ctl.getLsbD 4 then sendNamed f c s else recvNamed f c s

/-- An endpoint that is not declared raises CHANNEL, before any wait (R417). -/
def declCheck (x : Endpoint) : PreCheck := if x.decl then .pass else .fault (plainFault causeChannel)

/-- The accesses of a warp that a delivery at package scope must follow: its writes that no slice has acknowledged, and
its loads and atomics whose data has not come (R365, R425). -/
def Warp.packageOut (w : Warp) : List Nat :=
  (w.acks.filter (fun a => a.kind == .slice)).map (·.id) ++ (w.pend.filter (fun b => b.holes != 0)).map (·.id)

/-- CSEND (R425): the bytes are read at issue; the delivery awaits the accesses it must follow. -/
def csendEffect (f : FX) (c : Ctx) (s : State) : PassResult :=
  let w := s.warp c.k
  let t := w.team
  let e := queueNum f
  let x := sendNamed f c s
  let o := (c.view.sval c.e f.e0.toNat).toNat
  if o % 4 != 0 then .fault s { cause := causeAlignment, va := BitVec.ofNat 80 o, lanes := 0#96 }
  else if (s.warpLaunch c.k).info.sarea < o + x.size then
    .fault s { cause := causeShared, va := BitVec.ofNat 80 o, lanes := 0#96 }
  else if x.closed then .fault s (plainFault causeChannel)
  else if x.cnt = 0 || w.acquireOut || l1Stalled s (coreOf c.k) (s.fused c.k) then .wait s
  else
    let (bs, s1) := sharedFetch c.k o x.size s
    let s2 := releaseL1 (coreOf c.k) (s1.fused c.k) 2 s1
    let d : ChDelivery :=
      { launch := (s.team t).launch, fromTeam := t, fromEp := e, toTeam := s.peerKey t x.peer,
        toEp := x.peerEp, slot := x.idx, bytes := bs.map (·.1), poison := bs.map (·.2), warp := c.k,
        after := w.packageOut }
    let s3 := s2.setSend t e { x with cnt := x.cnt - 1, idx := (x.idx + 1) % x.slots }
    .ok (s3.modPkg (pkgOf (coreOf c.k)) (fun p => { p with chDeliveries := p.chDeliveries ++ [d] }))

def execCsend (h : Hdr) (f : FX) (s : State) : Host.Outcome State Fault Refusal :=
  runChecked (.csend h f) .first (fun c s => declCheck (sendNamed f c s)) (csendEffect f) s

/-- A slot freed: its credit goes back to the sender (R426). -/
def returnCredit (k t : Nat) (x : Endpoint) (s : State) : State :=
  if x.held then
    s.modPkg (pkgOf (coreOf k)) (fun p => { p with
      chCredits := p.chCredits ++ [{ launch := (s.team t).launch, toTeam := s.peerKey t x.peer, toEp := x.peerEp }] })
  else s

/-- CRECV (R426): the free and the take are one step. -/
def crecvEffect (f : FX) (c : Ctx) (s : State) : PassResult :=
  let t := (s.warp c.k).team
  let e := queueNum f
  let x := recvNamed f c s
  if f.ctl.getLsbD 4 then
    .ok ((returnCredit c.k t x s).setRecv t e { x with held := false })
  else if x.cnt = 0 then (if x.closed then .fault s (plainFault causeChannel) else .wait s)
  else
    let s1 := (returnCredit c.k t x s).setRecv t e
      { x with cnt := x.cnt - 1, idx := (x.idx + 1) % x.slots, held := true }
    let s2 := acquireL1 (coreOf c.k) (s.fused c.k) 2 s1
    .ok (produceWord c f.e0.toNat (BitVec.ofNat 32 (x.base + x.size * x.idx)) false s2)

def execCrecv (h : Hdr) (f : FX) (s : State) : Host.Outcome State Fault Refusal :=
  runChecked (.crecv h f) .first (fun c s => declCheck (recvNamed f c s)) (crecvEffect f) s

/-- CPOLL (R427). -/
def execCpoll (h : Hdr) (f : FX) (s : State) : Host.Outcome State Fault Refusal :=
  runChecked (.cpoll h f) .first (fun c s => declCheck (polled f c s)) (fun c s =>
    let x := polled f c s
    let v : Word := BitVec.ofNat 32 ((if x.closed then 128 else 0) + x.cnt)
    .ok (s.modWarp c.k (fun w => w.setS c.e f.e0.toNat v))) s

/-- Whether delivery i of a package may land: the accesses it follows have completed, and no earlier
delivery of its channel is in flight (R425). -/
def deliveryDue (s : State) (x : Package) (i : Nat) : Bool :=
  match lget x.chDeliveries i with
  | none => false
  | some d =>
    !((s.warp d.warp).packageOut.any d.after.contains) &&
    !((x.chDeliveries.take i).any (fun e => e.launch == d.launch && e.toTeam == d.toTeam && e.toEp == d.toEp))

/-- Whether a team still has its memory and its endpoints, live or in its image. -/
def State.teamHeld (s : State) (t : Nat) : Bool :=
  (s.team t).run == .reserved || (s.team t).run == .running || (s.team t).run == .preempted

/-- CHANNEL_DELIVERY: the bytes land in their slot and the receiver counts them; a receiver that has retired or was ended
takes nothing (R34, R425, R428). -/
def execChannelDelivery (pkg i : Nat) (s : State) : Host.Outcome State Fault Refusal :=
  if !deliveryDue s (s.pkg pkg) i then .next s
  else
    match lget (s.pkg pkg).chDeliveries i with
    | none => .next s
    | some d =>
      let s1 := s.modPkg pkg (fun x => { x with chDeliveries := ldel x.chDeliveries i })
      let y := s1.recv d.toTeam d.toEp
      if !y.decl || !s1.teamHeld d.toTeam then .next s1
      else
        let bs := List.zipWith (fun b p => (b, p)) d.bytes d.poison
        let s2 := sharedMove d.toTeam (y.base + y.size * d.slot) bs s1
        .next (s2.setRecv d.toTeam d.toEp { y with cnt := y.cnt + 1 })

/-- CHANNEL_CREDIT_RETURN: a freed slot's credit arrives at the sender (R426, R428). -/
def execChannelCreditReturn (pkg i : Nat) (s : State) : Host.Outcome State Fault Refusal :=
  match lget (s.pkg pkg).chCredits i with
  | none => .next s
  | some d =>
    let s1 := s.modPkg pkg (fun x => { x with chCredits := ldel x.chCredits i })
    let y := s1.send d.toTeam d.toEp
    if y.decl && s1.teamHeld d.toTeam then .next (s1.setSend d.toTeam d.toEp { y with cnt := y.cnt + 1 }) else .next s1

/-! ## The die link (R430 to R434) -/

/-- A module; modules 0 to 15 start toward die 1 (R430). -/
def Package.module (x : Package) (m : Nat) : Module :=
  (tget x.modules m).getD { toward1 := m < 16, taken := false, drained := false }

/-- The modules that carry traffic in a direction. -/
def Package.carrying (x : Package) (toward1 : Bool) : List Nat :=
  (List.range 32).filter (fun m => !(x.module m).taken && (x.module m).toward1 == toward1)

/-- A change to n modules toward die 1 begins: the modules it needs are taken (R431). -/
def Package.beginTurn (x : Package) (n : Nat) (guard : Bool) : Package :=
  let c := (x.carrying true).length
  let ms := if n < c then (x.carrying true).take (c - n) else (x.carrying false).take (n - c)
  { x with
    turnActive := some (n, guard)
    modules := ms.foldl (fun t m => tput t m { x.module m with taken := true, drained := false }) x.modules }

/-- Firmware's requests for 16 modules enter the queue as it has room for them: it holds 8 (R431, R434). -/
def Package.steer (x : Package) : Package :=
  if x.steerDue != 0 && x.turnQueue.length < 8 then
    { x with turnQueue := x.turnQueue ++ [16], steerDue := x.steerDue - 1 }
  else x

/-- The raises that the guard asked for, one begun when its direction still lacks modules (R432). -/
def Package.guardNext (x : Package) : List Bool → Package
  | [] => { x with guards := [] }
  | b :: bs =>
    if (x.carrying b).length < 8 then { x.beginTurn (if b then 8 else 24) true with guards := bs } else x.guardNext bs

/-- A change whose modules all carry traffic ends: a request leaves the queue and is counted; a raise
that the guard asked for comes before the next one (R431, R432). -/
def endTurn (p : Nat) (s : State) : State :=
  let x := s.pkg p
  match x.turnActive with
  | some (_, guard) =>
    if (List.range 32).any (fun m => (x.module m).taken) then s
    else
      let y := if guard then { x with turnActive := none }
        else { x with turnActive := none, turnQueue := x.turnQueue.tail }.steer
      let s1 := s.setPkg p (y.guardNext y.guards)
      if guard then s1 else countDie 0x41 1 p 0 s1
  | none => s

/-- TURNAROUND_START: the request at the head starts (R431). -/
def execTurnaroundStart (pkg : Nat) (s : State) : Host.Outcome State Fault Refusal :=
  let x := s.pkg pkg
  match x.turnActive, x.turnQueue with
  | none, n :: _ => .next (endTurn pkg (s.setPkg pkg (x.beginTurn n false)))
  | _, _ => .next s

/-- MODULE_DRAINED: a taken module's transfers have completed (R431). -/
def execModuleDrained (pkg module : Nat) (s : State) : Host.Outcome State Fault Refusal :=
  let m := (s.pkg pkg).module module
  if m.taken && !m.drained then
    .next (s.modPkg pkg (fun x => { x with modules := tput x.modules module { m with drained := true } }))
  else .next s

/-- MODULE_DEAD_TIME_EXPIRY: a reversed module carries traffic in its new direction (R431). -/
def execModuleDeadTimeExpiry (pkg module : Nat) (s : State) : Host.Outcome State Fault Refusal :=
  let m := (s.pkg pkg).module module
  if m.taken && m.drained then
    .next (endTurn pkg (s.modPkg pkg (fun x => { x with
      modules := tput x.modules module { toward1 := !m.toward1, taken := false, drained := false } })))
  else .next s

/-- STARVATION_GUARD: a direction of fewer than 8 modules is raised to 8, after the change in progress
(R432). -/
def execStarvationGuard (pkg toward : Nat) (s : State) : Host.Outcome State Fault Refusal :=
  let x := s.pkg pkg
  let b : Bool := toward == 1
  if 8 ≤ (x.carrying b).length || x.guards.contains b then .next s
  else
    let y := if x.turnActive.isSome then { x with guards := x.guards ++ [b] }
      else x.beginTurn (if b then 8 else 24) true
    .next (countDie 0x42 1 pkg 0 (s.setPkg pkg y))

/-- VEER (R433). -/
def veerEffect (f : FX) (c : Ctx) (s : State) : PassResult :=
  let n := if f.e1 == 643#10 then f.ctl.toNat else (c.view.sval c.e f.e1.toNat).toNat
  let p := pkgOf (coreOf c.k)
  let x := s.pkg p
  let put (s : State) (r : Nat) : PassResult :=
    .ok (s.modWarp c.k (fun w => w.setS c.e f.e0.toNat
      (BitVec.ofNat 32 (2 ^ 16 * (x.carrying true).length + r))))
  if n < 4 || 28 < n then .fault s (plainFault causeVeer)
  else if !(s.warpLaunch c.k).granted then put s 1
  else if 8 ≤ x.turnQueue.length then put s 2
  else put (s.setPkg p { x with turnQueue := x.turnQueue ++ [n] }) (2 ^ 8 * x.turnQueue.length)

def execVeer (h : Hdr) (f : FX) (s : State) : Host.Outcome State Fault Refusal :=
  runPass (.veer h f) .once (onceEffect (veerEffect f)) s

end Sys2Proof.Machine
end

