-- ==== Sys2Proof/Machine/Records.lean ====
section
/-!
DEFINITION. Machine/Records.lean: the front end's own accesses, node records and launch records with
their checks, and the placement of teams on cores (R18 to R24, R295, R297 to R299, R308, R506).
-/

namespace Sys2Proof.Machine

open Sys2Proof

/-! ## Accesses of the front end (R506) -/

/-- The place of a front-end access in a ring's address space; it walks the page table at each access, its reads made at
the home slices, and what a KIND 4 leaf maps is reached through the gateway of the package's first die (R285, R437,
R506; log 14). -/
def fePlace (p : Nat) (r : Ring) (va : A80) (a : Access) (s : State) : EnginePlace × State :=
  let t := walkReads s p r.root va.toNat r.tkey
  match walk t p r.root va.toNat with
  | .fault c => (.fault c, t)
  | .bad => (.bad p 0, t)
  | .stall => (.stall, t)
  | .leaf e big =>
    match leafFault e r.tkey a with
    | some c => (.fault c, t)
    | none =>
      match leafPlace t p e big va.toNat with
      | .ok q =>
        if keyKind q.key = 4 then
          let (x, t1) := farPlace (320 * p) r.tkey q a t
          (EnginePlace.ofFabric x, t1)
        else (.here q, t)
      | .fault c => (.fault c, t)
      | _ => (.stall, t)

/-- n bytes read by the front end at their home slices. -/
def fePieces (p : Nat) (r : Ring) : List (A80 × Nat) → State → EngineAns × State
  | [], s => (.bytes [], s)
  | (va, n) :: xs, s =>
    let join (bs : List (Byte × Bool)) (x : EngineAns × State) : EngineAns × State :=
      match x with
      | (.bytes cs, t) => (.bytes (bs ++ cs), t)
      | x => x
    match fePlace p r va .read s with
    | (.fault c, s) => (.fault c va, s)
    | (.bad n d, s) => (.bad n d, s)
    | (.stall, s) => (.stall, s)
    | (.silent, s) => join (List.replicate n (0#8, true)) (fePieces p r xs s)
    | (.here q, s) =>
      let (bs, s1) := if keyKind q.key = 3 then busTake p q n s else slicePlaceRead r.tkey q n s
      join (bs.map (fun b => (b.1, b.2 || q.poa))) (fePieces p r xs s1)

def feRead (p : Nat) (r : Ring) (va : A80) (n : Nat) (s : State) : EngineAns × State :=
  fePieces p r (piecesOf va n) s

/-- The places of the pieces of a front-end store, found before any byte is written. -/
def fePlaces (p : Nat) (r : Ring) : List (A80 × Nat) → State → Except EngineAns (List (EnginePlace × Nat)) × State
  | [], s => (.ok [], s)
  | (va, n) :: xs, s =>
    match fePlace p r va .write s with
    | (.fault c, s1) => (.error (.fault c va), s1)
    | (.bad n d, s1) => (.error (.bad n d), s1)
    | (.stall, s1) => (.error .stall, s1)
    | (q, s1) =>
      match fePlaces p r xs s1 with
      | (.ok ps, s2) => (.ok ((q, n) :: ps), s2)
      | x => x

/-- Bytes stored by the front end at places one after the other: each home slice that is reached takes its line, and an
unanswered fabric write is dropped and counted (R293, R438). -/
def feStore (p : Nat) (r : Ring) : List (EnginePlace × Nat) → List (Byte × Bool) → State → State
  | [], _, s => s
  | (q, n) :: ps, bs, s =>
    let s1 := match q with
      | .here q =>
        if keyKind q.key = 3 then busPost p q ((bs.take n).map (·.1)) s
        else homeMove q.key (bs.take n) (touchHome q.key r.tkey s)
      | _ => countError 14 1 p 0 s
    feStore p r ps (bs.drop n) s1

/-- Bytes written by the front end at their home slices, when every piece translates. -/
def feWrite (p : Nat) (r : Ring) (va : A80) (bs : List (Byte × Bool)) (s : State) : EngineAns × State :=
  match fePlaces p r (piecesOf va bs.length) s with
  | (.ok ps, s1) => (.bytes [], feStore p r ps bs s1)
  | (.error e, s1) => (e, s1)

/-! ## Node records (R297) -/

/-- The fields of a node record. -/
structure NodeRec where
  seq : Nat
  kind : Nat
  replay : Bool
  prio : Nat
  phase : Nat
  preds : Nat
  loopPreds : Nat
  nsucc : Nat
  succ : List Nat
  ovfl : A80
  novfl : Nat
  cond : A80
  lrec : A80
  args : A80
  compl : A80
  part : BitVec 32
  handler : A80
  outlist : A80
  nout : Nat
  value : Nat
deriving DecidableEq, Repr

/-- The address in 10 bytes of a record. -/
def addrAt (d : List Byte) (o : Nat) : A80 := BitVec.ofNat 80 (leAt d o 10)

def nodeOf (d : List Byte) : NodeRec :=
  { seq := leAt d 0 4, kind := leAt d 4 1, replay := (leAt d 5 1).testBit 0, prio := leAt d 5 1 / 2 % 4,
    phase := leAt d 6 1 % 16, preds := leAt d 8 2, loopPreds := leAt d 10 2, nsucc := leAt d 12 1,
    succ := ((List.range 8).map (fun i => leAt d (0x10 + 4 * i) 4)).take (leAt d 12 1),
    ovfl := addrAt d 0x30, novfl := leAt d 0x3A 2, cond := addrAt d 0x40, lrec := addrAt d 0x50,
    args := addrAt d 0x60, compl := addrAt d 0x70, part := BitVec.ofNat 32 (leAt d 0x80 4),
    handler := addrAt d 0x88, outlist := addrAt d 0x98, nout := leAt d 0xA2 2, value := leAt d 0xA8 8 }

/-- The byte ranges of a record that must be zero, and those that a kind does not use (R297). -/
def nodeZeros (kind : Nat) : List (Nat × Nat) :=
  [(0x07, 1), (0x0D, 3), (0x3C, 4), (0x4A, 6), (0x5A, 6), (0x6A, 6), (0x7A, 6), (0x84, 4), (0x92, 6),
   (0xA4, 4), (0xB0, 0x48)] ++
  (if kind = 4 then [] else [(0x0A, 2)]) ++
  (if kind = 1 || kind = 2 then [] else [(0x06, 1), (0x50, 10), (0x60, 10)]) ++
  (if 3 ≤ kind then [] else [(0x40, 10)]) ++
  (if kind = 1 then [] else [(0x80, 4), (0x88, 10), (0x98, 12)]) ++
  (if kind = 2 || kind = 5 || kind = 6 then [] else [(0xA8, 8)])

/-- Whether a record obeys R297, but for what the launch record decides, and R302's rule on NSUCC. FLAGS' REPLAY and PRIO
are of a KERNEL only (R297, R306). -/
def nodeOk (d : List Byte) : Bool :=
  let x := nodeOf d
  let fl := leAt d 5 1
  x.kind ≤ 6 && (nodeZeros x.kind).all (fun z => zeroAt d z.1 z.2) && fl < 8 && leAt d 6 1 < 16 &&
  (x.kind == 1 || (!x.replay && x.prio == 0)) && x.nsucc ≤ 8 && x.novfl ≤ 1024 && x.nout ≤ 256 &&
  (List.range 8).all (fun i => leAt d (0x10 + 4 * i) 4 < 2 ^ 22) &&
  !x.part.getLsbD 15 && !x.part.getLsbD 31 && x.compl.toNat % 16 == 0 &&
  (match x.kind with
   | 3 | 4 => x.cond.toNat % 4 == 0 && 2 ≤ x.nsucc
   | 5 | 6 => x.cond.toNat % 8 == 0
   | _ => true)

/-- What a read of a record finds: a valid copy, or one whose TAIL differs from its header (R299). -/
inductive RecordRead where
  | copy (d : List Byte)
  | torn (d : List Byte)
  | fault (cause : BitVec 8)
  /-- An entry of the walk cannot be read, in a package and die (R218). -/
  | bad (p d : Nat)
  | stall

/-- A record read in memory: valid when its TAIL equals its header (R295, R299). -/
def readRecord (p ring slot : Nat) (s : State) : RecordRead × State :=
  match tget (s.pkg p).rings ring with
  | none => (.stall, s)
  | some r =>
    match feRead p r (r.base + BitVec.ofNat 80 (256 * slot)) 256 s with
    | (.bytes bs, t) =>
      let d := bs.map (·.1)
      (if leAt d 0 8 = leAt d 0xF8 8 then .copy d else .torn d, t)
    | (.fault c _, t) => (.fault c, t)
    | (.bad n d, t) => (.bad n d, t)
    | (.stall, t) => (.stall, t)

/-! ## Launch records (R18 to R21) -/

/-- An endpoint of a launch record: peer team, peer endpoint, slots and slot bytes, when declared. -/
def endpointAt (d : List Byte) (o : Nat) : Option (Nat × Nat × Nat × Nat) :=
  if (leAt d (o + 3) 1).testBit 7 then
    some (leAt d o 2, leAt d (o + 2) 1, leAt d (o + 3) 1 % 64 + 1, 64 * (leAt d (o + 4) 1 % 16 + 1))
  else none

/-- The fields of a launch record; a role's budget is in registers. -/
def launchRecOf (d : List Byte) : LaunchRec :=
  let fl := leAt d 0x3A 2
  { codebase := addrAt d 8, planes := BitVec.ofNat 2 (leAt d 0x12 1), pstride := leAt d 0x13 1,
    roles := (List.range 3).map (fun i =>
      { entry := BitVec.ofNat 32 (leAt d (0x14 + 4 * i) 4), lanes := leAt d (0x20 + 2 * i) 2,
        budget := 32 * leAt d (0x28 + i) 1 }),
    shared := leAt d 0x2C 4, accum := leAt d 0x30 4, tiles := leAt d 0x34 1, barT := leAt d 0x35 1,
    barS := leAt d 0x36 1, barG := leAt d 0x37 1, teams := leAt d 0x38 2, fuse := fl.testBit 0,
    coll := fl.testBit 1, veer := fl.testBit 2,
    hqs := (List.range 16).map (fun q =>
      let b := leAt d (0x80 + 4 * q) 1
      if b.testBit 7 then some (b % 32 + 1) else none),
    sends := (List.range 16).map (fun e => endpointAt d (0xC0 + 8 * e)),
    recvs := (List.range 16).map (fun e => endpointAt d (0x140 + 8 * e)) }

/-- Warps of a role (R19). -/
def RoleRec.warps (r : RoleRec) : Nat := (r.lanes + 95) / 96

/-- The reserved bytes and bits of a launch record are zero. -/
def launchZeros (d : List Byte) : Bool :=
  [(0x04, 4), (0x26, 2), (0x2B, 1), (0x3C, 0x44), (0x1C0, 0x40)].all (fun z => zeroAt d z.1 z.2) &&
  leAt d 0x12 1 < 4 && leAt d 0x3A 2 < 8 &&
  (List.range 16).all (fun q => leAt d (0x80 + 4 * q) 1 / 32 % 4 == 0 && zeroAt d (0x81 + 4 * q) 3) &&
  (List.range 32).all (fun e =>
    let o := 0xC0 + 8 * e
    leAt d (o + 3) 1 / 64 % 2 == 0 && leAt d (o + 4) 1 < 16 && zeroAt d (o + 5) 3)

/-- Whether the declared endpoints of one list find their partners in the other (R21 code 0x07). -/
def endpointsOk (r : LaunchRec) (mine other : List (Option (Nat × Nat × Nat × Nat))) : Bool :=
  (List.range 16).all (fun e =>
    match (lget mine e).join with
    | none => true
    | some (peer, f, slots, size) =>
      peer < r.teams && f ≤ 15 &&
      match (lget other f).join with
      | none => false
      | some (_, e2, slots2, size2) => e2 == e && slots2 == slots && size2 == size)

/-- The lowest code of R21 that a launch record fails, 9 left out; 0 when it fails none. A record that is
not aligned to 64 bytes fails with code 1 (log 14). -/
def launchCode (addr : A80) (d : List Byte) : Nat :=
  let r := launchRecOf d
  let ws := r.roles.map RoleRec.warps
  let most := [8, 24, 24]
  let roleOk (x : RoleRec) : Bool :=
    if x.lanes = 0 then x.budget == 0 else 32 ≤ x.budget && x.budget ≤ 640
  if leAt d 0 2 != 1 || leAt d 2 2 != 512 || !launchZeros d || addr.toNat % 64 != 0 then 1
  else if r.planes == 3#2 ||
      (if r.planes == 0#2 then r.pstride != 0 else r.pstride < 16 || 28 < r.pstride) then 2
  else if r.codebase.toNat % 64 != 0 || (r.planes != 0#2 && r.codebase.toNat % 2 ^ r.pstride != 0) then 3
  else if r.roles.any (fun x => 4 < slotNum x.entry) then 4
  else if ws.sum = 0 || 48 < ws.sum || (List.zipWith (fun a b => decide (b < a)) ws most).any id ||
      !r.roles.all roleOk then 5
  else if r.shared % 8192 != 0 || 524288 < r.sarea || r.accum % 2048 != 0 || 131072 < r.accum ||
      64 < r.tiles || 128 < r.barT + r.barS + r.barG || r.teams = 0 || 320 < r.teams then 6
  else if !endpointsOk r r.sends r.recvs || !endpointsOk r r.recvs r.sends then 7
  else if r.fuse && r.teams % 4 != 0 then 8
  else 0

/-! ## Partitions (R308) -/

/-- The cores of a die's collective partition: its highest-numbered ones. -/
def Package.collCores (x : Package) : BitVec 160 :=
  BitVec.ofNat 160 ((2 ^ x.collSize - 1) * 2 ^ (160 - x.collSize))

/-- The cores of a user partition of a die; at reset every core is in partition 0. -/
def Package.userPart (x : Package) (d part : Nat) : BitVec 160 :=
  (tget x.partitions (16 * d + part)).getD (if part = 0 then ~~~0#160 else 0#160)

/-- The cores that a launch may be placed on, by key, in the order of R24; withdrawn cores are not
among them (R487). -/
def launchCores (s : State) (p : Nat) (part : BitVec 32) (coll : Bool) : List Nat :=
  let x := s.pkg p
  (List.range 320).filterMap (fun i =>
    let d := i / 160
    let c := i % 160
    let m := if coll then x.collCores
      else
        let named := (List.range 15).foldl (fun m j =>
          if part.getLsbD (16 * d + j) then m ||| x.userPart d j else m) 0#160
        named &&& ~~~x.collCores
    if m.getLsbD c && !(s.core (320 * p + i)).withdrawn then some (320 * p + i) else none)

/-! ## Placement (R22 to R24) -/

/-- What a core has free: granules and warp slots of each scheduler, shared and accumulator blocks, tile
entries and barriers. -/
structure CoreFree where
  granules : List (List Nat)
  slots : List (List Nat)
  shared : List Nat
  accum : List Nat
  tiles : List Nat
  bars : List Nat
deriving DecidableEq, Repr

/-- A core that holds nothing. -/
def CoreFree.whole : CoreFree :=
  { granules := List.replicate 4 (List.range 48), slots := (List.range 4).map (fun i => span (12 * i) 12),
    shared := List.range 64, accum := List.range 64, tiles := List.range 64, bars := List.range 128 }

/-- A warp slot is free when it holds no warp, or one that has retired and whose producers have all
written back (R34). -/
def slotFree (s : State) (k : Nat) : Bool :=
  match tget s.warps k with
  | none => true
  | some w => w.retired && w.pend.isEmpty

/-- The numbers of a list that another lacks. -/
def without (a b : List Nat) : List Nat := a.filter (fun x => !b.contains x)

/-- What a core has free now: teams that run on it hold their maps, their warps slots and granules. -/
def coreFree (s : State) (g : Nat) : CoreFree :=
  let ts := (s.teams.filter (fun t => t.2.core == g && t.2.run == .running)).map (·.2)
  let busy := (List.range 48).filter (fun i => !slotFree s (48 * g + i))
  { granules := (List.range 4).map (fun c =>
      without (List.range 48) ((busy.filter (fun i => i / 12 == c)).flatMap (fun i => (s.warp (48 * g + i)).granules)))
    slots := (List.range 4).map (fun c => without (span (12 * c) 12) busy)
    shared := without (List.range 64) (ts.flatMap (·.sharedBlocks))
    accum := without (List.range 64) (ts.flatMap (·.accumBlocks))
    tiles := without (List.range 64) (ts.flatMap (·.tileMap))
    bars := without (List.range 128) (ts.flatMap (·.barMap)) }

/-- A warp's seat: WARPID, slot and granules. -/
structure WarpSeat where
  warpid : Nat
  slot : Nat
  granules : List Nat
deriving DecidableEq, Repr

/-- A team's seat on a core. -/
structure TeamSeat where
  core : Nat
  warps : List WarpSeat
  shared : List Nat
  accum : List Nat
  tiles : List Nat
  bars : List Nat
deriving DecidableEq, Repr

/-- The scheduler with the most free granules that has a free slot, the lowest of equals (R23 step 2). -/
def pickSched (f : CoreFree) : Option Nat :=
  (List.range 4).foldl (fun b c =>
    if ((lget f.slots c).getD []).isEmpty then b
    else
      match b with
      | none => some c
      | some d =>
        if ((lget f.granules d).getD []).length < ((lget f.granules c).getD []).length then some c else b) none

/-- A warp of n granules given to its scheduler: its lowest free slot and granules (R23). -/
def seatWarp (f : CoreFree) (warpid n : Nat) : Option (WarpSeat × CoreFree) :=
  match pickSched f with
  | none => none
  | some c =>
    let gs := (lget f.granules c).getD []
    match (lget f.slots c).getD [] with
    | [] => none
    | i :: rest =>
      if gs.length < n then none
      else some ({ warpid := warpid, slot := i, granules := gs.take n },
        { f with granules := lset f.granules c (gs.drop n), slots := lset f.slots c rest })

/-- The warps of a team: WARPID, role, role-local number, live lanes and budget (R19). -/
def teamWarpList (r : LaunchRec) : List (Nat × Nat × Nat × Nat × Nat) :=
  let one (role first : Nat) : List (Nat × Nat × Nat × Nat × Nat) :=
    match lget r.roles role with
    | none => []
    | some x => (List.range x.warps).map (fun w => (first + w, role, w, min 96 (x.lanes - 96 * w), x.budget))
  let n (role : Nat) : Nat := match lget r.roles role with | some x => x.warps | none => 0
  one 0 0 ++ one 1 (n 0) ++ one 2 (n 0 + n 1)

/-- A warp put in its place: descending budget, then ascending WARPID (R23 step 1). -/
def insertBudget (x : Nat × Nat) : List (Nat × Nat) → List (Nat × Nat)
  | [] => [x]
  | y :: ys => if y.2 < x.2 then x :: y :: ys else y :: insertBudget x ys

/-- The warps of a list seated one after the other. -/
def seatWarps : List (Nat × Nat) → CoreFree → Option (List WarpSeat × CoreFree)
  | [], f => some ([], f)
  | (i, b) :: xs, f =>
    match seatWarp f i (b / 32) with
    | none => none
    | some (w, f1) =>
      match seatWarps xs f1 with
      | none => none
      | some (ws, f2) => some (w :: ws, f2)

/-- A team seated on a core, if it fits (R23). -/
def seatTeam (r : LaunchRec) (g : Nat) (f : CoreFree) : Option TeamSeat :=
  let ns := r.sarea / 8192
  let na := r.accum / 2048
  let nb := r.barT + r.barS + r.barG
  if f.shared.length < ns || f.accum.length < na || f.tiles.length < r.tiles || f.bars.length < nb then none
  else
    let order := ((teamWarpList r).map (fun w => (w.1, w.2.2.2.2))).foldl (fun t x => insertBudget x t) []
    match seatWarps order f with
    | none => none
    | some (ws, _) =>
      some { core := g, warps := ws, shared := f.shared.take ns, accum := f.accum.take na,
             tiles := f.tiles.take r.tiles, bars := f.bars.take nb }

/-- The first core of a list that a team fits, and the other cores: a launch has at most one team on any
core (R11, R24). -/
def seatFirst (r : LaunchRec) : List (Nat × CoreFree) → Option (TeamSeat × List (Nat × CoreFree))
  | [] => none
  | (g, f) :: xs =>
    match seatTeam r g f with
    | some t => some (t, xs)
    | none =>
      match seatFirst r xs with
      | some (t, ys) => some (t, (g, f) :: ys)
      | none => none

/-- n teams placed in ascending number on the cores of a list (R24). -/
def seatTeams (r : LaunchRec) : Nat → List (Nat × CoreFree) → Option (List TeamSeat)
  | 0, _ => some []
  | n + 1, cs =>
    match seatFirst r cs with
    | none => none
    | some (t, cs1) =>
      match seatTeams r n cs1 with
      | none => none
      | some ts => some (t :: ts)

/-- Four teams on cores 0 to 3 of one cluster, the lowest that takes them, and the other clusters (R24). -/
def seatCluster (r : LaunchRec) : List (List (Nat × CoreFree)) → Option (List TeamSeat × List (List (Nat × CoreFree)))
  | [] => none
  | cs :: rest =>
    let seats := cs.map (fun c => seatTeam r c.1 c.2)
    if seats.length = 4 && seats.all (·.isSome) then some (seats.filterMap id, rest)
    else
      match seatCluster r rest with
      | some (ts, ys) => some (ts, cs :: ys)
      | none => none

/-- n groups of four teams on clusters. -/
def seatClusters (r : LaunchRec) : Nat → List (List (Nat × CoreFree)) → Option (List TeamSeat)
  | 0, _ => some []
  | n + 1, cs =>
    match seatCluster r cs with
    | none => none
    | some (ts, cs1) =>
      match seatClusters r n cs1 with
      | none => none
      | some us => some (ts ++ us)

/-- The clusters of a list of cores, whole ones only. -/
def clustersOf (cs : List (Nat × CoreFree)) : List (List (Nat × CoreFree)) :=
  ((cs.filter (fun c => c.1 % 4 == 0)).map (fun c => cs.filter (fun x => x.1 / 4 == c.1 / 4))).filter
    (fun g => g.length == 4)

/-- The teams of a launch placed on cores with what they have free (R24). -/
def placeOn (r : LaunchRec) (cs : List (Nat × CoreFree)) : Option (List TeamSeat) :=
  if r.fuse then seatClusters r (r.teams / 4) (clustersOf cs) else seatTeams r r.teams cs

/-- Whether some launch is resident on a cluster. -/
def clusterBusy (s : State) (g : Nat) : Bool :=
  s.teams.any (fun t => t.2.core / 4 == g / 4 && t.2.run == .running)

/-- The placement of a launch now (R23, R24). -/
def placeNow (s : State) (p : Nat) (r : LaunchRec) (part : BitVec 32) : Option (List TeamSeat) :=
  let cs := (launchCores s p part r.coll).filter (fun g => !r.fuse || !clusterBusy s g)
  placeOn r (cs.map (fun g => (g, coreFree s g)))

/-- Whether the named partitions could hold a launch when empty (R21 code 0x09). -/
def feasible (s : State) (p : Nat) (r : LaunchRec) (part : BitVec 32) : Bool :=
  (placeOn r ((launchCores s p part r.coll).map (fun g => (g, CoreFree.whole)))).isSome

end Sys2Proof.Machine
end

