-- ==== Sys2Proof/Machine/Collectives.lean ====
section
/-!
DEFINITION. Machine/Collectives.lean: groups and instances, CLRED, CLPUT, CLGET and REPART, their chunks,
deadlines and reruns (R439 to R464).
-/

namespace Sys2Proof.Machine

open Sys2Proof

/-! ## Group descriptors (R439) -/

/-- The fields of a group descriptor's head. -/
structure Group where
  nmemb : Nat
  self : Nat
  deadline : Nat
  compl : A80
  table : List (BitVec 64)

def groupOf (d : List Byte) : Group :=
  let n := leAt d 2 2
  { nmemb := n, self := leAt d 4 2, deadline := leAt d 0xC 4, compl := addrAt d 0x10,
    table := (List.range n).map (fun i => BitVec.ofNat 64 (leAt d (0x40 + 8 * i) 8)) }

/-- The head of a group descriptor obeys R439. -/
def groupHeadOk (d : List Byte) : Bool :=
  let x := groupOf (d.take 0x40)
  leAt d 0 2 == 1 && 1 ≤ x.nmemb && x.nmemb ≤ 4096 && x.self < x.nmemb && zeroAt d 6 2 &&
  1 ≤ x.deadline && x.deadline ≤ 2 ^ 20 && x.compl.toNat % 256 == 0 && zeroAt d 0x1A 6 &&
  leAt d 0x20 10 % 2 ^ 16 == 0 && zeroAt d 0x2A 22

/-- The fields of a member entry. -/
def memberPkg (e : BitVec 64) : Nat := (fieldOf e 0 10).toNat
def memberRing (e : BitVec 64) : Nat := (fieldOf e 10 6).toNat
def memberSlot (e : BitVec 64) : Nat := (fieldOf e 16 16).toNat
def memberTeam (e : BitVec 64) : Nat := (fieldOf e 32 16).toNat

/-- Whether entry SELF names a team (R446 check 1), and every entry's reserved bits are zero. -/
def selfOk (s : State) (t : Nat) (x : Group) : Bool :=
  let l := s.launchOf t
  x.table.all (fun e => fieldOf e 48 16 == 0#16) &&
  match lget x.table x.self with
  | none => false
  | some e => memberPkg e == (s.pkg l.pkg).number && memberRing e == l.ring && memberSlot e == l.slot &&
      memberTeam e == (s.team t).number

/-- The group descriptor at an address, read as R446 says: its head, then the whole. -/
def withGroup (c : Ctx) (va : A80) (go : Group → State → PassResult) (s : State) : PassResult :=
  withDescriptor c va 64 64 (fun d s =>
    if !groupHeadOk d then .fault s (plainFault causeCollective)
    else
      withDescriptor c va (64 + 8 * leAt d 2 2) 64 (fun d s => go (groupOf d) s) s) s

/-! ## Joining an instance (R440, R441, R444) -/

/-- A join that holds nothing yet. -/
def CollJoin.blank (p t : Nat) (x : Group) (q : CollParams) (bar : Option Nat) : CollJoin :=
  { member := x.self, pkg := p, team := t, params := q, lanes := [], compl := x.compl,
    deadline := x.deadline, bar := bar, src := 0#80, nsrc := 0, land := 0#80, cap := 0, res := 0#80,
    items := none, written := [], landed := 0, residue := 0, listed := false, credited := false,
    completed := false, faulted := none }

/-- A member joins instance k of its group. -/
def joinInst (table : List (BitVec 64)) (k : Word) (j : CollJoin) (s : State) : State :=
  match s.insts.find? (fun x => x.2.table == table && x.2.number == k && x.2.joins.all (·.member != j.member)) with
  | some (i, x) => { s with insts := tput s.insts i { x with joins := x.joins ++ [j] } }
  | none =>
    let x : Inst :=
      { table := table, number := k, joins := [j], chunks := none, status := 0, flags := 0#5, range := false,
        reruns := 0 }
    { s with insts := tput s.insts s.nextId x, nextId := s.nextId + 1 }

/-- What an engine's access that failed makes of an instruction. -/
def engineFault (c : Ctx) (a : EngineAns) (s : State) : PassResult :=
  match a with
  | .fault cause va => .pageFault s { cause := cause, va := va, lanes := c.live }
  | .bad p d => .wait (stateErrorAt (s.warp c.k).team p d s)
  | _ => .wait s

/-- Completion word k mod 16 (R441). -/
def complAt (compl : A80) (k : Word) : A80 := compl + BitVec.ofNat 80 (16 * (k.toNat % 16))

/-- Check 6 of R446, SEQ + 1 written at SEQ's home slice, and the join, in one step (R440, R441). -/
def takeInstance (c : Ctx) (va : A80) (x : Group) (j : CollJoin) (s : State) : PassResult :=
  let g := coreOf c.k
  let l := s.warpLaunch c.k
  match enginePlace g l (va + 8#80) .atomic s with
  | (.here p, s1) =>
    if 1 < keyKind p.key || keyPkg p.key != pkgOf g then .fault s1 (plainFault causeCollective)
    else
      let s2 := touchHome p.key l.tkey (dropLine (l1Core g (s1.clusterFused g) p.key) p.key s1)
      let seq := homeRead p.key 4 s2
      let k : Word := BitVec.ofNat 32 (leValue (seq.map (·.1)))
      if seq.any (·.2) then .fault s2 (plainFault causePoison)
      else
        let take (s : State) : PassResult :=
          .ok (joinInst x.table k j (homeStore p.key (leBytes 4 (k.toNat + 1)) s))
        if k.toNat < 16 then take s2
        else
          match readRun g l (complAt x.compl k) 4 s2 with
          | (.bytes bs, s3) =>
            if bs.any (·.2) then .fault s3 (plainFault causePoison)
            else if leValue (bs.map (·.1)) != k.toNat - 16 then .fault s3 (plainFault causeCollective)
            else take s3
          | (a, s3) => engineFault c a s3
  | (.fault cause, s1) => engineFault c (.fault cause (va + 8#80)) s1
  | (.bad p d, s1) => engineFault c (.bad p d) s1
  | (.silent, s1) => .fault s1 (plainFault causeCollective)
  | (.stall, s1) => .wait s1

/-! ## CLRED, CLPUT and CLGET (R445 to R449) -/

/-- The fields of CTL (R445). -/
def collOp (f : FX) : Nat := (fieldOf f.ctl 0 3).toNat
def collFrac (f : FX) : Nat := (fieldOf f.ctl 3 6).toNat
def collCount (f : FX) : Nat := (fieldOf f.ctl 17 15).toNat
def collBar (f : FX) : Option Nat := if f.ctl.getLsbD 16 then some (fieldOf f.ctl 9 7).toNat else none

/-- What a lane names: member, remote offset, local offset. -/
structure LaneRun where
  lane : Nat
  member : Nat
  remote : Nat
  local_ : Nat
deriving DecidableEq, Repr

/-- The runs of the contributing lanes. -/
def laneRuns (c : Ctx) (f : FX) : List LaneRun :=
  let e0 := c.view.src c.e f.e0.toNat
  let e1 := c.view.src c.e f.e1.toNat
  let e2 := c.view.src c.e f.e2.toNat
  (lanesOf c.live).map (fun l =>
    { lane := l, member := (e0.word l).toNat, remote := (e1.word l).toNat, local_ := (e2.word l).toNat })

/-- E0 of ALL. -/
def allMembers : Nat := 2 ^ 32 - 1

/-- The joins' runs with the bytes of CLRED's and CLPUT's local runs, read at issue (R447). -/
def readRuns (k n : Nat) (reads : Bool) : List LaneRun → State → List CollLane × State
  | [], s => ([], s)
  | r :: rs, s =>
    let (bs, s1) := if reads then sharedFetch k r.local_ n s else ([], s)
    let (xs, s2) := readRuns k n reads rs s1
    ({ lane := r.lane, member := r.member, all := r.member == allMembers, remote := r.remote,
       local_ := r.local_, data := bs.map (·.1), poison := bs.map (·.2) } :: xs, s2)

/-- Checks 1 to 5 of R446, then the instance; checks 4 and 5 name the lanes that fail them, and the offset of the lowest
(R210). -/
def collChecks (c : Ctx) (f : FX) (q : CollParams) (get : Bool) (va : A80) (x : Group) (s : State) : PassResult :=
  let t := (s.warp c.k).team
  let rs := laneRuns c f
  let n := 4 * collCount f
  let info := (s.launchOf t).info
  let limit := if get then info.shared else info.sarea
  let offsetFault (cause : BitVec 8) (bad : List (Nat × Nat)) : PassResult :=
    .fault s { cause := cause, va := BitVec.ofNat 80 ((bad.head?.map (·.2)).getD 0), lanes := lanesOfList (bad.map (·.1)) }
  let misaligned := rs.filterMap (fun r =>
    if r.remote % 4 != 0 then some (r.lane, r.remote) else if r.local_ % 4 != 0 then some (r.lane, r.local_) else none)
  let outside := rs.filterMap (fun r => if limit < r.local_ + n then some (r.lane, r.local_) else none)
  if !selfOk s t x then .fault s (plainFault causeCollective)
  else if (collBar f).any (fun b => decide (s.barCount t ≤ b)) then .fault s (plainFault causeBarrier)
  else if rs.any (fun r => x.nmemb ≤ r.member && (get || r.member != allMembers)) then
    .fault s (plainFault causeCollective)
  else
    if !misaligned.isEmpty then offsetFault causeAlignment misaligned
    else if !outside.isEmpty then offsetFault causeShared outside
    else
      let (ls, s1) := readRuns c.k n (!get) rs s
      let j := { CollJoin.blank (pkgOf (coreOf c.k)) t x q (collBar f) with lanes := ls }
      takeInstance c va x j s1

/-- A collective instruction: the group descriptor is read and the checks follow (R446). -/
def collEffect (f : FX) (q : CollParams) (get : Bool) (c : Ctx) (s : State) : PassResult :=
  let va := c.view.aval f.e3.toNat
  withGroup c va (collChecks c f q get va) s

def execClred (h : Hdr) (f : FX) (s : State) : Host.Outcome State Fault Refusal :=
  runPass (.clred h f) .once
    (collEffect f (.clred h.fmt (collOp f) (collFrac f) (collCount f)) false) s

def execClput (h : Hdr) (f : FX) (s : State) : Host.Outcome State Fault Refusal :=
  runPass (.clput h f) .once (collEffect f (.clput (collCount f)) false) s

def execClget (h : Hdr) (f : FX) (s : State) : Host.Outcome State Fault Refusal :=
  runPass (.clget h f) .once (collEffect f (.clget (collCount f)) true) s

/-! ## REPART (R458, R459) -/

/-- The fields of a REPART descriptor. -/
structure Repart where
  curve : Nat
  nf : Nat
  widths : List Nat
  flags : Nat
  group : A80
  isz : Nat
  koff : Nat
  woff : Nat
  src : A80
  nsrc : Nat
  land : A80
  cap : Nat
  res : A80

def repartOf (d : List Byte) : Repart :=
  { curve := leAt d 2 1, nf := leAt d 3 1, widths := (List.range 8).map (fun i => leAt d (4 + i) 1),
    flags := leAt d 0xC 1, group := addrAt d 0x10, isz := leAt d 0x1A 2, koff := leAt d 0x1C 2,
    woff := leAt d 0x1E 2, src := addrAt d 0x20, nsrc := leAt d 0x2C 4, land := addrAt d 0x30,
    cap := leAt d 0x3C 4, res := addrAt d 0x40 }

/-- The rules of R459. -/
def repartOk (d : List Byte) : Bool :=
  let x := repartOf d
  let used := x.widths.take x.nf
  leAt d 0 2 == 1 && x.curve ≤ 2 &&
  (match x.curve with
   | 0 => x.nf == 0
   | 1 => 1 ≤ x.nf && x.nf ≤ 8
   | _ => x.nf == 2 && used.all (fun w => w == (used.head?.getD 0) && 1 ≤ w && w ≤ 32)) &&
  (x.widths.drop x.nf).all (· == 0) && (x.nf == 0 || (1 ≤ used.sum && used.sum ≤ 64)) &&
  x.flags < 2 && zeroAt d 0xD 3 && 8 ≤ x.isz && x.isz ≤ 4096 && x.isz % 8 == 0 &&
  x.koff % 8 == 0 && x.koff < x.isz && x.woff % 4 == 0 && x.woff < x.isz && (x.flags != 0 || x.woff == 0) &&
  x.src.toNat % 8 == 0 && zeroAt d 0x2A 2 && x.nsrc ≤ 2 ^ 28 && x.land.toNat % 8 == 0 &&
  zeroAt d 0x3A 2 && x.cap ≤ 2 ^ 28 && x.res.toNat % 4 == 0 && zeroAt d 0x4A 0x36

/-- REPART's barrier. -/
def repartBar (f : FX) : Option Nat := if f.ctl.getLsbD 7 then some (fieldOf f.ctl 0 7).toNat else none

/-- Whether a member's stores before its REPART have not all completed at fabric scope, or its L1 cannot be written back yet:
they come before its contribution (R289, R367). -/
def repartWaits (s : State) (k : Nat) : Bool :=
  (s.warp k).acquireOut || (s.teamWarps (s.warp k).team).any (fun j => (s.warp j).writesOut 3) ||
  l1Stalled s (coreOf k) (s.fused k)

/-- Checks 1, 2 and 6 of R446, and the join, with the member's release at fabric scope (R367). -/
def repartChecks (c : Ctx) (f : FX) (x : Repart) (g : Group) (s : State) : PassResult :=
  let t := (s.warp c.k).team
  if !selfOk s t g then .fault s (plainFault causeCollective)
  else if (repartBar f).any (fun b => decide (s.barCount t ≤ b)) then .fault s (plainFault causeBarrier)
  else
    let q : CollParams := .repart x.curve x.nf x.widths x.flags x.isz x.koff x.woff
    let j := { CollJoin.blank (pkgOf (coreOf c.k)) t g q (repartBar f) with
      src := x.src, nsrc := x.nsrc, land := x.land, cap := x.cap, res := x.res }
    if repartWaits s c.k then .wait s
    else takeInstance c x.group g j (releaseL1 (coreOf c.k) (s.fused c.k) 3 s)

def execRepart (h : Hdr) (f : FX) (s : State) : Host.Outcome State Fault Refusal :=
  runPass (.repart h f) .once (fun c s =>
    withDescriptor c (c.view.aval f.e0.toNat) 128 128 (fun d s =>
      if !repartOk d then .fault s (plainFault causeCollective)
      else
        let x := repartOf d
        withGroup c x.group (repartChecks c f x) s) s) s

/-! ## Members of an instance -/

/-- The join of a member. -/
def Inst.join (x : Inst) (m : Nat) : Option CollJoin := x.joins.find? (·.member == m)

/-- An instance changed; a join of it changed. -/
def State.modInst (s : State) (i : Nat) (f : Inst → Inst) : State :=
  match tget s.insts i with
  | some x => { s with insts := tput s.insts i (f x) }
  | none => s

def State.modJoin (s : State) (i m : Nat) (f : CollJoin → CollJoin) : State :=
  s.modInst i (fun x => { x with joins := x.joins.map (fun j => if j.member = m then f j else j) })

/-- The parameters that govern: those of the lowest-numbered member that joined (R441). -/
def Inst.governing (x : Inst) : Option CollParams :=
  (firstBelow x.table.length (fun m => (x.join m).isSome)).bind (fun m => (x.join m).map (·.params))

/-- The joins whose parameters are the governing ones; the others contribute and receive nothing. -/
def Inst.conforming (x : Inst) : List CollJoin := x.joins.filter (fun j => some j.params == x.governing)

/-- A member whose parameters conform. -/
def Inst.peer (x : Inst) (m : Nat) : Option CollJoin := x.conforming.find? (·.member == m)

/-- Whether the team of a join has been ended. -/
def joinDead (s : State) (j : CollJoin) : Bool := (s.team j.team).run == .ended

/-- The package that a member entry names, as the instance's first member sees the domain (R447). -/
def pkgOfNumber (s : State) (home n : Nat) : Option Nat :=
  if (s.pkg home).number = n then some home
  else if (s.pkg home).inDomain then s.pkgNumbered n else none

/-- Whether a member entry is absent now: its package, ring, KERNEL record or team number does not exist. An entry whose
records cannot be read is none of these, and the instance waits (R447). -/
def entryAbsent (s : State) (home : Nat) (e : BitVec 64) : Bool :=
  match pkgOfNumber s home (memberPkg e) with
  | none => true
  | some p =>
    match tget (s.pkg p).rings (memberRing e) with
    | none => true
    | some r =>
      if 2 ^ r.logSlots ≤ memberSlot e then true
      else
        match (readRecord p (memberRing e) (memberSlot e) s).1 with
        | .copy d =>
          let x := nodeOf d
          if x.kind != 1 then true
          else
            match (feRead p r x.lrec 512 s).1 with
            | .bytes bs => leAt (bs.map (·.1)) 0x38 2 ≤ memberTeam e
            | _ => false
        | _ => false

/-- Whether every member has joined or is absent. -/
def instReady (s : State) (x : Inst) : Bool :=
  let home := (x.joins.head?.map (·.pkg)).getD 0
  (List.range x.table.length).all (fun m =>
    (x.join m).isSome || (match lget x.table m with | some e => entryAbsent s home e | none => true))

/-! ## Runs and chunks (R447, R454) -/

/-- Bytes of each lane's run, and whether the instance is a CLGET. -/
def CollParams.bytes : CollParams → Nat
  | .clred _ _ _ n => 4 * n
  | .clput n => 4 * n
  | .clget n => 4 * n
  | .repart _ _ _ _ _ _ _ => 0

def CollParams.gets : CollParams → Bool
  | .clget _ => true
  | _ => false

/-- Every run that the conforming members name. -/
def Inst.namedRuns (x : Inst) : List CollRun :=
  x.conforming.flatMap (fun j => j.lanes.flatMap (fun r =>
    if j.params.gets then
      [{ src := r.member, lane := r.lane, dst := j.member, off := r.local_, start := r.remote, all := false, data := [] }]
    else
      (if r.all then List.range x.table.length else [r.member]).map (fun m =>
        { src := j.member, lane := r.lane, dst := m, off := r.remote, start := r.local_, all := r.all,
          data := List.zipWith (fun b p => (b, p)) r.data r.poison })))

/-- The sizes of a member's shared memory. -/
def joinInfo (s : State) (j : CollJoin) : LaunchRec := (s.launchOf j.team).info

/-- Whether a run between conforming members lies within what the remote member lets it reach (R447). -/
def runWithin (s : State) (x : Inst) (n : Nat) (r : CollRun) : Bool :=
  match x.peer r.src, x.peer r.dst with
  | some a, some b => r.off + n ≤ (joinInfo s b).shared && r.start + n ≤ (joinInfo s a).sarea
  | _, _ => false

/-- Whether both members of a run conform. -/
def Inst.runLive (x : Inst) (r : CollRun) : Bool := (x.peer r.src).isSome && (x.peer r.dst).isSome

/-- Bytes of the runs of an instance. -/
def Inst.runBytes (x : Inst) : Nat := (x.governing.map CollParams.bytes).getD 0

/-- The runs that are made. -/
def instRuns (s : State) (x : Inst) : List CollRun :=
  if x.runBytes = 0 then []
  else x.namedRuns.filter (fun r => x.runLive r && runWithin s x x.runBytes r)

/-- The blocks of 64 bytes that a run of n bytes touches. -/
def CollRun.blocks (r : CollRun) (n : Nat) : List Nat := span (r.off / 64) ((r.off + n - 1) / 64 - r.off / 64 + 1)

/-- A chunk that has not begun. -/
def Chunk.fresh (dest : Nat) (all : Bool) (block : Nat) : Chunk :=
  { dest := dest, all := all, block := block, sent := [], got := [], parts := [], lost := [], late := [], asked := false,
    direct := false, done := false }

/-- Pairs without repeats. -/
def distinctPairs (xs : List (Nat × Nat)) : List (Nat × Nat) :=
  xs.foldl (fun t x => if t.contains x then t else t ++ [x]) []

/-- The chunks of an instance: a block that an ALL run touches is one chunk of every member (R454); a
REPART has one for each member that items land at. -/
def formChunks (s : State) (x : Inst) : List Chunk :=
  match x.governing with
  | some (.repart _ _ _ _ _ _ _) => x.conforming.map (fun j => Chunk.fresh j.member false 0)
  | _ =>
    let n := x.runBytes
    let rs := instRuns s x
    let all := ((rs.filter (·.all)).flatMap (fun r => r.blocks n)).foldl (fun t b => unionList t [b]) []
    let own := (rs.filter (!·.all)).flatMap (fun r => ((r.blocks n).filter (!all.contains ·)).map (fun b => (r.dst, b)))
    all.map (Chunk.fresh 0 true) ++ (distinctPairs own).map (fun y => Chunk.fresh y.1 false y.2)

/-- STATUS as the joins and the runs give it (R442). -/
def formStatus (s : State) (x : Inst) : Nat :=
  let absent := (List.range x.table.length).any (fun m => (x.join m).isNone)
  let differs := x.joins.any (fun j => some j.params != x.governing)
  let bounds := x.runBytes != 0 &&
    x.namedRuns.any (fun r => x.runLive r && !runWithin s x x.runBytes r)
  if absent then 3 else if bounds then 2 else if differs then 1 else 0

/-- Whether a run writes into a chunk. -/
def CollRun.into (r : CollRun) (n : Nat) (c : Chunk) : Bool :=
  (c.all || r.dst == c.dest) && r.off < 64 * c.block + 64 && 64 * c.block < r.off + n

/-- The members that send a chunk something. -/
def chunkSenders (s : State) (x : Inst) (c : Chunk) : List Nat :=
  match x.governing with
  | some (.repart _ _ _ _ _ _ _) => x.conforming.map (·.member)
  | _ => ((instRuns s x).filter (fun r => r.into x.runBytes c)).foldl (fun t r => unionList t [r.src]) []

/-! ## Combining (R450 to R453) -/

/-- Two elements of a collective combined in an order-free way. -/
def collElem (fmt : BitVec 4) (op a b : Nat) : Nat × FFlags :=
  if (op = 1 || op = 2) && hsBits fmt != 0 then
    let less := signedOf (hsBits fmt) a ≤ signedOf (hsBits fmt) b
    (if less == (op == 1) then a else b, 0#5)
  else if (op = 1 || op = 2) && !isIntFmt fmt then minMax fmt (op == 2) (elemVal fmt a) (elemVal fmt b)
  else combine fmt op a b

/-- Two words combined element by element. -/
def collWords (fmt : BitVec 4) (op : Nat) (a b : Word × FFlags) : Word × FFlags :=
  let w := fmtWidth fmt
  let rs := (List.range (fmtElems fmt)).map (fun e => collElem fmt op (elemBits w a.1 e) (elemBits w b.1 e))
  (BitVec.ofNat 32 (packElems w (rs.map (·.1))), rs.foldl (fun f r => f ||| r.2) (a.2 ||| b.2))

/-- An order-free combination: minima and maxima take each contribution against itself first, which
makes a lone NaN canonical. -/
def collFree (fmt : BitVec 4) (op : Nat) (ws : List Word) : Word × FFlags :=
  let one (x : Word) : Word × FFlags :=
    if op = 1 || op = 2 then collWords fmt op (x, 0#5) (x, 0#5) else (x, 0#5)
  match ws with
  | [] => (0#32, 0#5)
  | x :: xs => xs.foldl (fun a y => collWords fmt op a (one y)) (one x)

/-- A sum in the two trees of R451: over the lanes of each member, then over member numbers. -/
def collTree (fmt : BitVec 4) (nmemb : Nat) (cs : List (Nat × Nat × Word)) : Word × FFlags :=
  let part (m : Nat) : Option (Word × FFlags) :=
    let mine := cs.filter (fun c => c.1 == m)
    if mine.isEmpty then none
    else some (reduceLanes fmt 0 (lanesOfList (mine.map (fun c => c.2.1)))
      (fun l => ((mine.find? (fun c => c.2.1 == l)).map (fun c => c.2.2)).getD 0#32))
  match treeReduce fmt 0 13 ((List.range nmemb).map part) with
  | some x :: _ => x
  | _ => (0#32, 0#5)

/-- A contribution as a reduction word: its value, whether it was rounded, whether it saturated (R130
step 1). -/
def redWord (frac : Nat) (v : FVal) : Int × Bool × Bool :=
  match v with
  | .fin neg m e =>
    let (n, exact) := roundInt neg m (e + frac) 0
    let y := satInt n (-(2 ^ 63)) (2 ^ 63 - 1)
    (y, !exact, y != n)
  | _ => (0, false, false)

/-- An element of a narrow sum, its flags and its range status: each contribution that is rounded or saturates sets NX or
RANGE whatever the others are (R130, R452). -/
def redElem (fmt : BitVec 4) (frac : Nat) (vs : List FVal) : Nat × FFlags × Bool :=
  let pos := vs.any (fun v => match v with | .inf false => true | _ => false)
  let neg := vs.any (fun v => match v with | .inf true => true | _ => false)
  let ws := vs.map (redWord frac)
  let nx := flagIf (ws.any (fun w => w.2.1)) flagNX
  let sat := ws.any (fun w => w.2.2)
  if vs.any FVal.isNan || (pos && neg) then ((ffmt fmt).qnan, flagNV ||| nx, sat)
  else if pos || neg then ((ffmt fmt).infBits neg, nx, sat)
  else
    let sum := ws.foldl (fun a w => a + w.1) 0
    let y := satInt sum (-(2 ^ 63)) (2 ^ 63 - 1)
    let (r, fl) := cvtVal (.fin (y < 0) y.natAbs (-(frac : Int))) fmt 4 0
    (r, fl ||| nx, sat || y != sum)

/-- A word of a narrow sum. -/
def redWords (fmt : BitVec 4) (frac : Nat) (ws : List Word) : Word × FFlags × Bool :=
  let w := fmtWidth fmt
  let rs := (List.range (fmtElems fmt)).map (fun e => redElem fmt frac (ws.map (fun x => elemVal fmt (elemBits w x e))))
  (BitVec.ofNat 32 (packElems w (rs.map (·.1))), rs.foldl (fun f r => f ||| r.2.1) 0#5, rs.any (fun r => r.2.2))

/-- The word of a CLRED from its contributions: member, lane, word. -/
def collCombine (fmt : BitVec 4) (op frac nmemb : Nat) (cs : List (Nat × Nat × Word)) : Word × FFlags × Bool :=
  let ws := cs.map (fun c => c.2.2)
  if op = 0 && 9 ≤ fmt.toNat && fmt.toNat ≤ 13 then redWords fmt frac ws
  else if op = 0 && (fmt == 6#4 || fmt == 7#4) then
    let (r, fl) := collTree fmt nmemb cs
    (r, fl, false)
  else
    let (r, fl) := collFree fmt op ws
    (r, fl, false)

/-! ## Writing a chunk (R448, R449, R453, R454) -/

/-- Bytes of a run from offset a of its destination. -/
def CollRun.bytesAt (r : CollRun) (a n : Nat) : List (Byte × Bool) := (r.data.drop (a - r.off)).take n

/-- The part of a run of n bytes that lies in a chunk's block. -/
def CollRun.clip (r : CollRun) (n : Nat) (c : Chunk) : CollRun × Nat :=
  let lo := max r.off (64 * c.block)
  let m := min (r.off + n) (64 * c.block + 64) - lo
  ({ r with off := lo, start := r.start + (lo - r.off), data := (r.data.drop (lo - r.off)).take m }, m)

/-- n bytes of a run of CLGET, read in its source, the sender (R449). -/
def fetchRun (j : CollJoin) (n : Nat) (r : CollRun) (s : State) : CollRun × State :=
  let t := s.team j.team
  let s1 := if t.image.isSome then s
    else (List.range (n / 4)).foldl (fun s i => resolveShared t.core (sharedPhys t (r.start + 4 * i)) s) s
  ({ r with data := sharedRead (s1.team j.team) r.start n s1 }, s1)

/-- The runs that a member sends into a chunk, with the bytes as they stand when it sends them (R447, R449, R454). -/
def sendParts (j : CollJoin) (n : Nat) (c : Chunk) : List CollRun → State → List CollRun × State
  | [], s => ([], s)
  | r :: rs, s =>
    let (r1, m) := r.clip n c
    let (r2, s1) := if j.params.gets then fetchRun j m r1 s else (r1, s)
    let (rs1, s2) := sendParts j n c rs s1
    (r2 :: rs1, s2)

/-- A word that runs write, from those that cover it: for CLRED their combination, else each byte of one
of them (R448). -/
def chunkWord (i : Nat) (x : Inst) (m a : Nat) (rs : List CollRun) : List (Byte × Bool) × FFlags × Bool :=
  let bad := rs.any (fun r => (r.bytesAt a 4).any (·.2))
  match x.governing with
  | some (.clred fmt op frac _) =>
    let cs := rs.map (fun r => (r.src, r.lane, (BitVec.ofNat 32 (leValue ((r.bytesAt a 4).map (·.1))) : Word)))
    let (v, fl, rg) := collCombine fmt op frac x.table.length cs
    ((leBytes 4 v.toNat).map (fun b => (b, bad)), fl, rg)
  | _ =>
    ((List.range 4).map (fun b =>
      match lget rs (Config.writeWinner i m (a + b) % rs.length) with
      | some r => ((r.bytesAt (a + b) 1).head?.getD (0#8, false))
      | none => (0#8, false)), 0#5, false)

/-- Bytes of a block that are marked written. -/
def markWritten (t : Tbl (BitVec 64)) (a : Nat) : Tbl (BitVec 64) :=
  tput t (a / 64) ((tget t (a / 64)).getD 0#64 ||| ((0xF#64) <<< (a % 64)))

/-- A chunk's words written into one member, from the parts that were sent. -/
def writeMember (i : Nat) (x : Inst) (c : Chunk) (m : Nat) (s : State) : State :=
  match x.peer m with
  | none => s
  | some j =>
    if joinDead s j then s
    else
      let rs := c.parts.filter (fun r => r.dst == m && !c.lost.contains r.src)
      (List.range 16).foldl (fun s w =>
        let a := 64 * c.block + 4 * w
        let on := rs.filter (fun r => r.off ≤ a && a < r.off + r.data.length)
        if on.isEmpty then s
        else
          let (bs, fl, rg) := chunkWord i x m a on
          let s2 := sharedMove j.team a bs s
          (s2.modJoin i m (fun y => { y with written := markWritten y.written a })).modInst i (fun y =>
            { y with flags := y.flags ||| fl, range := y.range || rg })) s

/-- A chunk written by its root: into its member, or into every member (R454). -/
def writeChunk (i : Nat) (x : Inst) (c : Chunk) (s : State) : State :=
  if c.all then (List.range x.table.length).foldl (fun s m => writeMember i x c m s) s
  else writeMember i x c c.dest s

/-- A chunk of an instance changed. -/
def State.modChunk (s : State) (i n : Nat) (f : Chunk → Chunk) : State :=
  s.modInst i (fun x => { x with chunks := x.chunks.map (fun cs => match lget cs n with
    | some c => lset cs n (f c)
    | none => cs) })

/-- A chunk whose every sender's part the root has, or is lost, is written and done. -/
def settleChunk (i n : Nat) (s : State) : State :=
  match tget s.insts i with
  | none => s
  | some x =>
    match x.chunks.bind (fun cs => lget cs n) with
    | none => s
    | some c =>
      if c.done || !(chunkSenders s x c).all (fun m => c.got.contains m || c.lost.contains m) then s
      else (writeChunk i x c s).modChunk i n (fun c => { c with done := true })

/-! ## The trees of gateways and their combining slots (R454) -/

/-- The rank of a package in a group: the order in which packages first appear (R454). -/
def pkgRanks (x : Inst) : List Nat := x.table.foldl (fun t e => unionList t [memberPkg e]) []

/-- The position of a member's package in a chunk's tree. -/
def treePos (x : Inst) (c : Chunk) (m : Nat) : Nat :=
  let rs := pkgRanks x
  let rank (m : Nat) : Nat := match lget x.table m with | some e => rs.idxOf (memberPkg e) | none => 0
  (rank m + rs.length - rank (if c.all then 0 else c.dest)) % rs.length

/-- Whether position t reaches the root through position v (R454). -/
def passesBy : Nat → Nat → Nat → Bool
  | 0, t, v => t == v
  | k + 1, t, v => t == v || (t != 0 && passesBy k ((t - 1) / 8) v)

/-- The gateway that acts for the package at a position of a chunk's tree, by package and die: that of the die which holds
the package's lowest-numbered member; none where no member of the package has joined. -/
def treeGateway (s : State) (x : Inst) (c : Chunk) (v : Nat) : Option (Nat × Nat) :=
  ((List.range x.table.length).find? (fun m => (x.join m).isSome && treePos x c m == v)).bind (fun m =>
    (x.join m).map (fun j => (j.pkg, dieOf (s.team j.team).core)))

/-- The nearest position towards the root at which a gateway acts, or the root. -/
def actingAbove (s : State) (x : Inst) (c : Chunk) : Nat → Nat → Nat
  | 0, _ => 0
  | k + 1, v =>
    let u := (v - 1) / 8
    if u = 0 || (treeGateway s x c u).isSome then u else actingAbove s x c k u

/-- The positions from one to the root. -/
def pathUp : Nat → Nat → List Nat
  | 0, v => [v]
  | k + 1, v => if v = 0 then [0] else v :: pathUp k ((v - 1) / 8)

/-- Whether an instance's combinations are order-free, of two members or more: they combine in slots (R444, R450, R454). -/
def Inst.slotted (x : Inst) : Bool :=
  1 < x.table.length && match x.governing with
    | some (.clred fmt op _ _) => !(op = 0 && (fmt == 6#4 || fmt == 7#4))
    | _ => false

/-- The slot that a package's gateway holds for a chunk. -/
def Package.slotOf (y : Package) (i n : Nat) : Option CombSlot := y.slots.find? (fun e => e.inst == i && e.chunk == n)

/-- Parts combined in a gateway's slot; none when no slot of its 4,096 is free (R454). -/
def holdInSlot (p d i n : Nat) (ms : List Nat) (s : State) : Option State :=
  let y := s.pkg p
  match y.slotOf i n with
  | some e =>
    some (s.modPkg p (fun y => { y with slots := y.slots.map (fun f =>
      if f == e then { e with members := unionList e.members ms } else f) }))
  | none =>
    if 4096 ≤ (y.slots.filter (fun e => e.die == d)).length then none
    else some (s.modPkg p (fun y => { y with slots := y.slots ++ [{ die := d, inst := i, chunk := n, members := ms }] }))

/-- The slot of a chunk freed in one package, or in all of them. -/
def freeSlot (p i n : Nat) (s : State) : State :=
  s.modPkg p (fun y => { y with slots := y.slots.filter (fun e => !(e.inst == i && e.chunk == n)) })

def freeSlots (i n : Nat) (s : State) : State := (s.pkgs.map (·.1)).foldl (fun s p => freeSlot p i n s) s

/-- The root has the parts of members. -/
def reachRoot (i n : Nat) (ms : List Nat) (s : State) : State :=
  settleChunk i n (s.modChunk i n (fun c => { c with got := unionList c.got ms }))

/-- A partial that combines every contribution below its position passes to the parent's gateway, and from the root's slot
to the root; where the parent has no free slot it is held (R30, R454). -/
def passUp (i n : Nat) (x : Inst) (c : Chunk) : Nat → Nat → State → State
  | 0, _, s => s
  | k + 1, v, s =>
    match (treeGateway s x c v).bind (fun g => ((s.pkg g.1).slotOf i n).map (g.1, ·)) with
    | none => s
    | some (p, e) =>
      let below := (chunkSenders s x c).filter (fun m => !c.lost.contains m && passesBy 4 (treePos x c m) v)
      if !below.all e.members.contains then s
      else if v = 0 then reachRoot i n e.members (freeSlot p i n s)
      else
        let u := actingAbove s x c 4 v
        match treeGateway s x c u with
        | none => reachRoot i n e.members (freeSlot p i n s)
        | some (q, d) =>
          match holdInSlot q d i n e.members s with
          | none => s
          | some s1 => passUp i n x c k u (freeSlot p i n s1)

/-- A member sends its part of a chunk: into a slot of its package's gateway, which may have none free, or to the root
unchanged (R454, R455). -/
def sendChunk (i n m : Nat) (x : Inst) (c : Chunk) (j : CollJoin) (s : State) : State :=
  let mine := (instRuns s x).filter (fun r => r.src == m && r.into x.runBytes c)
  let send (t : State) : State :=
    let (ps, t1) := sendParts j x.runBytes c mine t
    t1.modChunk i n (fun c => { c with sent := c.sent ++ [m], parts := c.parts ++ ps })
  if x.slotted && !c.direct then
    let v := treePos x c m
    match (treeGateway s x c v).bind (fun g => holdInSlot g.1 g.2 i n [m] s) with
    | none => s
    | some s1 => passUp i n x c 5 v (send s1)
  else reachRoot i n [m] (send s)

/-- The partials of a chunk that a member's part went into try to pass on. -/
def retryChunk (i n m : Nat) (x : Inst) (c : Chunk) (s : State) : State :=
  (pathUp 4 (treePos x c m)).foldl (fun s v => passUp i n x c 5 v s) s

/-! ## REPART's items (R460, R461, R464) -/

/-- The fields of a key word, lowest first. -/
def keyFields : List Nat → Nat → List Nat
  | [], _ => []
  | w :: ws, x => x % 2 ^ w :: keyFields ws (x / 2 ^ w)

/-- The bits of a Morton key, most significant first. -/
def mortonBits (widths fields : List Nat) : List Bool :=
  let top := widths.foldl max 0
  (List.range top).flatMap (fun i =>
    let t := top - 1 - i
    (List.zipWith (fun w f => (w, f)) widths fields).filterMap (fun x =>
      if t < x.1 then some (x.2.testBit t) else none))

/-- Bits left-aligned in 64. -/
def leftAlign (bits : List Bool) : Nat :=
  bits.foldl (fun v b => 2 * v + (if b then 1 else 0)) 0 * 2 ^ (64 - bits.length)

/-- The Hilbert index of a point, from side s downward (R460). -/
def hilbertGo (n : Nat) : Nat → Nat → Nat → Nat → Nat
  | 0, _, _, d => d
  | k + 1, px, py, d =>
    let s := 2 ^ k
    let rx := if px.testBit k then 1 else 0
    let ry := if py.testBit k then 1 else 0
    let d1 := d + s * s * ((3 * rx) ^^^ ry)
    if ry = 0 then
      let (qx, qy) := if rx = 1 then (n - 1 - px, n - 1 - py) else (px, py)
      hilbertGo n k qy qx d1
    else hilbertGo n k px py d1

/-- The 64-bit key of an item from its key word (R460). -/
def repartKey (curve nf : Nat) (widths : List Nat) (x : Nat) : Nat :=
  let ws := widths.take nf
  match curve with
  | 0 => x
  | 1 => leftAlign (mortonBits ws (keyFields ws x))
  | _ =>
    let b := ws.head?.getD 0
    match keyFields ws x with
    | px :: py :: _ => hilbertGo (2 ^ b) b px py 0 * 2 ^ (64 - 2 * b)
    | _ => 0

/-- The item at an index of a source: its key and weight words may be poisoned (R464). -/
def repartItem (q : CollParams) (n : Nat) (bs : List (Byte × Bool)) : RepItem :=
  match q with
  | .repart curve nf widths flags _ koff woff =>
    let kb := (bs.drop koff).take 8
    let wb := (bs.drop woff).take 4
    let bad := kb.any (·.2) || (flags = 1 && wb.any (·.2))
    { key := if bad then 2 ^ 64 - 1 else repartKey curve nf widths (leValue (kb.map (·.1))),
      weight := if flags = 1 then leValue (wb.map (·.1)) else 1, index := n, poisoned := bad }
  | _ => { key := 0, weight := 0, index := n, poisoned := true }

/-- Bytes of an item. -/
def CollParams.itemSize : CollParams → Nat
  | .repart _ _ _ _ isz _ _ => isz
  | _ => 0

/-- An access of a member's engine that failed: it waits for a mapping, or ends the member's team (R464). -/
def joinFault (i m : Nat) (a : EngineAns) (wr : Bool) (s : State) : State :=
  match (tget s.insts i).bind (fun x => x.join m) with
  | none => s
  | some j =>
    match a with
    | .fault cause va =>
      if cause == causePageFault then s.modJoin i m (fun y => { y with faulted := some (cause, va, wr) })
      else endTeam j.team 0x20#8 cause 0#32 s
    | .bad p d => stateErrorAt j.team p d s
    | _ => s

/-- The items of a member read from its source. -/
def readItems (j : CollJoin) : List Nat → State → Except EngineAns (List RepItem) × State
  | [], s => (.ok [], s)
  | n :: ns, s =>
    let size := j.params.itemSize
    match readRun (s.team j.team).core (s.launchOf j.team) (j.src + BitVec.ofNat 80 (size * n)) size s with
    | (.bytes bs, s1) =>
      match readItems j ns s1 with
      | (.ok xs, s2) => (.ok (repartItem j.params n bs :: xs), s2)
      | r => r
    | (a, s1) => (.error a, s1)

/-- An item with its member, put in the global order: key, then member, then index (R461). -/
def insertItem (x : Nat × RepItem) : List (Nat × RepItem) → List (Nat × RepItem)
  | [] => [x]
  | y :: ys =>
    if x.2.key < y.2.key ||
        (x.2.key == y.2.key && (x.1 < y.1 || (x.1 == y.1 && x.2.index < y.2.index))) then x :: y :: ys
    else y :: insertItem x ys

/-- The items of the members that are not lost, in global order. -/
def globalOrder (x : Inst) (lost : List Nat) : List (Nat × RepItem) :=
  ((x.conforming.filter (fun j => !lost.contains j.member)).flatMap (fun j =>
    ((j.items).getD []).map (fun r => (j.member, r)))).foldl (fun t y => insertItem y t) []

/-- CAP of a member; a member that does not take part has none. -/
def Inst.capOf (x : Inst) (m : Nat) : Nat := match x.peer m with | some j => j.cap | none => 0

/-- The least member from j on that may take the item at a position, with the landing index there (R461). -/
def nextMember (x : Inst) (mm total cw left : Nat) : Nat → Nat → Nat → Nat × Nat
  | 0, j, n => (j, n)
  | k + 1, j, n =>
    let after := (span (j + 1) (mm - j - 1)).foldl (fun a m => a + x.capOf m) 0
    if mm ≤ j || (n < x.capOf j && (cw < total * (j + 1) / mm || after < left)) then (j, n)
    else nextMember x mm total cw left k (j + 1) 0

/-- The walk of R461: each item with the member and index it lands at, none for residue. -/
def walkItems (x : Inst) (mm total : Nat) : List (Nat × RepItem) → Nat → Nat → Nat →
    List (Nat × RepItem × Option (Nat × Nat))
  | [], _, _, _ => []
  | (m, r) :: rest, j, n, cw =>
    let (j1, n1) := nextMember x mm total cw (rest.length + 1) (mm + 1) j n
    if mm ≤ j1 then (m, r, none) :: walkItems x mm total rest j1 n1 (cw + r.weight)
    else (m, r, some (j1, n1)) :: walkItems x mm total rest j1 (n1 + 1) (cw + r.weight)

/-- Where every item goes; poisoned items take no part in the walk (R464). -/
def repartPlan (x : Inst) (lost : List Nat) : List (Nat × RepItem × Option (Nat × Nat)) :=
  let good := (globalOrder x lost).filter (fun y => !y.2.poisoned)
  walkItems x x.table.length (good.foldl (fun a y => a + y.2.weight) 0) good 0 0 0

/-- The members lost to some chunk of an instance. -/
def Inst.lostMembers (x : Inst) : List Nat :=
  ((x.chunks.getD []).flatMap (·.lost)).foldl (fun t m => unionList t [m]) []

/-- The residue list of a member, in global order (R462 step 5, R464). -/
def residueOf (x : Inst) (m : Nat) : List Nat :=
  let lost := x.lostMembers
  let landed := (repartPlan x lost).filterMap (fun y => if y.1 = m && y.2.2.isSome then some y.2.1.index else none)
  ((globalOrder x lost).filter (fun y => y.1 == m && !landed.contains y.2.index)).map (fun y => y.2.index)

/-- Items of member j landed at member d, one after the other; an access that fails ends it, with the member it failed for
and whether it wrote. -/
def landItems (j d : CollJoin) : List (Nat × Nat) → State → Option (Nat × EngineAns × Bool) × State
  | [], s => (none, s)
  | (i, n) :: rest, s =>
    let size := j.params.itemSize
    match readRun (s.team j.team).core (s.launchOf j.team) (j.src + BitVec.ofNat 80 (size * i)) size s with
    | (.bytes bs, s1) =>
      match writeRun (s1.team d.team).core (s1.launchOf d.team) (d.land + BitVec.ofNat 80 (size * n)) bs s1 with
      | (.bytes _, s2) => landItems j d rest s2
      | (a, s2) => (some (d.member, a, true), s2)
    | (a, s1) => (some (j.member, a, false), s1)

/-- The residue list of a member written. -/
def listResidue (x : Inst) (j : CollJoin) (s : State) : Option (Nat × EngineAns × Bool) × State :=
  let bs := (residueOf x j.member).flatMap (fun n => (leBytes 4 n).map (fun b => (b, false)))
  match writeRun (s.team j.team).core (s.launchOf j.team) j.res bs s with
  | (.bytes _, s1) => (none, s1)
  | (a, s1) => (some (j.member, a, true), s1)

/-- Steps made one after the other, up to one that fails. -/
def stepsUntil {α : Type} : List (State → Option α × State) → State → Option α × State
  | [], s => (none, s)
  | f :: fs, s =>
    match f s with
    | (none, s1) => stepsUntil fs s1
    | r => r

/-- The items of a REPART moved to where the walk lands them, source by source and landing member by landing member, and the
residue lists written (R461, R462 steps 4 and 5, R463). A member whose team has ended receives nothing and lists nothing. -/
def repartSteps (s : State) (x : Inst) : List (State → Option (Nat × EngineAns × Bool) × State) :=
  let plan := repartPlan x x.lostMembers
  let live := x.conforming.filter (fun j => !joinDead s j)
  live.flatMap (fun d => live.map (fun j =>
    landItems j d (plan.filterMap (fun y => match y.2.2 with
      | some (k, n) => if y.1 = j.member && k = d.member then some (y.2.1.index, n) else none
      | none => none)))) ++ live.map (listResidue x)

/-- A REPART moves when every member has sent or is lost, and every member whose team has ended is lost: all of it in one
act, so that nothing that a later plan would not write is ever written (R462, R463; log 25). -/
def repartMove (i : Nat) (s : State) : State :=
  match tget s.insts i with
  | none => s
  | some x =>
    let ready := (x.chunks.getD []).all (fun c => !c.done && (chunkSenders s x c).all (fun m => c.got.contains m || c.lost.contains m))
    let gone := x.conforming.any (fun j => joinDead s j && !x.lostMembers.contains j.member)
    if !ready || gone then s
    else
      match stepsUntil (repartSteps s x) s with
      | (some (m, a, wr), _) => joinFault i m a wr s
      | (none, s1) => s1.modInst i (fun y => { y with
          joins := y.joins.map (fun j => { j with listed := true })
          chunks := y.chunks.map (fun cs => cs.map (fun c => { c with done := true })) })

/-- A packet of a REPART: the member reads its items, then sends for a chunk what lands there, once every member's items are
known (R462). -/
def repartPacket (i m n : Nat) (x : Inst) (c : Chunk) (j : CollJoin) (s : State) : State :=
  match j.items with
  | none =>
    match readItems j (List.range j.nsrc) s with
    | (.ok items, s1) =>
      countErrorAt 15 (items.filter (·.poisoned)).length (s1.team j.team).core
        (s1.modJoin i m (fun y => { y with items := some items }))
    | (.error a, s1) => joinFault i m a false s1
  | some _ =>
    if x.conforming.any (fun y => y.items.isNone && !x.lostMembers.contains y.member) then s
    else
      repartMove i (s.modChunk i n (fun y =>
        if c.sent.contains m then y else { y with sent := y.sent ++ [m], got := unionList y.got [m] }))

/-! ## The events of an instance -/

/-- Whether a member may send its part of a chunk now, or has sent it and the chunk is not done. -/
def maySend (s : State) (x : Inst) (c : Chunk) (m : Nat) : Bool :=
  !c.done && !c.lost.contains m && (chunkSenders s x c).contains m &&
  match x.peer m with
  | some j => !joinDead s j && j.faulted.isNone
  | none => false

/-- COLLECTIVE_PACKET: the first traffic of an instance fixes its chunks, once every member has joined or
is absent; each further packet is one member's part of one chunk, or, of a part sent before, its partial that passes on
(R447, R454). -/
def execCollectivePacket (inst member chunk : Nat) (s : State) : Host.Outcome State Fault Refusal :=
  match tget s.insts inst with
  | none => .next s
  | some x =>
    match x.chunks with
    | none =>
      if instReady s x then
        .next (s.modInst inst (fun y => { y with chunks := some (formChunks s x), status := formStatus s x }))
      else .next s
    | some cs =>
      match lget cs chunk, x.peer member with
      | some c, some j =>
        if !maySend s x c member then .next s
        else
          match j.params with
          | .repart _ _ _ _ _ _ _ => .next (repartPacket inst member chunk x c j s)
          | _ =>
            if c.sent.contains member then .next (retryChunk inst chunk member x c s)
            else .next (sendChunk inst chunk member x c j s)
      | _, _ => .next s

/-- Whether a member waits for a chunk's acknowledgement: it sends to it, or the chunk is written into it. -/
def awaitsChunk (s : State) (x : Inst) (c : Chunk) (m : Nat) : Bool :=
  !c.done && (c.all || c.dest == m || (chunkSenders s x c).contains m) &&
  match x.peer m with
  | some j => !joinDead s j
  | none => false

/-- COLLECTIVE_DEADLINE_EXPIRY: a member's deadline for a chunk passes and it asks for a rerun (R455). -/
def execCollectiveDeadlineExpiry (inst member chunk : Nat) (s : State) : Host.Outcome State Fault Refusal :=
  match tget s.insts inst with
  | none => .next s
  | some x =>
    match x.chunks.bind (fun cs => lget cs chunk) with
    | none => .next s
    | some c =>
      if c.asked || !awaitsChunk s x c member then .next s
      else .next (s.modChunk inst chunk (fun c => { c with
        asked := true
        late := c.late.map (fun e => if c.sent.contains e.1 then e else (e.1, e.2 + 1)) }))

/-- The package of a chunk's root, and the die of the gateway that acts for it (R454). -/
def chunkRoot (s : State) (x : Inst) (c : Chunk) : Nat × Nat := (treeGateway s x c 0).getD (0, 0)

/-- COLLECTIVE_RERUN: the partials of the chunk are discarded and every member is asked to send directly (R455). -/
def execCollectiveRerun (inst chunk : Nat) (s : State) : Host.Outcome State Fault Refusal :=
  match tget s.insts inst with
  | none => .next s
  | some x =>
    match x.chunks.bind (fun cs => lget cs chunk) with
    | none => .next s
    | some c =>
      if !c.asked || c.done then .next s
      else
        let (p, d) := chunkRoot s x c
        let ms := (chunkSenders s x c).filter (fun m => !c.lost.contains m)
        let late := ms.foldl (fun t m =>
          tput t m (if c.sent.contains m then 0 else (tget c.late m).getD 0)) ([] : Tbl Nat)
        let s1 := (freeSlots inst chunk s).modChunk inst chunk (fun c => { c with
          asked := false, sent := [], got := [], parts := [], late := late, direct := true })
        .next (countDie 0x45 1 p d (s1.modInst inst (fun y => { y with reruns := y.reruns + 1 })))

/-- Whether an instance waits no longer for a chunk: it is written, or the team that it goes to and those that send it have
all ended, so that no member is left to ask for it (R456; log 25). -/
def chunkOver (s : State) (x : Inst) (c : Chunk) : Bool :=
  let dead (m : Nat) : Bool := (x.peer m).any (joinDead s)
  c.done || (!c.all && dead c.dest && (chunkSenders s x c).all dead)

/-- MEMBER_LOST: a member that has not answered a rerun request after two further deadlines is lost to
the chunk; a REPART leaves its items out of its walk (R456, R462). -/
def execMemberLost (inst member chunk : Nat) (s : State) : Host.Outcome State Fault Refusal :=
  match tget s.insts inst with
  | none => .next s
  | some x =>
    match x.chunks.bind (fun cs => lget cs chunk) with
    | none => .next s
    | some c =>
      if chunkOver s x c || c.sent.contains member || c.lost.contains member || (tget c.late member).getD 0 < 2 then .next s
      else
        let s1 := s.modInst inst (fun y => { y with status := 4 })
        match x.governing with
        | some (.repart _ _ _ _ _ _ _) =>
          .next (s1.modInst inst (fun y => { y with chunks := y.chunks.map (fun cs => cs.map (fun c =>
            { c with lost := unionList c.lost [member], sent := [], got := [] })) }))
        | _ => .next (settleChunk inst chunk (s1.modChunk inst chunk (fun c => { c with lost := c.lost ++ [member] })))

/-! ## Completion (R442, R443) -/

/-- Whether every write of an instance is performed. -/
def instDone (s : State) (x : Inst) : Bool :=
  match x.chunks with
  | none => false
  | some cs => cs.all (chunkOver s x)

/-- Items that land at a member. -/
def landedAt (x : Inst) (m : Nat) : Nat :=
  ((repartPlan x x.lostMembers).filter (fun y => match y.2.2 with | some (k, _) => k == m | none => false)).length

/-- Distinct bytes of a member's shared memory that the instance wrote. -/
def CollJoin.wrote (j : CollJoin) : Nat :=
  j.written.foldl (fun n e => n + ((List.range 64).filter (fun b => e.2.getLsbD b)).length) 0

/-- Whether an instance is a REPART. -/
def CollParams.isRepart : CollParams → Bool
  | .repart _ _ _ _ _ _ _ => true
  | _ => false

/-- COUNT and RESID of a member (R442, R463). -/
def complCounts (x : Inst) (j : CollJoin) : Nat × Nat :=
  if j.params.isRepart then
    if (x.peer j.member).isSome then (landedAt x j.member, (residueOf x j.member).length) else (0, 0)
  else (j.wrote, 0)

/-- The completion word (R442). -/
def complWord (x : Inst) (j : CollJoin) : Nat :=
  let (count, resid) := complCounts x j
  x.number.toNat + 2 ^ 32 * x.status + 2 ^ 40 * x.flags.toNat + 2 ^ 45 * (if x.range then 1 else 0) +
    2 ^ 48 * min 65535 x.reruns + 2 ^ 64 * count + 2 ^ 96 * resid

/-- A member's barrier credited, once (R443 step 2). Completing it is an acquire at fabric scope of what the instance
wrote: the clean bytes of the member's L1 become invalid (R365, R367). -/
def creditJoin (i : Nat) (x : Inst) (j : CollJoin) (s : State) : State :=
  if j.credited then s
  else
    let s1 := s.modJoin i j.member (fun y => { y with credited := true })
    match j.bar with
    | some b =>
      let t := s1.team j.team
      let s2 := if t.run == .running then acquireL1 t.core (s1.clusterFused t.core) 3 s1 else s1
      creditBarrier j.team b (if j.params.isRepart then 0 else (complCounts x j).1) s2
    | none => s1

/-- An instance that every member has left is forgotten. -/
def closeInst (i : Nat) (s : State) : State :=
  match tget s.insts i with
  | some x => if x.joins.all (fun j => j.completed || joinDead s j) then { s with insts := tdel s.insts i } else s
  | none => s

/-- COLLECTIVE_INSTANCE_COMPLETE: a member's credit, then its completion word (R443). -/
def execCollectiveInstanceComplete (inst member : Nat) (s : State) : Host.Outcome State Fault Refusal :=
  match tget s.insts inst with
  | none => .next s
  | some x =>
    match x.join member with
    | none => .next s
    | some j =>
      if !instDone s x || j.completed || j.faulted.isSome || joinDead s j then .next (closeInst inst s)
      else
        let s2 := creditJoin inst x j s
        let bs := (leBytes 16 (complWord x j)).map (fun b => (b, false))
        match writeRun (s2.team j.team).core (s2.launchOf j.team) (complAt j.compl x.number) bs s2 with
        | (.bytes _, s3) => .next (closeInst inst (s3.modJoin inst member (fun y => { y with completed := true })))
        | (a, s3) => .next (joinFault inst member a true s3)

/-! ## The loss of a gateway (R454) -/

/-- GATEWAY_RESET: the partials in the gateway's combining slots are lost; deadlines and reruns make them good (R454,
R455). -/
def execGatewayReset (pkg die : Nat) (s : State) : Host.Outcome State Fault Refusal :=
  if 2 ≤ die then .fault .absentUnit
  else .next (s.modPkg pkg (fun y => { y with slots := y.slots.filter (fun e => e.die != die) }))

end Sys2Proof.Machine
end

