-- ==== Sys2Proof/Machine/Fabric.lean ====
section
/-!
DEFINITION. Machine/Fabric.lean: KIND 4 requests at their targets, their time-outs, writebacks and
acknowledgements, and the numbering of packages (R104, R350, R365, R435 to R438).
-/

namespace Sys2Proof.Machine

open Sys2Proof

/-! ## Writebacks (R104) -/

/-- Whether an instruction that waits in a later pass, or the other of its pair, has a producer (R104). -/
def Reissue.produces (r : Reissue) (id : Nat) : Bool :=
  r.progress.wb == some id || (match r.mate with | some m => m.progress.wb == some id | none => false)

/-- LONG_LATENCY_WRITEBACK: producer i of a warp has all its answers and its instruction no pass to come, and writes
back; the transform pipe writes its own replies (R104, R264). -/
def execLongLatencyWriteback (warp i : Nat) (s : State) : Host.Outcome State Fault Refusal :=
  match lget (s.warp warp).pend i with
  | none => .next s
  | some b =>
    if b.holes != 0 || b.byPipe || (s.warp warp).reissues.any (fun r => r.2.produces b.id) then .next s
    else .next (regroupAll (s.warp warp).team (s.modWarp warp (fun w => w.land b)))

/-- WRITE_ACKNOWLEDGEMENT: an outstanding write of a warp is acknowledged; one through the fabric only
after its target has performed it, or it was given up (R365, R438). -/
def execWriteAcknowledgement (warp i : Nat) (s : State) : Host.Outcome State Fault Refusal :=
  match lget (s.warp warp).acks i with
  | none => .next s
  | some a =>
    if (s.pkg (pkgOf (coreOf warp))).fabric.any (fun r => r.id == a.id) then .next s
    else .next (s.modWarp warp (fun w => { w with acks := ldel w.acks i }))

/-! ## Requests at their targets (R436 to R438) -/

/-- Words that a request returns, in the producer that awaits them; its last answer ends an acquire's wait, with the L1
action of its scope (R350, R365). -/
def answerRequest (r : FabricReq) (ws : List (Word × Bool)) (s : State) : State :=
  let word (j : Nat) : Word × Bool := (lget ws j).getD (0#32, false)
  let one : Lanes := mkLanes (fun l => l == r.lane)
  let fill (b : Writeback) : Writeback :=
    if r.scalar then
      { b with holes := b.holes - 1
               swrites := b.swrites ++ (List.range r.regs.length).map (fun j =>
                 { entry := r.entry, reg := (lget r.regs j).getD 768 - 768, val := (word j).1, poison := (word j).2 }) }
    else
      { b with holes := b.holes - 1
               vwrites := b.vwrites ++ (List.range r.regs.length).map (fun j =>
                 { reg := (lget r.regs j).getD 643, mask := one,
                   words := mkWords (fun l => if l = r.lane then (word j).1 else 0#32),
                   poison := if (word j).2 then one else 0#96 }) }
  let s1 := s.modWarp r.warp (fun w => { w with pend := w.pend.map (fun b => if b.id = r.wb then fill b else b) })
  if (s1.warp r.warp).pend.any (fun b => b.id == r.wb && b.l1Action && b.holes == 0) then
    (l1Invalidate (coreOf r.warp) (s1.fused r.warp) s1).modWarp r.warp (fun w => { w with
      pend := w.pend.map (fun b => if b.id = r.wb then { b with l1Action := false } else b) })
  else s1

/-- Requests taken out of the gateway's queue. -/
def dropRequests (pkg : Nat) (ids : List Nat) (s : State) : State :=
  s.modPkg pkg (fun x => { x with fabric := x.fabric.filter (fun q => !ids.contains q.id) })

/-- A request that ends without being performed: poison for a load and for an atomic that returns its old
value, else dropped and counted (R438). -/
def abandonRequest (r : FabricReq) (s : State) : State :=
  let g := coreOf r.warp
  let poisoned := List.replicate ((r.bytes + 3) / 4) ((0#32 : Word), true)
  match r.op with
  | .load => answerRequest r poisoned s
  | .store _ => countErrorAt 14 1 g s
  | .atomic _ _ _ _ keep =>
    if keep then answerRequest r poisoned s else answerRequest r [] (countErrorAt 14 1 g s)

/-- A request performed at a place of its target (R284, R436). -/
def performRequest (r : FabricReq) (k : Nat) (s : State) : State :=
  let s0 := touchHome k r.tkey s
  match r.op with
  | .load =>
    let s1 := (List.range ((r.bytes + 3) / 4)).foldl (fun t i => resolveMem (k + 4 * i) t) s0
    let bs := (homeRead k r.bytes s1).map (fun b => (b.1, b.2 || r.poa))
    answerRequest r (loadedWords r.narrowSigned r.bytes bs) s1
  | .store data => homeStore k data s0
  | .atomic fn fmt data swap keep =>
    let (bs, s1) := atomAt k r.bytes fn fmt (leValue data) (leValue swap) keep s0
    answerRequest r (if keep then loadedWords false r.bytes bs else []) s1

/-- A request served at its target: the release that it carries is recorded first (R366). -/
def serveRequest (r : FabricReq) (k : Nat) (s : State) : State :=
  match r.tag with
  | some e => performRequest r k (promoRecord k (coreOf r.warp) (s.fused r.warp) e s)
  | none => performRequest r k s

/-- Whether two requests leave one die for one 128-byte line of one target (R437). -/
def sameLine (a b : FabricReq) : Bool :=
  dieOf (coreOf a.warp) == dieOf (coreOf b.warp) && a.target == b.target && a.offset / 128 == b.offset / 128

/-- Whether a request is an atomic. -/
def FabricReq.isAtomic (r : FabricReq) : Bool := match r.op with | .atomic _ _ _ _ _ => true | _ => false

/-- The requests performed with one: it alone, or an atomic with the atomics of its instruction that follow it to its
line, which no other access of the line may part (R345). -/
def lineGroup (r : FabricReq) (later : List FabricReq) : List FabricReq :=
  if r.isAtomic then
    r :: (later.filter (sameLine r)).takeWhile (fun q => q.isAtomic && q.warp == r.warp && q.wb == r.wb)
  else [r]

/-- FABRIC_TARGET_REQUEST: request i of a package is performed at its target, after the earlier ones to its
line; one that no package answers waits for its time-out, one to a MIGRATING region for the region, and an acquire for
the promotion of its line (R289, R345, R366, R436, R437). -/
def execFabricTargetRequest (pkg i : Nat) (s : State) : Host.Outcome State Fault Refusal :=
  match lget (s.pkg pkg).fabric i with
  | none => .next s
  | some r =>
    match r.place with
    | none => .next s
    | some k =>
      if ((s.pkg pkg).fabric.take i).any (sameLine r) || regionIs s k .migrating ||
          (r.tag.isSome && recordStalled s k (coreOf r.warp)) then .next s
      else if r.acquires && (promoPending s k (coreOf r.warp)).isSome then .next (askPromotion k (coreOf r.warp) s)
      else
        let rs := lineGroup r ((s.pkg pkg).fabric.drop (i + 1))
        .next (rs.foldl (fun t q => match q.place with
          | some k => serveRequest q k t
          | none => t) (dropRequests pkg (rs.map (·.id)) s))

/-- FABRIC_REQUEST_TIMEOUT: request i has had no answer in time (R438). -/
def execFabricRequestTimeout (pkg i : Nat) (s : State) : Host.Outcome State Fault Refusal :=
  match lget (s.pkg pkg).fabric i with
  | none => .next s
  | some r =>
    .next (abandonRequest r (dropRequests pkg [r.id] s))

/-- LINK_BRING_UP: the switch gives a package its number, 0 to 1,023 (R435). -/
def execLinkBringUp (pkg number : Nat) (s : State) : Host.Outcome State Fault Refusal :=
  if 1024 ≤ number then .next s
  else .next (s.modPkg pkg (fun x => { x with number := number, inDomain := true }))

end Sys2Proof.Machine
end

