-- ==== Sys2Proof/Machine/Teams.lean ====
section
/-!
DEFINITION. Machine/Teams.lean: the commit of a launch's teams, their retirement and end, combiners,
pre-emption and resume (R26, R34, R221, R222, R228, R422, R423, R428, R434, R465, R468).
-/

namespace Sys2Proof.Machine

open Sys2Proof

/-! ## Commit (R26) -/

/-- Live and helper lanes of a warp with n live lanes (R12, R26). -/
def firstLanes (n : Nat) : Lanes := mkLanes (fun l => l < n)
def helperLanes (n : Nat) : Lanes := mkLanes (fun l => n ≤ l && l < (n + 3) / 4 * 4)

/-- A scalar with a value. -/
def scalarOf (v : Nat) : SReg := { val := BitVec.ofNat 32 v, empty := false, poison := false }

/-- A warp as it begins: team and number, WARPID, role, role-local number, live lanes, budget, entry, and
its granules (R26). -/
def beginWarp (t number : Nat) (l : Launch) (warpid role w n budget : Nat) (granules : List Nat) : Warp :=
  let entry := match lget l.info.roles role with | some r => r.entry | none => 0#32
  { Warp.blank with
    team := t, warpid := warpid, role := BitVec.ofNat 2 role, local_ := w, budget := budget,
    granules := granules, live := firstLanes n, helper := helperLanes n
    vregs := [(0, { VReg.zero with
      tag := 1#4, words := mkWords (fun i => if i < n then BitVec.ofNat 32 (96 * w + i) else 0#32) })]
    sregs := [(3, scalarOf w), (4, scalarOf number), (5, scalarOf l.info.teams), (6, scalarOf n)]
    aregs := [(0, { val := l.args, poison := false }), (1, { val := l.recAddr, poison := false })]
    splits := [(0, { Split.free with
      valid := true, offset := entry, members := firstLanes n, active := firstLanes n })]
    entryUnchecked := true }

/-- The handle queues of a team, their rings behind the user area (R20, R415). -/
def beginQueues (r : LaunchRec) : Tbl HQueue :=
  (List.range 16).foldl (fun t q =>
    match (lget r.hqs q).join with
    | some n => tput t q { ring := r.shared + 128 * t.length, decl := true, size := n, count := 0, head := 0 }
    | none => t) []

/-- The send endpoints of a team: paired ones hold a credit for each slot, unpaired ones are closed
(R423, R424). -/
def beginSends (r : LaunchRec) (number : Nat) : Tbl Endpoint :=
  (List.range 16).foldl (fun t e =>
    match (lget r.sends e).join with
    | none => t
    | some (peer, f, slots, size) =>
      let paired := match (lget r.recvs f).join with
        | some (p, e2, _, _) => p == number && e2 == e
        | none => false
      tput t e { base := 0, peer := peer, peerEp := f, slots := slots, size := size,
                 cnt := if paired then slots else 0, idx := 0, held := false, closed := !paired, decl := true }) []

/-- The receive endpoints of a team, their slots behind the rings (R20, R423, R424). -/
def beginRecvs (r : LaunchRec) (number : Nat) : Tbl Endpoint :=
  ((List.range 16).foldl (fun (a : Tbl Endpoint × Nat) f =>
    match (lget r.recvs f).join with
    | none => a
    | some (peer, e, slots, size) =>
      let paired := match (lget r.sends e).join with
        | some (p, f2, _, _) => p == number && f2 == f
        | none => false
      (tput a.1 f { base := a.2, peer := peer, peerEp := e, slots := slots, size := size, cnt := 0, idx := 0,
                    held := false, closed := !paired, decl := true }, a.2 + slots * size))
    ([], r.shared + r.ringBytes)).1

/-- A barrier at commit (R465). -/
def beginBarrier (r : LaunchRec) (warps b : Nat) : Barrier :=
  { Barrier.blank with level := r.levelOf b, initw := warps }

/-- A team as it begins in its seat: its tiles, barriers, queues and warps (R26). -/
def beginTeam (lk number : Nat) (l : Launch) (seat : TeamSeat) (s : State) : State :=
  let t := 320 * lk + number
  let r := l.info
  let ws := teamWarpList r
  let seatOf (i : Nat) : WarpSeat := (seat.warps.find? (·.warpid == i)).getD { warpid := i, slot := 0, granules := [] }
  let team : Team :=
    { launch := lk, number := number, core := seat.core, run := .running, sharedBlocks := seat.shared,
      accumBlocks := seat.accum, tileMap := seat.tiles, barMap := seat.bars,
      warpSlots := ws.map (fun w => (seatOf w.1).slot), hqs := beginQueues r, sends := beginSends r number,
      recvs := beginRecvs r number, image := none, resuming := false }
  let s1 := (s.setTeam t team).modCore seat.core (fun c => { c with
    tiles := seat.tiles.foldl (fun x n => tput x n { Tile.fresh with owner := number }) c.tiles
    barriers := (List.range seat.bars.length).foldl (fun x b =>
      tput x ((lget seat.bars b).getD 0) (beginBarrier r ws.length b)) c.barriers })
  ws.foldl (fun s w =>
    let x := seatOf w.1
    s.setWarp (48 * seat.core + x.slot) (beginWarp t number l w.1 w.2.1 w.2.2.1 w.2.2.2.1 w.2.2.2.2 x.granules)) s1

/-- The L1s of a core's cluster written back and emptied, when they fuse or separate (R326). -/
def flushCluster (g : Nat) (s : State) : State :=
  (span (g / 4 * 4) 4).foldl (fun s h =>
    ((s.core h).l1.foldl (fun t e => writeBack h e.2 t) s).modCore h (fun c => { c with l1 := [] })) s

/-- The commit of a launch: every team begins in its seat (R307 steps 3 and 5). -/
def commitLaunch (lk : Nat) (l : Launch) (seats : List TeamSeat) (s : State) : State :=
  let s1 := if l.info.fuse then seats.foldl (fun s x => if x.core % 4 = 0 then flushCluster x.core s else s) s else s
  (List.range seats.length).foldl (fun s i =>
    match lget seats i with
    | some x => beginTeam lk i l x s
    | none => s) (s1.setLaunch lk l)

/-! ## Giving resources back (R34) -/

/-- Channels close: every endpoint paired with one of a team's (R428). -/
def closeChannels (t : Nat) (s : State) : State :=
  let x := s.team t
  let close (y : Endpoint) (e : Nat) : Endpoint :=
    if y.decl && y.peer == x.number && y.peerEp == e then { y with closed := true } else y
  let s1 := x.sends.foldl (fun s e =>
    let p := 320 * x.launch + e.2.peer
    if (tget s.teams p).isSome && e.2.decl then s.setRecv p e.2.peerEp (close (s.recv p e.2.peerEp) e.1) else s) s
  x.recvs.foldl (fun s e =>
    let p := 320 * x.launch + e.2.peer
    if (tget s.teams p).isSome && e.2.decl then s.setSend p e.2.peerEp (close (s.send p e.2.peerEp) e.1) else s) s1

/-- The entries a team's handle queues hold are discarded and counted; HEAD stays (R34 step 2, R415, R422). -/
def discardQueues (t : Nat) (s : State) : State :=
  let x := s.team t
  let n := x.hqs.foldl (fun n q => n + q.2.count) 0
  (countCore 0x22 n x.core s).modTeam t (fun y => { y with hqs := y.hqs.map (fun q => (q.1, { q.2 with count := 0 })) })

/-- A tile of a team that gives its entries back: EMPTY, its GEN kept (R269). -/
def Tile.given (x : Tile) : Tile := { x with state := .empty, readers := 0, fills := 0 }

/-- Whether a team is the last running one of a FUSEL1 launch on its cluster, with which the fused L1s separate (R326). -/
def unfuses (s : State) (t : Nat) : Bool :=
  let x := s.team t
  x.run == .running && (s.launchOf t).info.fuse &&
  !(s.teams.any (fun y => y.1 != t && y.2.launch == x.launch && y.2.core / 4 == x.core / 4 && y.2.run == .running))

/-- Whether the fused L1s of a team's cluster, which separate when it is freed, cannot be written back yet (R289). -/
def freeStalled (s : State) (t : Nat) : Bool := (s.launchOf t).info.fuse && l1Stalled s (s.team t).core true

/-- A team's tiles, barriers and blocks are freed, with the readers of its tiles; a barrier's record stays as it is until
its slot is given anew (R26, R465). Its fused L1s separate with the launch's last team of the cluster (R34 step 4, R269,
R326). -/
def freeTeam (t : Nat) (run : TeamRun) (s : State) : State :=
  let x := s.team t
  let s0 := if unfuses s t then flushCluster x.core s else s
  let s1 := if x.image.isSome then s0 else s0.modCore x.core (fun c => { c with
    tiles := c.tiles.map (fun (e : Nat × Tile) => if x.tileMap.contains e.1 then (e.1, e.2.given) else e)
    readers := c.readers.filter (fun r => !x.tileMap.contains r.tile) })
  s1.modTeam t (fun y => { y with
    run := run, sharedBlocks := [], accumBlocks := [], tileMap := [], barMap := [], image := none, resuming := false })

/-- The pins of a launch's TPREFs are cleared (R411). -/
def clearPins (lk : Nat) (s : State) : State :=
  let p := (s.launch lk).pkg
  s.modPkg p (fun x => { x with segLines := x.segLines.map (fun e =>
    (e.1, if e.2.owner == lk + 1 then { e.2 with pin := false, owner := 0 } else e.2)) })

/-- When the last launch whose tenant holds the grant retires, firmware asks for 16 modules (R434). -/
def steerBack (lk : Nat) (s : State) : State :=
  let l := s.launch lk
  let holds (y : Launch) : Bool := y.pkg == l.pkg && (s.pkg l.pkg).grants.getLsbD y.tkey.toNat
  if holds l && !(s.launches.any (fun e => e.1 != lk && !e.2.finished && holds e.2)) then
    s.modPkg l.pkg (fun x => { x with steerDue := x.steerDue + 1 }.steer)
  else s

/-- A node's run is done with a status. -/
def NodeRun.finish (r : NodeRun) (status cause : BitVec 8) (detail : Word) (team : Nat) : NodeRun :=
  { r with phase := .done, status := status, cause := cause, detail := detail, team := team }

/-- A launch ends: its node completes with a status (R34 step 5, R228). -/
def finishLaunch (lk : Nat) (status cause : BitVec 8) (detail : Word) (team : Nat) (s : State) : State :=
  let s1 := (steerBack lk (clearPins lk s)).modLaunch lk (fun l => { l with finished := true })
  s1.modPkg (s.launch lk).pkg (fun x => { x with runs := x.runs.map (fun r =>
    if r.phase == .running lk then r.finish status cause detail team else r) })

/-- The teams of a launch. -/
def State.teamsOf (s : State) (lk : Nat) : List Nat := (s.teams.filter (fun t => t.2.launch == lk)).map (·.1)

/-- Whether a team has engine work left: copies, matrix commands, readers of its tiles, collectives (R34 step 1). -/
def engineWork (s : State) (t : Nat) : Bool :=
  (s.core (s.team t).core).readers.any (fun r => (s.team t).tileMap.contains r.tile) ||
  s.cores.any (fun c => c.2.copies.any (·.team == t) || c.2.matrix.any (·.team == t)) ||
  s.insts.any (fun x => x.2.joins.any (fun j => j.team == t && !j.completed))

/-! ## Ending a launch (R228) -/

/-- A warp stopped for good: what it has issued may still write back (R228). -/
def Warp.stop (w : Warp) : Warp :=
  { w with
    live := 0#96, helper := 0#96, exited := w.exited ||| w.live, splits := [], unseated := 0#96, uactive := 0#96, uoffset := [],
    reissues := [], fast := [], park := .no, frozen := [], desc := [], walkFails := [], trapMode := false,
    trapSplit := none, retired := true }

/-- The warps of a team stop, and their waits with them. -/
def stopWarps (t : Nat) (s : State) : State :=
  let ks := s.teamWarps t
  let g := (s.team t).core
  let s1 := ks.foldl (fun s k => s.modWarp k Warp.stop) s
  (s1.modCore g (fun c => { c with rendezvous := c.rendezvous.filter (fun r => !ks.contains (48 * g + r.leader)) })).modPkg
    (pkgOf g) (fun x => { x with walks := x.walks.map (fun v =>
      { v with waiters := v.waiters.filter (fun m => !ks.contains m.1) }) })

/-- The engine work of a team is discarded. -/
def discardEngines (t : Nat) (s : State) : State :=
  let ks := s.teamWarps t
  let x := s.team t
  let s1 := { s with
    cores := s.cores.map (fun (c : Nat × Core) => (c.1, { c.2 with
      copies := c.2.copies.filter (·.team != t)
      matrix := c.2.matrix.filter (·.team != t)
      pipe := c.2.pipe.filter (fun r => !ks.contains r.warp) })) }
  let s2 := ks.foldl (fun s k => s.modWarp k (fun w => { w with pend := [] })) s1
  s2.modPkg (pkgOf x.core) (fun y => { y with
    chDeliveries := y.chDeliveries.filter (·.launch != x.launch)
    chCredits := y.chCredits.filter (·.launch != x.launch)
    multicasts := y.multicasts.filter (·.launch != x.launch) })

/-- A team ended. -/
def endOne (t : Nat) (s : State) : State :=
  freeTeam t .ended (discardQueues t (discardEngines t (stopWarps t s)))

/-- The replays that the node of a launch has taken. -/
def launchReplays (s : State) (lk : Nat) : Nat :=
  ((((s.pkg (s.launch lk).pkg).runs.find? (fun r => r.phase == .running lk)).map (·.replays))).getD 0

/-- UNCORRECTABLE_STATE_ERROR: an error in state of a team that is not a word (R218). -/
def execUncorrectableStateError (team die : Nat) (s : State) : Host.Outcome State Fault Refusal :=
  if 2 ≤ die then .fault .absentUnit
  else if (s.team team).run == .running then .next (stateError team die s) else .next s

/-! ## Combiners (R467, R468) -/

/-- The key of a barrier's combiner: of a die for a span, of the launch for a grid. -/
def combinerKey (s : State) (t b : Nat) : Nat :=
  match (s.launchOf t).info.levelOf b with
  | .span => 4 * b + dieOf (s.team t).core
  | _ => 4 * b + 2

/-- The teams that a combiner counts. -/
def combinerTeams (s : State) (t b : Nat) : List Nat :=
  let ts := s.teamsOf (s.team t).launch
  match (s.launchOf t).info.levelOf b with
  | .span => ts.filter (fun u => dieOf (s.team u).core == dieOf (s.team t).core)
  | _ => ts

/-- COMBINER_TEAM_ARRIVAL: a team's arrival reaches its combiner, which releases every team when all have
arrived (R468). -/
def execCombinerTeamArrival (launch i : Nat) (s : State) : Host.Outcome State Fault Refusal :=
  match lget (s.launch launch).arrivals i with
  | none => .next s
  | some (t, b) =>
    let key := combinerKey s t b
    let n := (tget (s.launch launch).combiners key).getD 0 + 1
    let ts := combinerTeams s t b
    .next (s.modLaunch launch (fun l =>
      if n = ts.length then
        { l with arrivals := ldel l.arrivals i, combiners := tput l.combiners key 0, releases := l.releases ++ ts.map (fun u => (u, b)) }
      else { l with arrivals := ldel l.arrivals i, combiners := tput l.combiners key n }))

/-- COMBINER_RELEASE: a release reaches a team (R467, R479). -/
def execCombinerRelease (launch i : Nat) (s : State) : Host.Outcome State Fault Refusal :=
  match lget (s.launch launch).releases i with
  | none => .next s
  | some (t, b) =>
    let s1 := s.modLaunch launch (fun l => { l with releases := ldel l.releases i })
    if (s.team t).run == .running || (s.team t).run == .preempted then .next (barRelease t b s1) else .next s1

/-! ## Pre-emption (R33, R221) -/

/-- Whether what a team has issued is complete but for its fills and collectives, and its core's L1 can be written back
(R221 steps 1 to 3, R289, R369). -/
def mayPreempt (s : State) (t : Nat) : Bool :=
  let x := s.team t
  x.run == .running && (s.launch x.launch).ending.isNone && s.cur.isNone && !l1Stalled s x.core (s.clusterFused x.core) &&
  (s.teamWarps t).all (fun k => (s.warp k).pend.isEmpty && (s.warp k).acks.isEmpty && (s.warp k).batchesOut == 0) &&
  (s.core x.core).matrix.all (·.team != t) &&
  (s.core x.core).readers.all (fun r => !x.tileMap.contains r.tile) &&
  s.cores.all (fun c => c.2.copies.all (fun q => q.team != t || (q.kind != .tstore && q.kind != .tpref)))

/-- The upsets of a team's memories and registers found as the context save reads them, its fast files released (R88,
R94, R225, R370). -/
def resolveTeam (t : Nat) (s : State) : State :=
  let x := s.team t
  let g := x.core
  let s1 := ((s.core g).sharedUpset.filter (fun e => x.sharedBlocks.contains (e.1 / 2048))).foldl (fun s e =>
    resolveShared g (4 * e.1) s) s
  let s2 := ((s1.core g).accumFlips.filter (fun e => x.accumBlocks.contains (e.1 / 2048))).foldl
    (fun s e => resolveAcc g e.1 s) s1
  (s.teamWarps t).foldl (fun s k => resolveAll k (releaseRegs k ((s.warp k).fast.map (·.1)) s)) s2

/-- Entries of a sparse map that lie in a team's blocks of n units, at the offsets the team names them by. -/
def blockEntries {α : Type} (blocks : List Nat) (n : Nat) (t : Tbl α) : Tbl α :=
  (t.filter (fun e => blocks.contains (e.1 / n))).foldl (fun u e =>
    tput u (n * blocks.idxOf (e.1 / n) + e.1 % n) e.2) []

/-- Entries of a team's sparse map at the places of its blocks. -/
def toBlocks {α : Type} (blocks : List Nat) (n : Nat) (t base : Tbl α) : Tbl α :=
  t.foldl (fun u e => match lget blocks (e.1 / n) with
    | some b => tput u (n * b + e.1 % n) e.2
    | none => u) (base.filter (fun e => !blocks.contains (e.1 / n)))

/-- The registers of a warp as a context save leaves them: the A-reuse latch gone, the fast file released (R94, R103,
R225). -/
def Warp.saved (w : Warp) : Warp := { w with areuse := none, fast := [], desc := [], frozen := [], walkFails := [] }

/-- The image of a team (R223). -/
def imageOf (s : State) (t : Nat) : Image :=
  let x := s.team t
  let c := s.core x.core
  let ks := s.teamWarps t
  { warps := ks.foldl (fun u k => tput u (s.warp k).warpid (s.warp k).saved) []
    slots := ks.foldl (fun u k => tput u (slotOf k) (s.warp k).warpid) []
    shared := blockEntries x.sharedBlocks 8192 c.shared
    sharedPoison := blockEntries x.sharedBlocks 2048 c.sharedPoison
    accum := blockEntries x.accumBlocks 2048 c.accum
    accumPoison := (blockEntries x.accumBlocks 2048 c.accumPoison).map (fun e => (e.1, 1#1))
    tiles := (List.range x.tileMap.length).map (s.tile t)
    barriers := (List.range x.barMap.length).map (s.bar t) }

/-- A team written to its image, once its core's L1 is written back; its warps leave their slots and its resources are
free (R221 step 5, R369). -/
def preemptOne (t : Nat) (s : State) : State :=
  let g := (s.team t).core
  let s1 := resolveTeam t (l1CleanAll g (s.clusterFused g) s)
  let im := imageOf s1 t
  let s2 := freeTeam t .preempted (stopWarps t s1)
  s2.modTeam t (fun x => { x with image := some im, warpSlots := [] })

/-- The teams that are pre-empted and resumed with a team: those of its cluster under FUSEL1 (R222). -/
def preemptGroup (s : State) (t : Nat) : List Nat :=
  let x := s.team t
  if (s.launchOf t).info.fuse then
    (s.teamsOf x.launch).filter (fun u => (s.team u).number / 4 == x.number / 4 && (s.team u).run == x.run)
  else [t]

/-- PREEMPT (R221). -/
def execPreempt (team : Nat) (s : State) : Host.Outcome State Fault Refusal :=
  let ts := preemptGroup s team
  if ts.all (mayPreempt s) then .next (ts.foldl (fun s t => preemptOne t s) s) else .next s

/-! ## Resume (R222) -/

/-- The slot identifier of a gang's member that no warp of the team held at the save: it names no slot (R378). -/
def noSlot : Nat := 255

/-- A team restored in a seat: memories, tiles, barriers, warps with their gangs in the new slots, their
working sets staged anew; what the new core's L1 holds clean is older than the team's own stores may be, and becomes
invalid (R96, R222, R369, R378; log 22). -/
def restoreTeam (t : Nat) (im : Image) (seat : TeamSeat) (s : State) : State :=
  let slotFor (i : Nat) : Nat := ((seat.warps.find? (·.warpid == i)).map (·.slot)).getD 0
  let granulesFor (i : Nat) : List Nat := ((seat.warps.find? (·.warpid == i)).map (·.granules)).getD []
  let s0 := l1Invalidate seat.core (s.launchOf t).info.fuse s
  let s1 := (s0.modTeam t (fun x => { x with
      run := .running, core := seat.core, image := none, resuming := false, sharedBlocks := seat.shared, accumBlocks := seat.accum,
      tileMap := seat.tiles, barMap := seat.bars, warpSlots := im.warps.map (fun w => slotFor w.1) })).modCore seat.core
    (fun c => { c with
      shared := toBlocks seat.shared 8192 im.shared c.shared
      sharedPoison := toBlocks seat.shared 2048 im.sharedPoison c.sharedPoison
      sharedUpset := c.sharedUpset.filter (fun e => !seat.shared.contains (e.1 / 2048))
      accum := toBlocks seat.accum 2048 im.accum c.accum
      accumPoison := toBlocks seat.accum 2048 (im.accumPoison.map (fun e => (e.1, 3#2))) c.accumPoison
      accumFlips := c.accumFlips.filter (fun e => !seat.accum.contains (e.1 / 2048))
      tiles := (List.range seat.tiles.length).foldl (fun u i =>
        tput u ((lget seat.tiles i).getD 0) ((lget im.tiles i).getD Tile.fresh)) c.tiles
      barriers := (List.range seat.bars.length).foldl (fun u i =>
        tput u ((lget seat.bars i).getD 0) ((lget im.barriers i).getD Barrier.blank)) c.barriers })
  im.warps.foldl (fun s e =>
    let w := { e.2 with
      granules := granulesFor e.1
      gang := e.2.gang.map (fun i => ((tget im.slots i).map slotFor).getD noSlot)
      staged := e.2.ws.isEmpty }
    stageSet (48 * seat.core + slotFor e.1) (s.setWarp (48 * seat.core + slotFor e.1) w)) s1

/-- Whether a core holds a running team of a launch. -/
def holdsLaunch (s : State) (lk g : Nat) : Bool :=
  s.teams.any (fun x => x.2.run == .running && x.2.core == g && x.2.launch == lk)

/-- The seats of a group of teams that resumes now, on cores without another team of the launch (R11,
R222). -/
def resumeSeats (s : State) (t : Nat) (n : Nat) (part : BitVec 32) : Option (List TeamSeat) :=
  let l := s.launchOf t
  let r := l.info
  let cs := (launchCores s l.pkg part r.coll).filter (fun g =>
    (!r.fuse || !clusterBusy s g) && !holdsLaunch s (s.team t).launch g)
  let free := cs.map (fun g => (g, coreFree s g))
  if r.fuse then seatClusters r 1 (clustersOf free) else seatTeams r n free

/-- The PARTMASK of the node of a launch. -/
def launchPart (s : State) (lk : Nat) : BitVec 32 :=
  match (s.pkg (s.launch lk).pkg).runs.find? (fun r => r.phase == .running lk) with
  | some r => (nodeOf (r.record.getD [])).part
  | none => 0#32

/-- A pre-empted team, with its cluster's under FUSEL1, placed anew and restored where it fits; else it waits
(R222). -/
def resumeTeam (team : Nat) (s : State) : State :=
  let x := s.team team
  if x.run != .preempted || (s.launch x.launch).ending.isSome then s
  else
    let ts := preemptGroup s team
    let wait : State := ts.foldl (fun s t => s.modTeam t (fun y => { y with resuming := true })) s
    match resumeSeats s team ts.length (launchPart s x.launch) with
    | none => wait
    | some seats =>
      if (s.launch x.launch).info.fuse && seats.any (fun y => l1Stalled s y.core true) then wait
      else
      let s0 := if (s.launch x.launch).info.fuse then
          (match seats with | y :: _ => flushCluster y.core s | [] => s) else s
      (List.zipWith (fun t y => (t, y)) ts seats).foldl (fun s p =>
        match (s.team p.1).image with
        | some im => regroupAll p.1 (restoreTeam p.1 im p.2 s)
        | none => s) s0

/-- RESUME: firmware chooses to resume a team (R222). -/
def execResume (team : Nat) (s : State) : Host.Outcome State Fault Refusal := .next (resumeTeam team s)

/-- The resumes that wait in a package are tried again, in the order of the teams, when teams have given resources back
(R222; log 22). -/
def retryResumes (p : Nat) (s : State) : State :=
  (s.teams.filter (fun t => t.2.resuming && (s.launch t.2.launch).pkg == p)).foldl
    (fun s t => if (s.team t.1).resuming then resumeTeam t.1 s else s) s

/-! ## The end of teams (R34, R228) -/

/-- TEAM_RETIRE: every warp has retired, and the team's engine work is done (R34, R422, R428). -/
def execTeamRetire (team : Nat) (s : State) : Host.Outcome State Fault Refusal :=
  let x := s.team team
  let lk := x.launch
  if x.run != .running || (s.launch lk).ending.isSome || engineWork s team || freeStalled s team ||
      (s.teamWarps team).any (fun k => !(s.warp k).retired || !(s.warp k).pend.isEmpty) then .next s
  else
    let s1 := freeTeam team .retired (closeChannels team (discardQueues team s))
    let s2 := if (s1.teamsOf lk).all (fun t => (s1.team t).run == .retired) then finishLaunch lk 0#8 0#8 0#32 0 s1 else s1
    .next (retryResumes (s.launch lk).pkg s2)

/-- TEAM_END: firmware stops every warp of a launch that is ending and completes its node as failed; for
a replay it only stops them, unless three were taken (R228, R229, R309 step 1). -/
def execTeamEnd (launch : Nat) (s : State) : Host.Outcome State Fault Refusal :=
  let l := s.launch launch
  match l.ending with
  | none => .next s
  | some r =>
    if l.finished then .next s
    else
      let ts := (s.teamsOf launch).filter (fun t => (s.team t).run == .running || (s.team t).run == .preempted)
      if l.replaying && launchReplays s launch < 3 then .next (ts.foldl (fun s t => stopWarps t s) s)
      else if ts.any (freeStalled s) then .next s
      else
        let names := r.status == 0x20#8 || r.status == 0x21#8 || r.status == 0x40#8 || r.status == 0x41#8
        .next (retryResumes l.pkg (finishLaunch launch r.status r.cause r.detail (if names then r.team else 0)
          (ts.foldl (fun s t => endOne t s) s)))

end Sys2Proof.Machine
end

