-- ==== Sys2Proof/Machine/FrontEnd.lean ====
section
/-!
DEFINITION. Machine/FrontEnd.lean: doorbells, the reading of records, the graph walker with its kinds of
node, launches, completion and Squall replay (R24, R229, R292, R296, R299 to R309, R506).
-/

namespace Sys2Proof.Machine

open Sys2Proof

/-! ## Runs of nodes -/

/-- Run i of a package. -/
def State.runAt (s : State) (p i : Nat) : Option NodeRun := lget (s.pkg p).runs i

def setRun (p i : Nat) (r : NodeRun) (s : State) : State :=
  s.modPkg p (fun x => { x with runs := lset x.runs i r })

def modRun (p i : Nat) (f : NodeRun → NodeRun) (s : State) : State :=
  match s.runAt p i with
  | some r => setRun p i (f r) s
  | none => s

def dropRun (p i : Nat) (s : State) : State := s.modPkg p (fun x => { x with runs := ldel x.runs i })

/-- A run of a slot as it becomes ready. -/
def freshRun (ring slot : Nat) (phase : NodePhase) : NodeRun :=
  { ring := ring, slot := slot, phase := phase, record := none, blocking := false, status := 0#8,
    cause := 0#8, detail := 0#32, team := 0, replays := 0, lrec := none, outputs := [], release := [],
    listed := false, written := false }

def addRun (p : Nat) (r : NodeRun) (s : State) : State := s.modPkg p (fun x => { x with runs := x.runs ++ [r] })

/-- The first run of a slot in a phase. -/
def findRun (s : State) (p ring slot : Nat) (f : NodePhase → Bool) : Option Nat :=
  let rs := (s.pkg p).runs
  firstBelow rs.length (fun i => match lget rs i with
    | some r => r.ring == ring && r.slot == slot && f r.phase
    | none => false)

/-- The ring of a number; one that is not bound has no slot in use. -/
def State.ringOf (s : State) (p ring : Nat) : Option Ring := tget (s.pkg p).rings ring

/-- A ring changed. -/
def modRing (p ring : Nat) (f : Ring → Ring) (s : State) : State :=
  s.modPkg p (fun x => match tget x.rings ring with
    | some r => { x with rings := tput x.rings ring (f r) }
    | none => x)

/-- The live count of a slot set. -/
def setLive (p ring slot n : Nat) (s : State) : State :=
  modRing p ring (fun r => { r with live := tput r.live slot n }) s

/-- A run that is done with a status and releases nothing. -/
def failRun (p i : Nat) (status cause : BitVec 8) (s : State) : State :=
  modRun p i (fun r => { (r.finish status cause 0#32 0) with release := [], listed := true }) s

/-- A notification for the host. -/
def notify (p : Nat) (n : Notice) (s : State) : State := s.modPkg p (fun x => { x with notices := x.notices ++ [n] })

/-- What the front end reads or writes: the node record, at its start or for its live count; the launch
record; the condition word; the WAIT word; the SIGNAL store; the overflow list; the completion word; the
OUTLIST. -/
def feRecord : Nat := 0
def feCount : Nat := 1
def feLaunch : Nat := 2
def feCond : Nat := 3
def feWait : Nat := 4
def feSignal : Nat := 5
def feOverflow : Nat := 6
def feCompletion : Nat := 7
def feOutputs : Nat := 8

/-- An access of the front end failed. A page fault waits for firmware's service; after it, and for
PROTECTION, the node fares as R506 says. tries is the number of mismatches met before (R299), again the access that the
service was asked for. -/
def feFailAt (p i tries : Nat) (cause : BitVec 8) (what : Nat) (again : Option Nat) (s : State) : State :=
  match s.runAt p i with
  | none => s
  | some r =>
    if cause == causePageFault && again != some what then setRun p i { r with phase := .waitFault cause what tries } s
    else if what = feRecord || what = feCount then notify p (.nodeUnreadable r.ring r.slot) (dropRun p i s)
    else if what = feCompletion then
      notify p (.completionUnwritten r.ring r.slot r.status) (setRun p i { r with written := true, phase := .done } s)
    else if what = feOutputs then failRun p i 0x10#8 0#8 s
    else failRun p i 0x13#8 cause s

/-- The same for an access that is no read of a node record. -/
def feFail (p i : Nat) (cause : BitVec 8) (what : Nat) (again : Option Nat) (s : State) : State :=
  feFailAt p i 0 cause what again s

/-- A replayable node is replayed, at most three times, from the record copy that it holds (R229, R309). -/
def replayRun (p i : Nat) (s : State) : State :=
  modRun p i (fun r => { r with
    replays := r.replays + 1, phase := .ready, status := 0#8, cause := 0#8, detail := 0#32, team := 0
    release := [], listed := false, written := false }) s

/-- A walk of the front end met an entry in error, in a package and die: it is counted, and a replayable node is
replayed, another fails with POISON-USE (R218, R229, R283). Without a record no completion word can be found, and one
that cannot be written is notified (R506; log 14). -/
def feBad (p i what n d : Nat) (s : State) : State :=
  let t := countError 12 1 n d s
  match t.runAt p i with
  | none => t
  | some r =>
    if what = feRecord || what = feCount then notify p (.nodeUnreadable r.ring r.slot) (dropRun p i t)
    else if (r.record.any (fun b => (nodeOf b).replay)) && r.replays < 3 then replayRun p i t
    else if what = feCompletion then
      notify p (.completionUnwritten r.ring r.slot 0x20#8)
        (modRun p i (fun r => { r with written := true }) (failRun p i 0x20#8 causePoison t))
    else failRun p i 0x20#8 causePoison t

/-! ## Records (R299, R300, R303) -/

/-- A valid copy taken by a run: it starts, and the live count reloads from PREDS (R301); a record that
breaks R297 starts nothing (R303). -/
def takeCopy (p i : Nat) (d : List Byte) (s : State) : State :=
  match s.runAt p i with
  | none => s
  | some r =>
    let s1 := setRun p i { r with record := some d, phase := .ready } s
    if nodeOk d then setLive p r.ring r.slot (nodeOf d).preds s1 else failRun p i 0x10#8 0#8 s1

/-- A record read for a run that starts; tries is the number of mismatches met before (R299). -/
def readForStart (p i tries : Nat) (again : Option Nat) (s : State) : State :=
  match s.runAt p i with
  | none => s
  | some r =>
    match readRecord p r.ring r.slot s with
    | (.copy d, t) => takeCopy p i d t
    | (.torn d, t) =>
      if 1024 ≤ tries + 1 then failRun p i 0x11#8 0#8 (setRun p i { r with record := some d } t)
      else setRun p i { r with phase := .reread (tries + 1) } t
    | (.fault c, t) => feFailAt p i tries c feRecord again t
    | (.bad n d, t) => feBad p i feRecord n d t
    | (.stall, _) => s

/-- The copy that a ready run executes: a prefetched one, which is used up, or one read now (R300). -/
def fetchCopy (p i : Nat) (s : State) : State :=
  match s.runAt p i with
  | none => s
  | some r =>
    match (s.ringOf p r.ring).bind (fun x => tget x.prefetched r.slot) with
    | some d => takeCopy p i d (modRing p r.ring (fun x => { x with prefetched := tdel x.prefetched r.slot }) s)
    | none => readForStart p i 0 none s

/-! ## Live counts and successors (R301) -/

/-- A live count decremented; at 0 the slot becomes ready. -/
def decrement (p ring slot n : Nat) (s : State) : State :=
  let m := (n + 65535) % 65536
  let s1 := setLive p ring slot m s
  if m = 0 then addRun p (freshRun ring slot .ready) s1 else s1

/-- The record of a slot read to load its live count, which is then decremented; run i, if any, is the one
that waits for it. A count that has been loaded meanwhile is decremented, with no read (R301). -/
def loadCount (p ring slot tries : Nat) (i : Option Nat) (again : Option Nat) (s : State) : State :=
  let drop (s : State) : State := match i with | some j => dropRun p j s | none => s
  let keep (ph : NodePhase) (s : State) : State :=
    match i with
    | some j => modRun p j (fun r => { r with phase := ph }) s
    | none => addRun p (freshRun ring slot ph) s
  match (s.ringOf p ring).bind (fun r => tget r.live slot) with
  | some n => decrement p ring slot n (drop s)
  | none =>
  match readRecord p ring slot s with
  | (.copy d, t) => decrement p ring slot (nodeOf d).preds (drop t)
  | (.torn d, t) =>
    if 1024 ≤ tries + 1 then
      let r := freshRun ring slot .ready
      addRun p { (r.finish 0x11#8 0#8 0#32 0) with record := some d, listed := true } (drop t)
    else keep (.loading (tries + 1)) t
  | (.fault c, t) =>
    if c == causePageFault && again != some feCount then keep (.waitFault c feCount tries) t
    else notify p (.nodeUnreadable ring slot) (drop t)
  | (.bad n d, t) => notify p (.nodeUnreadable ring slot) (drop (countError 12 1 n d t))
  | (.stall, _) => keep (.loading tries) s

/-- A successor released: its live count is decremented, and loaded first when it is unloaded. A reference
to a ring that is not bound, or beyond its ring, releases nothing (log 14). -/
def releaseOne (p ref : Nat) (s : State) : State :=
  let ring := ref / 65536 % 64
  let slot := ref % 65536
  match s.ringOf p ring with
  | none => s
  | some r =>
    if 2 ^ r.logSlots ≤ slot then s
    else
      match tget r.live slot with
      | some n => decrement p ring slot n s
      | none => loadCount p ring slot 0 none none s

/-! ## Reading words (R302) -/

/-- The promotions that an acquire of a line waits for, made; none while a write-back of theirs meets a MIGRATING region
(R289, R366). -/
def promoteLine (k : Nat) (s : State) : Option State :=
  match homeOf s k with
  | none => some s
  | some home =>
    let es := ((s.pkg (keyPkg k)).promoOf home).filter (fun e => e.line == k / 128)
    if es.any (promoStalled s) then none
    else some (es.foldl (fun t e => promote (keyPkg k) home e t) s)

/-- A system-scope acquire load of n bytes by the walker: the value, or what R506 says. -/
def feAcquire (p : Nat) (r : Ring) (va : A80) (n : Nat) (s : State) : EngineAns × State :=
  match fePlace p r va .read s with
  | (.here q, t) =>
    if 2 < keyKind q.key then feRead p r va n t
    else
      match promoteLine q.key t with
      | some t1 => feRead p r va n t1
      | none => (.stall, t)
  | (_, t) => feRead p r va n t

/-- The little-endian value of bytes read, whatever their poison (log 14). -/
def wordOf (bs : List (Byte × Bool)) : Nat := leValue (bs.map (·.1))

/-! ## Placing a launch (R24, R306, R307) -/

/-- The record of a run. -/
def NodeRun.node (r : NodeRun) : NodeRec := nodeOf (r.record.getD [])

/-- Whether run i comes before run j: by class, then by the order in which they became ready (R306). -/
def ahead (a : NodeRec × Nat) (b : NodeRec × Nat) : Bool :=
  a.1.prio < b.1.prio || (a.1.prio == b.1.prio && a.2 < b.2)

/-- The indices of runs that satisfy f. -/
def runsWhere (s : State) (p : Nat) (f : Nat → NodeRun → Bool) : List Nat :=
  (List.range (s.pkg p).runs.length).filter (fun i => match s.runAt p i with | some r => f i r | none => false)

/-- The record that a ready run would execute, if it can be seen. -/
def peekNode (s : State) (p : Nat) (r : NodeRun) : Option NodeRec :=
  let d := match r.record with
    | some d => some d
    | none =>
      match (s.ringOf p r.ring).bind (fun x => tget x.prefetched r.slot) with
      | some d => some d
      | none => match (readRecord p r.ring r.slot s).1 with | .copy d => some d | _ => none
  match d with
  | some d => if nodeOk d then some (nodeOf d) else none
  | none => none

/-- Whether a ready KERNEL node that has not been tried comes before run i. -/
def untriedAhead (s : State) (p i : Nat) (d : NodeRec) : Bool :=
  !(runsWhere s p (fun j r => j != i && r.phase == .ready &&
    (match peekNode s p r with | some x => x.kind == 1 && ahead (x, j) (d, i) | none => false))).isEmpty

/-- Whether two KERNEL nodes share a partition. -/
def shareParts (a b : NodeRun) : Bool :=
  (a.node.part &&& b.node.part) != 0#32 ||
  ((a.lrec.map (·.coll)).getD false && (b.lrec.map (·.coll)).getD false)

/-- Whether a node that has waited 1 ms blocks run i: it comes before it and shares a partition with it (R306). -/
def blockedBy (s : State) (p i : Nat) (r : NodeRun) : Bool :=
  !(runsWhere s p (fun j x => j != i && x.phase == .waitPlace && x.blocking && ahead (x.node, j) (r.node, i) &&
    shareParts x r)).isEmpty

/-- Whether run i may not be placed now: a node blocks it, or one ahead that nothing blocks fits now and is tried
first (R306). -/
def heldBack (s : State) (p i : Nat) (r : NodeRun) : Bool :=
  blockedBy s p i r ||
  !(runsWhere s p (fun j x => j != i && x.phase == .waitPlace && ahead (x.node, j) (r.node, i) && !blockedBy s p j x &&
    (match x.lrec with | some l => (placeNow s p l x.node.part).isSome | none => false))).isEmpty

/-- The residency phase of a node written to its tenant's phase register on both dies (R292). -/
def loadPhase (p : Nat) (tkey : BitVec 8) (phase : Nat) (s : State) : State :=
  s.modPkg p (fun x => { x with
    phases := [0, 1].foldl (fun t d => tput t (256 * d + tkey.toNat) (BitVec.ofNat 4 phase)) x.phases
    sweepDue := [0, 1].foldl (fun t d => tput t d true) x.sweepDue })

/-- The launch that a run becomes. -/
def launchOfRun (s : State) (p : Nat) (r : NodeRun) (g : Ring) (l : LaunchRec) : Launch :=
  let d := r.node
  { pkg := p, ring := r.ring, slot := r.slot, info := l, recAddr := d.lrec, args := d.args,
    handler := d.handler, root := g.root, asn := g.asn, tkey := g.tkey, prio := d.prio,
    granted := l.veer && (s.pkg p).grants.getLsbD g.tkey.toNat, replayable := d.replay,
    replays := r.replays, outputs := r.outputs, ending := none, replaying := false, combiners := [],
    arrivals := [], releases := [], finished := false }

/-- Whether the L1s that a FUSEL1 launch finds on its clusters cannot be written back yet (R289, R326). -/
def seatsStalled (s : State) (l : LaunchRec) (seats : List TeamSeat) : Bool :=
  l.fuse && seats.any (fun x => l1Stalled s x.core true)

/-- A run whose launch record is good tried: every team is placed and the launch commits, or the node waits
(R289, R307 steps 2 to 5). -/
def tryPlace (p i : Nat) (s : State) : State :=
  match s.runAt p i with
  | none => s
  | some r =>
    let s0 := setRun p i { r with phase := .waitPlace } s
    match r.lrec, s.ringOf p r.ring with
    | some l, some g =>
      if heldBack s p i r then s0
      else
        match placeNow s p l r.node.part with
        | none => s0
        | some seats =>
          if seatsStalled s l seats then s0
          else
          let (lk, s1) := s.takeId
          let s2 := loadPhase p g.tkey r.node.phase s1
          setRun p i { r with phase := .running lk, blocking := false }
            (commitLaunch lk (launchOfRun s p r g l) seats s2)
    | _, _ => s0

/-! ## The kinds of node (R302) -/

/-- The ranges of an OUTLIST. -/
def outputsOf (bs : List Byte) (n : Nat) : List (A80 × Nat) :=
  (List.range n).map (fun i => (addrAt bs (16 * i), leAt bs (16 * i + 10) 6))

/-- A KERNEL node: the launch record is read and checked, and the node is tried (R307). The OUTLIST is read when the
node starts, and no more for a replay (R309). -/
def kernelStep (p i : Nat) (g : Ring) (d : NodeRec) (again : Option Nat) (s : State) : State :=
  match feRead p g d.lrec 512 s with
  | (.fault c _, t) => feFail p i c feLaunch again t
  | (.bad n e, t) => feBad p i feLaunch n e t
  | (.stall, _) => s
  | (.bytes bs, t) =>
    let b := bs.map (·.1)
    let l := launchRecOf b
    let code := launchCode d.lrec b
    if l.coll != (d.part == 0#32) then failRun p i 0x10#8 0#8 t
    else if code != 0 then failRun p i (BitVec.ofNat 8 code) 0#8 t
    else if !feasible t p l d.part then failRun p i 9#8 0#8 t
    else
      let replay := match s.runAt p i with | some r => r.replays != 0 | none => false
      if replay then tryPlace p i (modRun p i (fun r => { r with lrec := some l }) t)
      else
      match if d.nout = 0 then (EngineAns.bytes [], t) else feRead p g d.outlist (16 * d.nout) t with
      | (.fault c _, t) => feFail p i c feOutputs again t
      | (.bad n e, t) => feBad p i feOutputs n e t
      | (.stall, _) => s
      | (.bytes os, t) =>
        tryPlace p i (modRun p i (fun r => { r with
          lrec := some l, outputs := outputsOf (os.map (·.1)) d.nout }) t)

/-- The pieces of a COPY, in ascending order: what is read is written before the next piece is read; the
first access that fails ends it. -/
def copyPieces (p : Nat) (g : Ring) : List (A80 × Nat) → A80 → State → EngineAns × State
  | [], _, s => (.bytes [], s)
  | (va, n) :: xs, dst, s =>
    match feRead p g va n s with
    | (.bytes bs, t) =>
      match feWrite p g dst bs t with
      | (.bytes _, t) => copyPieces p g xs (dst + BitVec.ofNat 80 n) t
      | x => x
    | x => x

/-- A node done with success, releasing references and the overflow list. -/
def succeed (p i : Nat) (refs : List Nat) (s : State) : State :=
  modRun p i (fun r => { (r.finish 0#8 0#8 0#32 0) with release := refs, listed := false }) s

/-- A COPY node (R302). -/
def copyStep (p i : Nat) (g : Ring) (d : NodeRec) (s : State) : State :=
  match copyPieces p g (piecesOf d.lrec d.value) d.args (loadPhase p g.tkey d.phase s) with
  | (.bytes _, t) => succeed p i d.succ t
  | (.fault c _, t) => failRun p i 0x12#8 c t
  | (.bad n e, t) => feBad p i feLaunch n e t
  | (.stall, _) => s

/-- A COND node (R302). -/
def condStep (p i : Nat) (g : Ring) (d : NodeRec) (again : Option Nat) (s : State) : State :=
  match feAcquire p g d.cond 4 s with
  | (.bytes bs, t) =>
    let one := if wordOf bs = 0 then 1 else 0
    succeed p i ((lget d.succ one).toList ++ d.succ.drop 2) t
  | (.fault c _, t) => feFail p i c feCond again t
  | (.bad n e, t) => feBad p i feCond n e t
  | (.stall, _) => s

/-- A WHILE node: it loops, with its live count reloaded before its successor is released, or it exits
(R302). -/
def whileStep (p i : Nat) (g : Ring) (d : NodeRec) (again : Option Nat) (s : State) : State :=
  match feAcquire p g d.cond 4 s, s.runAt p i with
  | (.bytes bs, t), some r =>
    if wordOf bs = 0 then succeed p i (d.succ.drop 1) t
    else
      ((lget d.succ 0).toList).foldl (fun s x => releaseOne p x s)
        (setLive p r.ring r.slot d.loopPreds (dropRun p i t))
  | (.fault c _, t), _ => feFail p i c feCond again t
  | (.bad n e, t), _ => feBad p i feCond n e t
  | _, _ => s

/-- A SIGNAL node (R302). -/
def signalStep (p i : Nat) (g : Ring) (d : NodeRec) (again : Option Nat) (s : State) : State :=
  match feWrite p g d.cond ((leBytes 8 d.value).map (fun b => (b, false))) s with
  | (.bytes _, t) => succeed p i d.succ t
  | (.fault c _, t) => feFail p i c feSignal again t
  | (.bad n e, t) => feBad p i feSignal n e t
  | (.stall, _) => s

/-- A WAIT node: it completes when its word is at least VALUE, unsigned (R302). -/
def waitStep (p i : Nat) (g : Ring) (d : NodeRec) (again : Option Nat) (s : State) : State :=
  match feAcquire p g d.cond 8 s with
  | (.bytes bs, t) =>
    if d.value ≤ wordOf bs then succeed p i d.succ t
    else modRun p i (fun r => { r with phase := .waitWord }) t
  | (.fault c _, t) => feFail p i c feWait again t
  | (.bad n e, t) => feBad p i feWait n e t
  | (.stall, _) => s

/-- The action of a node by its kind. -/
def nodeStep (p i : Nat) (g : Ring) (d : NodeRec) (again : Option Nat) (s : State) : State :=
  match d.kind with
  | 0 => succeed p i d.succ s
  | 1 => kernelStep p i g d again s
  | 2 => copyStep p i g d s
  | 3 => condStep p i g d again s
  | 4 => whileStep p i g d again s
  | 5 => signalStep p i g d again s
  | _ => waitStep p i g d again s

/-- A ready node of a kind starts; one of another kind is not for this event. -/
def startNode (p ring slot kind : Nat) (s : State) : State :=
  match findRun s p ring slot (· == .ready), s.ringOf p ring with
  | some i, some g =>
    let t := match s.runAt p i with
      | some r => if r.record.isSome then s else fetchCopy p i s
      | none => s
    match t.runAt p i with
    | none => t
    | some r =>
      match r.phase, r.record with
      | .ready, some d =>
        let x := nodeOf d
        if x.kind != kind || (kind == 1 && untriedAhead s p i x) then s else nodeStep p i g x none t
      | _, _ => t
  | _, _ => s

/-- NOP_NODE (R302). -/
def execNopNode (pkg ring slot : Nat) (s : State) : Host.Outcome State Fault Refusal := .next (startNode pkg ring slot 0 s)

/-- KERNEL_NODE (R307). -/
def execKernelNode (pkg ring slot : Nat) (s : State) : Host.Outcome State Fault Refusal := .next (startNode pkg ring slot 1 s)

/-- COPY_NODE (R302). -/
def execCopyNode (pkg ring slot : Nat) (s : State) : Host.Outcome State Fault Refusal := .next (startNode pkg ring slot 2 s)

/-- COND_NODE (R302). -/
def execCondNode (pkg ring slot : Nat) (s : State) : Host.Outcome State Fault Refusal := .next (startNode pkg ring slot 3 s)

/-- WHILE_NODE (R302). -/
def execWhileNode (pkg ring slot : Nat) (s : State) : Host.Outcome State Fault Refusal := .next (startNode pkg ring slot 4 s)

/-- SIGNAL_NODE (R302). -/
def execSignalNode (pkg ring slot : Nat) (s : State) : Host.Outcome State Fault Refusal := .next (startNode pkg ring slot 5 s)

/-- WAIT_NODE (R302). -/
def execWaitNode (pkg ring slot : Nat) (s : State) : Host.Outcome State Fault Refusal := .next (startNode pkg ring slot 6 s)

/-- WAIT_NODE_REREAD: a WAIT node reads its word again (R302). -/
def execWaitNodeReread (pkg ring slot : Nat) (s : State) : Host.Outcome State Fault Refusal :=
  match findRun s pkg ring slot (· == .waitWord), s.ringOf pkg ring with
  | some i, some g =>
    match s.runAt pkg i with
    | some r => .next (waitStep pkg i g r.node none s)
    | none => .next s
  | _, _ => .next s

/-- LAUNCH_RETRY: a node that waits is tried again (R24). -/
def execLaunchRetry (pkg ring slot : Nat) (s : State) : Host.Outcome State Fault Refusal :=
  match findRun s pkg ring slot (· == .waitPlace) with
  | some i => .next (tryPlace pkg i s)
  | none => .next s

/-- LAUNCH_WAIT_EXPIRY: a node has waited 1 ms (R306). -/
def execLaunchWaitExpiry (pkg ring slot : Nat) (s : State) : Host.Outcome State Fault Refusal :=
  match findRun s pkg ring slot (· == .waitPlace) with
  | some i => .next (modRun pkg i (fun r => { r with blocking := true }) s)
  | none => .next s

/-! ## Doorbells and prefetches (R296, R299, R300) -/

/-- A doorbell: dropped and counted when it is malformed; else REFETCH acts, then START (R296). -/
def doorbell (p ring : Nat) (v : BitVec 64) (s : State) : State :=
  let slot := (fieldOf v 0 16).toNat
  match s.ringOf p ring with
  | none => countDie 0x43 1 p 0 s
  | some r =>
    if fieldOf v 18 46 != 0#46 || 2 ^ r.logSlots ≤ slot then countDie 0x43 1 p 0 s
    else
      let s1 := if v.getLsbD 17 then modRing p ring (fun x => { x with prefetched := [], torn := [] }) s else s
      if v.getLsbD 16 then addRun p (freshRun ring slot .ready) s1 else s1

/-- The first doorbell of the package's own stores that is this one reaches BAR0 (R296). -/
def takeBell (p ring : Nat) (v : BitVec 64) (s : State) : State :=
  s.modPkg p (fun x => { x with bells := x.bells.erase (ring, v) })

/-- DOORBELL_START (R296). -/
def execDoorbellStart (pkg ring : Nat) (value : BitVec 64) (s : State) : Host.Outcome State Fault Refusal :=
  .next (doorbell pkg ring value (takeBell pkg ring value s))

/-- DOORBELL_REFETCH (R296). -/
def execDoorbellRefetch (pkg ring : Nat) (value : BitVec 64) (s : State) : Host.Outcome State Fault Refusal :=
  .next (doorbell pkg ring value (takeBell pkg ring value s))

/-- A record read for a prefetch: a valid copy joins the 32 that a ring may hold, a torn one is read again, and at the
limit the node completes (R299, R300; log 14). -/
def prefetchRecord (p ring slot tries : Nat) (s : State) : State :=
  match s.ringOf p ring with
  | none => s
  | some r =>
    if 2 ^ r.logSlots ≤ slot || (32 ≤ r.prefetched.length && (tget r.prefetched slot).isNone) then s
    else
      let still (f : Ring → Ring) (s : State) : State := modRing p ring (fun x => f { x with torn := tdel x.torn slot }) s
      match readRecord p ring slot s with
      | (.copy d, t) => still (fun x => { x with prefetched := tput x.prefetched slot d }) t
      | (.torn d, t) =>
        if 1024 ≤ tries + 1 then
          addRun p { ((freshRun ring slot .ready).finish 0x11#8 0#8 0#32 0) with record := some d, listed := true } (still id t)
        else still (fun x => { x with torn := tput x.torn slot (tries + 1) }) t
      | (.fault _, t) => still id t
      | (.bad n d, t) => still id (countError 12 1 n d t)
      | (.stall, t) => t

/-- RECORD_PREFETCH (R299, R300). -/
def execRecordPrefetch (pkg ring slot : Nat) (s : State) : Host.Outcome State Fault Refusal :=
  .next (prefetchRecord pkg ring slot 0 s)

/-- RECORD_REREAD: a record whose copy was torn is read again, for a run or for a prefetch (R299). -/
def execRecordReread (pkg ring slot : Nat) (s : State) : Host.Outcome State Fault Refusal :=
  match findRun s pkg ring slot (fun ph => match ph with | .reread _ | .loading _ => true | _ => false) with
  | none =>
    match (s.ringOf pkg ring).bind (fun r => tget r.torn slot) with
    | some n => .next (prefetchRecord pkg ring slot n s)
    | none => .next s
  | some i =>
    match (s.runAt pkg i).map (fun (r : NodeRun) => r.phase) with
    | some (.reread n) => .next (readForStart pkg i n none s)
    | some (.loading n) => .next (loadCount pkg ring slot n (some i) none s)
    | _ => .next s

/-! ## Completion (R301, R303 to R305) -/

/-- The completion word (R304). -/
def completionWord (r : NodeRun) : Nat :=
  r.status.toNat + 2 ^ 8 * r.cause.toNat + 2 ^ 16 * r.replays + 2 ^ 32 * r.detail.toNat + 2 ^ 64 * r.team

/-- The references of an overflow list. -/
def refsOf (bs : List Byte) (n : Nat) : List Nat := (List.range n).map (fun i => leAt bs (4 * i) 4 % 2 ^ 22)

/-- The completion word written, the successors released and the run gone (R303). -/
def settleRun (p i : Nat) (again : Option Nat) (s : State) : State :=
  match s.runAt p i with
  | none => s
  | some r =>
    match s.ringOf p r.ring with
    | none => dropRun p i s
    | some g =>
      let wrote := if r.written then some s
        else
          match feWrite p g r.node.compl ((leBytes 16 (completionWord r)).map (fun b => (b, false))) s with
          | (.bytes _, t) => some (setRun p i { r with written := true } t)
          | (.fault c _, t) => some (feFail p i c feCompletion again t)
          | (.bad n d, t) => some (feBad p i feCompletion n d t)
          | (.stall, _) => none
      match wrote with
      | none => s
      | some t =>
        match t.runAt p i with
        | some x =>
          if x.written then x.release.foldl (fun s ref => releaseOne p ref s) (dropRun p i t) else t
        | none => t

/-- A run that is done: its overflow list is read, then it settles. -/
def completeRun (p i : Nat) (again : Option Nat) (s : State) : State :=
  match s.runAt p i with
  | none => s
  | some r =>
    match s.ringOf p r.ring with
    | none => dropRun p i s
    | some g =>
      let d := r.node
      if r.listed then settleRun p i again s
      else if r.status != 0#8 then
        settleRun p i again (setRun p i { r with listed := true, release := [] } s)
      else
        let refs := if d.kind = 1 then d.succ else r.release
        match if d.novfl = 0 then (EngineAns.bytes [], s) else feRead p g d.ovfl (4 * d.novfl) s with
        | (.bytes bs, t) =>
          settleRun p i again
            (setRun p i { r with listed := true, release := refs ++ refsOf (bs.map (·.1)) d.novfl } t)
        | (.fault c _, t) => feFail p i c feOverflow again t
        | (.bad n e, t) => feBad p i feOverflow n e t
        | (.stall, _) => s

/-- NODE_COMPLETE (R303). -/
def execNodeComplete (pkg ring slot : Nat) (s : State) : Host.Outcome State Fault Refusal :=
  match findRun s pkg ring slot (· == .done) with
  | some i => .next (completeRun pkg i none s)
  | none => .next s

/-- Firmware's answer to a page fault of the front end: the access is made once more (R506). -/
def feService (p i : Nat) (s : State) : State :=
  match s.runAt p i with
  | none => s
  | some r =>
    match r.phase with
    | .waitFault _ what tries =>
      let again := some what
      if what = feRecord then readForStart p i tries again s
      else if what = feCount then loadCount p r.ring r.slot tries (some i) again s
      else if what = feOverflow || what = feCompletion then
        completeRun p i again (setRun p i { r with phase := .done } s)
      else
        match s.ringOf p r.ring with
        | some g => nodeStep p i g r.node again (setRun p i { r with phase := .ready } s)
        | none => s
    | _ => s

/-! ## Squall replay (R229, R309) -/

/-- Whether a line of a cache meets a range of bytes. -/
def lineMeets (tag lo hi : Nat) : Bool := lo < 128 * (tag + 1) && 128 * tag < hi

/-- What the level behind a cached line holds is what memory is left with: bytes and the poison of their words. -/
def restoreLine (x : CacheLine) (s : State) : State :=
  match x.behind with
  | none => s
  | some b =>
    let k := 128 * x.tag
    (List.range 32).foldl (fun t j => setWordPoison (k + 4 * j) (b.2.getLsbD j) t)
      { s with mem := mputs s.mem k ((List.range 128).map (fun i => fieldOf b.1 (8 * i) 8)) }

/-- The cached lines of a range of a package's memory dropped without write-back: what the L2 slices and then the
segments kept from memory is lost (R309 step 3). -/
def dropCached (p lo hi : Nat) (s : State) : State :=
  let drops (t : Tbl CacheLine) (s : State) : State :=
    (t.filter (fun e => e.2.behind.isSome && lineMeets e.2.tag lo hi)).foldl (fun s e => restoreLine e.2 s) s
  let s0 := drops (s.pkg p).segLines (drops (s.pkg p).l2Lines s)
  let s1 := { s0 with
    cores := s0.cores.map (fun (c : Nat × Core) =>
      if pkgOf c.1 = p then (c.1, { c.2 with l1 := c.2.l1.filter (fun e => !lineMeets e.2.tag lo hi) }) else c) }
  s1.modPkg p (fun x => { x with
    l2Lines := x.l2Lines.filter (fun e => !lineMeets e.2.tag lo hi)
    segLines := x.segLines.filter (fun e => !lineMeets e.2.tag lo hi) })

/-- The pages of a range of addresses. -/
def rangePages (r : A80 × Nat) : List Nat :=
  let lo := r.1.toNat
  if r.2 = 0 then [] else span (lo / 2 ^ 16) ((lo + r.2 - 1) / 2 ^ 16 - lo / 2 ^ 16 + 1)

/-- Whether a page of a range lies in a MIGRATING region, or its walk meets one: the access waits (R289). -/
def rangeStalled (s : State) (p root : Nat) (r : A80 × Nat) : Bool :=
  (rangePages r).any (fun n => match walk s p root (2 ^ 16 * n) with
    | .leaf e big => leafPlace s p e big (2 ^ 16 * n) == .stall
    | .stall => true
    | _ => false)

/-- The cached lines of a range of addresses dropped, page by page. -/
def dropRange (p root : Nat) (r : A80 × Nat) (s : State) : State :=
  let lo := r.1.toNat
  let hi := lo + r.2
  (rangePages r).foldl (fun s n =>
    match walk s p root (2 ^ 16 * n) with
    | .leaf e big =>
      match leafPlace s p e big (2 ^ 16 * n) with
      | .ok q => dropCached p (q.key + (lo - 2 ^ 16 * n)) (q.key + min (hi - 2 ^ 16 * n) (2 ^ 16)) s
      | _ => s
    | _ => s) s

/-- A replayed node launched again under R307, from the check of its launch record (R309 step 5). -/
def relaunch (p i : Nat) (s : State) : State :=
  match s.runAt p i with
  | none => s
  | some r =>
    match s.ringOf p r.ring with
    | some g => kernelStep p i g r.node none s
    | none => s

/-- SQUALL_REPLAY: firmware stops the launch, and once what its teams issued has completed it drops the
cached lines of the declared outputs and relaunches the node (R229, R309). -/
def execSquallReplay (launch : Nat) (s : State) : Host.Outcome State Fault Refusal :=
  let l := s.launch launch
  if l.ending.isNone || !l.replaying || l.finished || 3 ≤ launchReplays s launch then .next s
  else
    let ts := (s.teamsOf launch).filter (fun t => (s.team t).run == .running || (s.team t).run == .preempted)
    let s1 := ts.foldl (fun s t => stopWarps t s) s
    let out := ts.any (fun t => engineWork s1 t || (s1.teamWarps t).any (fun k =>
      !(s1.warp k).pend.isEmpty || !(s1.warp k).acks.isEmpty))
    if out || l.outputs.any (rangeStalled s1 l.pkg l.root) || ts.any (freeStalled s1) then .next s1
    else
      let s2 := l.outputs.foldl (fun s r => dropRange l.pkg l.root r s) s1
      let s3 := ts.foldl (fun s t => endOne t (closeChannels t s)) s2
      let s4 := countDie 0x46 1 l.pkg 0 ((clearPins launch s3).modLaunch launch (fun x => { x with finished := true }))
      match (runsWhere s4 l.pkg (fun _ r => r.phase == .running launch)).head? with
      | some i => .next (relaunch l.pkg i (modRun l.pkg i (fun r => { r with replays := r.replays + 1, phase := .ready }) (retryResumes l.pkg s4)))
      | none => .next (retryResumes l.pkg s4)

end Sys2Proof.Machine
end

