-- ==== Sys2Proof/Machine/Commands.lean ====
section
/-!
DEFINITION. Machine/Commands.lean: the host's commands, firmware update, BAR2, the withdrawal of slices and
cores, and device reset (R4, R287 to R291, R295, R308, R310 to R316, R485, R487, R490).
-/

namespace Sys2Proof.Machine

open Sys2Proof

/-! ## Completions (R316) -/

/-- The statuses of a command. -/
def cmdDone : Nat := 0
def cmdBadOpcode : Nat := 1
def cmdBadParameter : Nat := 2
def cmdRefused : Nat := 3
def cmdSignature : Nat := 4

/-- The firmware of a complex. -/
def Package.fw (x : Package) (c : Nat) : Firmware := (tget x.firmware c).getD { image := 0, secVersion := 0, cycles := 0#64 }

/-- The completion of a command; the spec says neither how its phase bit turns nor what its result holds, which are free
(log 27). -/
def answer (p tag status : Nat) (s : State) : State :=
  s.modPkg p (fun x => { x with
    completions := x.completions ++
      [{ tag := tag, status := status, phase := Config.completionPhase x.done, result := Config.completionResult x.done (x.fw 0).cycles.toNat (x.fw 1).cycles.toNat }]
    done := x.done + 1 })

/-- The 16 bytes of a completion: TAG, status, the phase in bit 0 of byte 3, the result (R316). -/
def CmdDone.bytes (c : CmdDone) : List Byte :=
  leBytes 2 c.tag ++ leBytes 1 c.status ++ leBytes 1 (if c.phase then 1 else 0) ++ leBytes 12 c.result

/-- The place of a bus address, through die 0's port (KIND 3). -/
def busPlace (a : Nat) : Place := { key := gkey 0 3 (a % 2 ^ 56), port := 0, poa := false, far := false }

/-! ## Rings (R295) -/

/-- Whether a node of a ring runs. -/
def ringBusy (s : State) (p ring : Nat) : Bool := (s.pkg p).runs.any (·.ring == ring)

/-- RING_BIND: the ring's binding, with every live count unloaded (R295, R301). -/
def execRingBind (pkg tag ring : Nat) (base : A80) (k : Nat) (root : BitVec 56) (asn : Nat) (tkey : BitVec 8)
    (s : State) : Host.Outcome State Fault Refusal :=
  if 64 ≤ ring || k < 4 || 16 < k || base.toNat % 256 != 0 || root.toNat % 2 ^ 16 != 0 || 2 ^ 39 ≤ root.toNat then
    .next (answer pkg tag cmdBadParameter s)
  else if ringBusy s pkg ring then .next (answer pkg tag cmdRefused s)
  else
    let r : Ring := { base := base, logSlots := k, root := root.toNat, asn := asn, tkey := tkey, live := [], prefetched := [], torn := [] }
    .next (answer pkg tag cmdDone (s.modPkg pkg (fun x => { x with rings := tput x.rings ring r })))

/-- RING_UNBIND: refused while a node of the ring runs (R316). -/
def execRingUnbind (pkg tag ring : Nat) (s : State) : Host.Outcome State Fault Refusal :=
  if (s.ringOf pkg ring).isNone then .next (answer pkg tag cmdBadParameter s)
  else if ringBusy s pkg ring then .next (answer pkg tag cmdRefused s)
  else .next (answer pkg tag cmdDone (s.modPkg pkg (fun x => { x with rings := tdel x.rings ring })))

/-! ## Invalidation (R287) -/

/-- Whether a TLB entry is not of a range of an address space. -/
def keepTlb (asn : Nat) (all : Bool) (lo hi : Nat) (e : TlbEntry) : Bool :=
  let n := if e.big then 2 ^ 29 else 2 ^ 16
  e.asn != asn || !(all || (lo ≤ e.page * n + (n - 1) && e.page * n ≤ hi))

/-- INVALIDATE: the translations of an address space, or of a range of it from lo to hi, are gone from
every TLB (R287). -/
def execInvalidate (pkg tag asn : Nat) (all : Bool) (lo hi : Nat) (s : State) : Host.Outcome State Fault Refusal :=
  let s1 := { s with
    cores := s.cores.map (fun (c : Nat × Core) =>
      if pkgOf c.1 = pkg then (c.1, { c.2 with tlb := c.2.tlb.filter (keepTlb asn all lo hi) }) else c)
    warps := s.warps.map (fun (w : Nat × Warp) =>
      if pkgOf (coreOf w.1) = pkg && (s.launchOf w.2.team).asn = asn then (w.1, w.2.forgetWalks) else w) }
  let drop (t : Tbl (List TlbEntry)) : Tbl (List TlbEntry) :=
    t.map (fun (c : Nat × List TlbEntry) => (c.1, c.2.filter (keepTlb asn all lo hi)))
  .next (answer pkg tag cmdDone (s1.modPkg pkg (fun x => { x with clusterTlb := drop x.clusterTlb })))

/-! ## Partitions, grants and tables (R290, R291, R308) -/

/-- PARTITION: the cores of the mask move into the partition; refused while a team is resident on one that
would move (R308). -/
def execPartition (pkg tag die part : Nat) (mask : BitVec 160) (s : State) : Host.Outcome State Fault Refusal :=
  if 2 ≤ die || 15 ≤ part then .next (answer pkg tag cmdBadParameter s)
  else
    let x := s.pkg pkg
    let moves := mask &&& ~~~x.userPart die part
    let busy := s.teams.any (fun t => t.2.run == .running && t.2.core / 160 == 2 * pkg + die && moves.getLsbD (t.2.core % 160))
    if busy then .next (answer pkg tag cmdRefused s)
    else
      let parts := (List.range 15).foldl (fun t q =>
        let m := x.userPart die q
        tput t (16 * die + q) (if q = part then m ||| mask else m &&& ~~~mask)) x.partitions
      .next (answer pkg tag cmdDone (s.modPkg pkg (fun y => { y with partitions := parts })))

/-- COLL_SIZE (R308). -/
def execCollSize (pkg tag n : Nat) (s : State) : Host.Outcome State Fault Refusal :=
  if 16 < n then .next (answer pkg tag cmdBadParameter s)
  else .next (answer pkg tag cmdDone (s.modPkg pkg (fun x => { x with collSize := n })))

/-- RESIDENCY_WRITE: an entry of a die's table, its reserved bits zero; a sweep is due (R291, R294). -/
def execResidencyWrite (pkg tag die entry : Nat) (value : BitVec 128) (s : State) : Host.Outcome State Fault Refusal :=
  let v := value &&& ~~~(0x7FFFE#128)
  if 2 ≤ die || 1024 ≤ entry || 2 < (fieldOf v 45 3).toNat then .next (answer pkg tag cmdBadParameter s)
  else .next (answer pkg tag cmdDone (s.modPkg pkg (fun x => { x with
    residency := tput x.residency (1024 * die + entry) v, sweepDue := tput x.sweepDue die true })))

/-- The number of ports of a set. -/
def portCount (m : BitVec 4) : Nat := ((List.range 4).filter (fun i => m.getLsbD i)).length

/-- The promotion-table entries of a package at slices that satisfy f promoted, each with its slice. -/
def promoteWhere (p : Nat) (f : Nat → Promo → Bool) (s : State) : State :=
  ((s.pkg p).promos.flatMap (fun t => (t.2.filter (f t.1)).map (fun e => (t.1, e)))).foldl
    (fun s x => promote p x.1 x.2 s) s

/-- The copies in L2 slices and segments of lines that satisfy f gone; memory holds them (R289 step 3). -/
def dropLinesWhere (p : Nat) (f : Nat → Bool) (s : State) : State :=
  s.modPkg p (fun x => { x with
    l2Lines := x.l2Lines.filter (fun e => !f e.2.tag), segLines := x.segLines.filter (fun e => !f e.2.tag) })

/-- A window of a die written: the promotion-table entries of the lines that change their home are promoted, and the copies
of those lines leave the old slice and segment (R2, R290, R366). -/
def setCxlWindow (p n : Nat) (w : CxlWindow) (s : State) : State :=
  let t := s.modPkg p (fun x => { x with cxlWindows := tput x.cxlWindows n w })
  let changes (tag : Nat) : Bool :=
    keyKind (128 * tag) == 2 && keyPkg (128 * tag) == p && homeOf s (128 * tag) != homeOf t (128 * tag)
  (dropLinesWhere p changes (promoteWhere p (fun _ e => changes e.line) s)).modPkg p (fun x => { x with
    cxlWindows := tput x.cxlWindows n w })

/-- CXL_WINDOW (R290). -/
def execCxlWindow (pkg tag die window base size : Nat) (ports : BitVec 4) (s : State) : Host.Outcome State Fault Refusal :=
  let n := portCount ports
  if 2 ≤ die || 16 ≤ window || base % 2 ^ 29 != 0 || size % 2 ^ 29 != 0 || 2 ^ 55 < base + size || (n != 1 && n != 2 && n != 4) then
    .next (answer pkg tag cmdBadParameter s)
  else .next (answer pkg tag cmdDone (setCxlWindow pkg (16 * die + window) { base := base, size := size, ports := ports } s))

/-- STEER_GRANT (R308). -/
def execSteerGrant (pkg tag tkey : Nat) (grant : Bool) (s : State) : Host.Outcome State Fault Refusal :=
  if 256 ≤ tkey then .next (answer pkg tag cmdBadParameter s)
  else .next (answer pkg tag cmdDone (s.modPkg pkg (fun x => { x with grants := setBit x.grants tkey grant })))

/-! ## Firmware (R310 to R312) -/

/-- FW_UPDATE: the standby complex reads and verifies an image and boots it; the takeover waits for a Lull
point (R311 steps 1 to 3; log 10). -/
def execFwUpdate (pkg tag addr len : Nat) (s : State) : Host.Outcome State Fault Refusal :=
  let (cs, s) := busTake pkg (busPlace addr) len s
  let bs := cs.map (·.1)
  if !Config.imageVerifies bs then .next (answer pkg tag cmdSignature s)
  else if Config.imageVersion bs < Config.minVersion || !Config.imageAccepts bs || (s.pkg pkg).fwPending.isSome then
    .next (answer pkg tag cmdRefused s)
  else .next (s.modPkg pkg (fun x => { x with fwPending := some (tag, leValue bs, Config.imageVersion bs) }))

/-- Whether the front end stands between two records: none is being read, started or completed, or waits for a mapping in
between (R311). A node that waits for its place, for a word or for its launch is none of these. -/
def lullPoint (s : State) (p : Nat) : Bool :=
  (s.pkg p).rings.all (fun r => r.2.torn.isEmpty) &&
  (s.pkg p).runs.all (fun r => match r.phase with
    | .ready => r.record.isNone
    | .waitPlace | .running _ | .waitWord => true
    | .reread _ | .loading _ | .waitFault _ _ _ | .done => false)

/-- LULL_TAKEOVER: the standby complex becomes active with the active one's state table (R311). -/
def execLullTakeover (pkg : Nat) (s : State) : Host.Outcome State Fault Refusal :=
  match (s.pkg pkg).fwPending with
  | none => .next s
  | some (tag, image, version) =>
    if !lullPoint s pkg then .next s
    else .next (answer pkg tag cmdDone (s.modPkg pkg (fun x => { x with
      firmware := tput x.firmware (1 - x.activeFw) { x.fw (1 - x.activeFw) with image := image, secVersion := version }
      activeFw := 1 - x.activeFw, fwPending := none })))

/-- ATTEST: the report, written at its address (R312; log 10). -/
def execAttest (pkg tag : Nat) (nonce : BitVec 256) (addr : Nat) (s : State) : Host.Outcome State Fault Refusal :=
  let f := (s.pkg pkg).fw (s.pkg pkg).activeFw
  .next (answer pkg tag cmdDone (busPost pkg (busPlace addr) (Config.attestReport f.image f.secVersion nonce) s))

/-! ## The debugger, notifications and BAR2 -/

/-- BREAK_RESUME: a warp parked by a BREAKPOINT goes on after its BRK (R212, R316). -/
def execBreakResume (pkg tag team warpid : Nat) (s : State) : Host.Outcome State Fault Refusal :=
  match (s.teamWarps team).find? (fun k => (s.warp k).warpid == warpid) with
  | none => .next (answer pkg tag cmdBadParameter s)
  | some k =>
    if pkgOf (coreOf k) != pkg then .next (answer pkg tag cmdBadParameter s)
    else if (s.warp k).park != .breakpoint then .next (answer pkg tag cmdRefused s)
    else
      .next (answer pkg tag cmdDone (settle k (s.modWarp k (fun w =>
        { w.resumeAfter w.trapEntry (fieldOf w.trapPc 0 32) with park := .no }))))

/-- NOTIFY_QUEUE (R316). -/
def execNotifyQueue (pkg tag base size : Nat) (s : State) : Host.Outcome State Fault Refusal :=
  .next (answer pkg tag cmdDone (s.modPkg pkg (fun x => { x with notifyQueue := some (base, size) })))

/-- Requests through BAR2 served in order, up to one that meets a MIGRATING region: it and those behind it wait (R289,
R490). Each reaches the home slices of its lines under tenant key 0, with what a read finds in error resolved (R88, R293,
R314; log 26). -/
def serveInbound (p : Nat) : List (Bool × List (Nat × Nat) × List Byte) → State → State
  | [], s => s.modPkg p (fun y => { y with inbound := [] })
  | (write, ps, data) :: rest, s =>
    if ps.any (fun q => regionIs s q.1 .migrating) then
      s.modPkg p (fun y => { y with inbound := (write, ps, data) :: rest })
    else if write then
      serveInbound p rest ((ps.foldl (fun (a : State × List Byte) q =>
        (homeStore q.1 (a.2.take q.2) (touchHome q.1 0#8 a.1), a.2.drop q.2)) (s, data)).1)
    else
      let (bs, t) := ps.foldl (fun (a : List (Byte × Bool) × State) q =>
        let (b, t) := keyRead q.1 q.2 a.2
        (a.1 ++ b, t)) ([], s)
      serveInbound p rest (t.modPkg p (fun y => { y with reads := y.reads ++ [(bs.map (·.1), bs.any (·.2))] }))

/-- Whether a window base suits a BAR2 of B bytes (R314). -/
def wbaseOk (b w : Nat) : Bool := w % (b / 2) == 0 && w + b / 2 ≤ 2 ^ 38

/-- BAR2_WINDOW (R314, R316). -/
def execBar2Window (pkg tag wbase0 wbase1 : Nat) (s : State) : Host.Outcome State Fault Refusal :=
  let b := (s.pkg pkg).bar2Size
  if wbaseOk b wbase0 && wbaseOk b wbase1 then
    .next (answer pkg tag cmdDone (s.modPkg pkg (fun x => { x with wbase0 := wbase0, wbase1 := wbase1 })))
  else .next (answer pkg tag cmdRefused s)

/-- RESIZABLE_BAR_SIZE_WRITE: B becomes 2 to the power logSize; a base that B no longer allows becomes 0
(R314; log 16). -/
def execResizableBarSizeWrite (pkg logSize : Nat) (s : State) : Host.Outcome State Fault Refusal :=
  if logSize < 34 || 39 < logSize then .next s
  else
    let b := 2 ^ logSize
    .next (s.modPkg pkg (fun x => { x with
      bar2Size := b
      wbase0 := if wbaseOk b x.wbase0 then x.wbase0 else 0
      wbase1 := if wbaseOk b x.wbase1 then x.wbase1 else 0 }))

/-- COMMAND_BAD_OPCODE (R316). -/
def execCommandBadOpcode (pkg tag : Nat) (opcode : BitVec 16) (s : State) : Host.Outcome State Fault Refusal :=
  if 1 ≤ opcode.toNat && opcode.toNat ≤ 0x0D then .next s else .next (answer pkg tag cmdBadOpcode s)

/-- REGISTER_WRITE_IGNORED: a host write to a register that it cannot write has no effect (R485); one to the doorbell pages,
of another width or offset than a doorbell's, is dropped and counted (R296); one elsewhere leaves its bytes in the command
queue registers (R313, R315; log 40). -/
def execRegisterWriteIgnored (pkg offset : Nat) (value : BitVec 64) (s : State) : Host.Outcome State Fault Refusal :=
  .next (if 0x80000 ≤ offset && offset < 0xC0000 then countDie 0x43 1 pkg 0 s else bar0Write pkg offset (leBytes 8 value.toNat) s)

/-- A host command of 64 bytes: what it asks for, or the status it completes with at once. Which bytes hold which parameter
the spec does not say (R316; log 27). -/
def commandOf (p : Nat) (bs : List Byte) : Except Nat Instr :=
  let op := leAt bs 0 2
  let tag := leAt bs 2 2
  let ps := Config.commandParams op (bs.drop 8)
  let n (i : Nat) : Nat := (lget ps i).getD 0
  if op = 0 || 13 < op then .ok (.commandBadOpcode p tag (BitVec.ofNat 16 op))
  else if leAt bs 4 4 != 0 then .error cmdBadParameter
  else .ok (match op with
    | 1 => .ringBind p tag (n 0) (BitVec.ofNat 80 (n 1)) (n 2) (BitVec.ofNat 56 (n 3)) (n 4) (BitVec.ofNat 8 (n 5))
    | 2 => .ringUnbind p tag (n 0)
    | 3 => .invalidate p tag (n 0) (n 1 != 0) (n 2) (n 3)
    | 4 => .partition p tag (n 0) (n 1) (BitVec.ofNat 160 (n 2))
    | 5 => .collSize p tag (n 0)
    | 6 => .residencyWrite p tag (n 0) (n 1) (BitVec.ofNat 128 (n 2))
    | 7 => .cxlWindow p tag (n 0) (n 1) (n 2) (n 3) (BitVec.ofNat 4 (n 4))
    | 8 => .steerGrant p tag (n 0) (n 1 != 0)
    | 9 => .fwUpdate p tag (n 0) (n 1)
    | 10 => .attest p tag (BitVec.ofNat 256 (n 0)) (n 1)
    | 11 => .breakResume p tag (n 0) (n 1)
    | 12 => .notifyQueue p tag (n 0) (n 1)
    | _ => .bar2Window p tag (n 0) (n 1))

/-- A command that completes at once for its form (R316). -/
def refuseCommand (p : Nat) (bs : List Byte) (status : Nat) (s : State) : State := answer p (leAt bs 2 2) status s

/-- BAR2_REQUEST: bytes written at the home slices of their lines, or read there, as many as data has, in the order of the
requests (R314, R490). A read's completion holds its bytes, poisoned when a byte of it is or its region is UNBACKED. -/
def execBar2Request (pkg : Nat) (write : Bool) (offset : Nat) (data : List Byte) (s : State) :
    Host.Outcome State Fault Refusal :=
  let x := s.pkg pkg
  if x.bar2Size < offset + data.length then .next s
  else
    let ps := (piecesOf (BitVec.ofNat 80 offset) data.length).map (fun q => (bar2Key x pkg q.1.toNat, q.2))
    .next (serveInbound pkg (x.inbound ++ [(write, ps, data)]) s)

/-- PCIE_LINK_DOWN: the other port carries the traffic of a port whose link is down (R4). -/
def execPcieLinkDown (pkg die : Nat) (s : State) : Host.Outcome State Fault Refusal :=
  if 2 ≤ die then .fault .absentUnit
  else .next (s.modPkg pkg (fun x => { x with linksDown := tput x.linksDown die true }))

/-- PCIE_LINK_UP (R4). -/
def execPcieLinkUp (pkg die : Nat) (s : State) : Host.Outcome State Fault Refusal :=
  if 2 ≤ die then .fault .absentUnit
  else .next (s.modPkg pkg (fun x => { x with linksDown := tdel x.linksDown die }))

/-! ## Capacity (R487) -/

/-- The capacity record of a die. -/
def capacityOf (s : State) (p d : Nat) : BitVec 512 :=
  let x := s.pkg p
  let m := x.dieMap d
  let lost := (s.cores.filter (fun c => c.1 / 160 == 2 * p + d && c.2.withdrawn)).length
  let n := m.list.length
  let cxl := (List.range 4).foldl (fun a q => a + (m.cxlList q).length) 0
  capacityRecord (160 - lost) n cxl ((tget x.stations d).getD 9)

/-- Firmware rewrites the capacity record and then notifies the host. -/
def rewriteCapacity (p d : Nat) (s : State) : State :=
  notify p (.capacity d) (s.modPkg p (fun x => { x with capacity := tput x.capacity d (capacityOf s p d) }))

/-- CORE_DRAIN: a core on which no team is resident is withdrawn (R487). -/
def execCoreDrain (core : Nat) (s : State) : Host.Outcome State Fault Refusal :=
  if s.teams.any (fun t => t.2.core == core && t.2.run == .running) || (s.core core).withdrawn then .next s
  else .next (rewriteCapacity (pkgOf core) (dieOf core) (s.modCore core (fun c => { c with withdrawn := true })))

/-! ## Withdrawal of slices (R289, R290) -/

/-- The map that is not in force becomes a list. -/
def DieMap.other (m : DieMap) (l : List Nat) : DieMap := if m.useB then { m with mapA := l } else { m with mapB := l }

/-- The state of a region that has moved to the map not in force. -/
def DieMap.moved (m : DieMap) : RegionState := if m.useB then .mapA else .mapB

def modDie (p d : Nat) (f : DieMap → DieMap) (s : State) : State :=
  s.modPkg p (fun x => { x with dies := tput x.dies d (f (x.dieMap d)) })

/-- Whether a line lies in a region of a die's HBM. -/
def lineInRegion (p d q tag : Nat) : Bool :=
  let k := 128 * tag
  keyPkg k == p && keyKind k == d && keyAddr k / 2 ^ 29 == q

/-- Every dirty cached line of a region of a die written back: in the L1s of the package's cores, and in its L2 slices and
segments, which keep it clean (R289 step 3). -/
def cleanRegion (p d q : Nat) (s : State) : State :=
  let clean (x : CacheLine) : CacheLine := if lineInRegion p d q x.tag then { x with behind := none } else x
  let s1 := (s.cores.filter (fun c => pkgOf c.1 == p)).foldl (fun s c =>
    c.2.l1.foldl (fun t e =>
      if e.2.dirty = 0#128 || !lineInRegion p d q e.2.tag then t
      else (writeBack c.1 e.2 t).modCore c.1 (fun y => { y with l1 := tput y.l1 e.1 { e.2 with dirty := 0#128 } })) s) s
  s1.modPkg p (fun x => { x with
    l2Lines := x.l2Lines.map (fun e => (e.1, clean e.2)), segLines := x.segLines.map (fun e => (e.1, clean e.2)) })

/-- A region done: its dirty lines are written back, the entries of lines whose home changes are promoted, their copies
move, the region takes the new map, and the requests through BAR2 that waited for it go on (R289 step 3, R490). -/
def finishRegion (p d q : Nat) (s : State) : State :=
  let m := (s.pkg p).dieMap d
  let old := m.moved
  let home (r : RegionState) (tag : Nat) : Option Nat :=
    ({ m with regions := tput m.regions q r }).home (keyAddr (128 * tag))
  let changes (tag : Nat) : Bool := lineInRegion p d q tag && home .migrating tag != home old tag
  let s1 := promoteWhere p (fun _ e => changes e.line) (cleanRegion p d q s)
  let s2 := modDie p d (fun m => { m with regions := tput m.regions q old }) (dropLinesWhere p changes s1)
  serveInbound p (s2.pkg p).inbound s2

/-- The last step of a withdrawal (R289 step 4). -/
def finishWithdrawal (p d slice : Nat) (s : State) : State :=
  let n := ((s.pkg p).dieMap d).list.length
  let s1 := promoteWhere p (fun h _ => h == 288 * d + slice) s
  let s2 := dropLinesWhere p (fun tag => lineInRegion p d (2 * n - 2) tag || lineInRegion p d (2 * n - 1) tag) s1
  let s3 := modDie p d (fun m => { m with
    useB := !m.useB
    regions := tput (tput (m.regions.filter (fun r => r.2 == .unbacked)) (2 * n - 2) .unbacked) (2 * n - 1) .unbacked
    withdrawing := none }) s2
  rewriteCapacity p d s3

/-- The region that migrates. -/
def DieMap.current (m : DieMap) : Option Nat := (m.regions.find? (fun r => r.2 == .migrating)).map (·.1)

/-- HBM_SLICE_WITHDRAW: a degraded slice's withdrawal begins with the request to vacate the last two
regions; after the vacation each such step finishes the migrating region and begins the next, or ends the
withdrawal (R289). -/
def execHbmSliceWithdraw (pkg die slice : Nat) (s : State) : Host.Outcome State Fault Refusal :=
  if 2 ≤ die || 256 ≤ slice then .fault .absentUnit
  else
    let m := (s.pkg pkg).dieMap die
    let n := m.list.length
    match m.withdrawing with
    | none =>
      if !m.list.contains slice || n < 2 then .next s
      else .next (notify pkg (.vacate die (2 * n - 1)) (notify pkg (.vacate die (2 * n - 2))
        (modDie pkg die (fun m => { m with withdrawing := some slice }) s)))
    | some w =>
      match m.current with
      | none => .next s
      | some q =>
        if w != slice then .next s
        else
          let s1 := finishRegion pkg die q s
          if q + 3 < 2 * n then
            .next (modDie pkg die (fun m => { m with regions := tput m.regions (q + 1) .migrating }) s1)
          else .next (finishWithdrawal pkg die slice s1)

/-- VACATE_COMPLETE: the host driver has vacated the regions; the unused map is written and region 0
migrates (R289 steps 2 and 3). -/
def execVacateComplete (pkg die : Nat) (s : State) : Host.Outcome State Fault Refusal :=
  if 2 ≤ die then .fault .absentUnit
  else
    let m := (s.pkg pkg).dieMap die
    match m.withdrawing with
    | none => .next s
    | some slice =>
      if m.current.isSome then .next s
      else .next (modDie pkg die (fun m =>
        { (m.other (m.list.filter (· != slice))) with regions := tput m.regions 0 .migrating }) s)

/-- CXL_SLICE_WITHDRAW: the entries of lines whose home changes are promoted, the port's lines leave the
caches, and the port has one slice less (R290). -/
def execCxlSliceWithdraw (pkg die port slice : Nat) (s : State) : Host.Outcome State Fault Refusal :=
  if 2 ≤ die || 4 ≤ port then .fault .absentUnit
  else
    let m := (s.pkg pkg).dieMap die
    if !(m.cxlList port).contains slice then .next s
    else
      let ours (home : Nat) : Bool := home / 8 == (288 * die + 256) / 8 + port
      let s1 := promoteWhere pkg (fun h _ => ours h) s
      let s2 := dropLinesWhere pkg (fun tag =>
        match homeOf s (128 * tag) with | some h => keyKind (128 * tag) == 2 && ours h | none => false) s1
      .next (modDie pkg die (fun m => { m with
        cxlSlices := tput m.cxlSlices port ((m.cxlList port).filter (· != slice)) }) s2)

/-! ## Reset (R310) -/

/-- DEVICE_RESET: the package is as after reset; its warps and cores are gone, its launches ended. -/
def execDeviceReset (pkg : Nat) (s : State) : Host.Outcome State Fault Refusal :=
  let mine (l : Nat) : Bool := (s.launch l).pkg == pkg
  .next ({ s with
    cores := s.cores.filter (fun (c : Nat × Core) => pkgOf c.1 != pkg)
    warps := s.warps.filter (fun (w : Nat × Warp) => pkgOf (coreOf w.1) != pkg)
    teams := s.teams.map (fun (t : Nat × Team) => if mine t.2.launch then (t.1, { Team.blank with launch := t.2.launch, number := t.2.number, core := t.2.core }) else t)
    launches := s.launches.map (fun (l : Nat × Launch) =>
      if l.2.pkg = pkg then (l.1, { l.2 with ending := none, replaying := false, finished := true }) else l) }.setPkg pkg
        Package.reset)

end Sys2Proof.Machine
end

