-- ==== Sys2Proof/Machine/Issue.lean ====
section
/-!
DEFINITION. Machine/Issue.lean: when a split is ready, the start of an issue with the fetch of its
lines, its passes, and its close (R27, R41, R231, R237, R245, R248).
-/

namespace Sys2Proof.Machine

open Sys2Proof

/-- Whether a warp may issue at all: its team runs, its launch is not ending, it is staged, and it is
neither parked nor frozen (R91, R228, R245). -/
def warpMayIssue (s : State) (k : Nat) : Bool :=
  let w := s.warp k
  (tget s.warps k).isSome && !w.retired && w.staged && w.frozen.isEmpty && w.park == .no &&
  (s.warpTeam k).run == .running && (s.warpLaunch k).ending.isNone

/-- Whether a warp's other splits wait until entry e has issued again (R220). -/
def Warp.pinnedTo (w : Warp) (e : Nat) : Bool := w.reissues.all (fun x => !x.2.pinned || x.1 == e)

/-- Whether no descriptor read is out, for which the warp would stall; the split whose descriptor waits for its page
may try again (R398). -/
def Warp.descsIn (w : Warp) (e : Nat) : Bool :=
  w.desc.all (fun d => d.returned || (d.len == 0 && d.entry == (if w.trapMode then 8 else e)))

/-- Whether a split is ready but for its fetch and its waits; in trap mode only the trap split is
(R220, R245, R259, R398). -/
def splitReady (s : State) (k e : Nat) : Bool :=
  let w := s.warp k
  warpMayIssue s k && w.descsIn e &&
  (if w.trapMode then e == w.trapEntry && (match w.trapSplit with | some t => !t.yielded | none => false)
   else
     let x := w.split e
     x.valid && !x.atJoin && !x.rgWait && !x.yielded && w.pinnedTo e)

/-- Offset, position in a REP, and planes of the split about to issue. In trap mode the planes are plane 0 alone, so that
PLANECFG shows plane 0 and OCC 0b0001 there and PMASK is 0b0001: R208 and R252 say only that the trap split runs in one
plane (DESIGN CHOICE; log 41). -/
def issueAt (w : Warp) (e : Nat) : Word × Option Nat × BitVec 4 :=
  if w.trapMode then
    match w.trapSplit with
    | some t => (t.offset, if t.inRep then some t.repJ else none, 1#4)
    | none => (0#32, none, 0#4)
  else
    let x := w.split e
    (x.offset, if x.inRep then some x.repJ else none, w.occupied x.members)

/-- The re-issue that applies to a split, or to the trap split (R215, R220, R237). -/
def reissueFor (w : Warp) (e : Nat) : Option Reissue := tget w.reissues (w.reissueKey e)

/-- An issue about to start: the slot, its planes and what a re-issue restricts. An instruction of which passes have been
made goes on with the sources they read; a source that it waited for is read now, and after ERET all are (R105, R141,
R215). -/
def newIssue (s : State) (k e : Nat) : Issue :=
  let w := s.warp k
  let (o, rep, occ) := issueAt w e
  let r := reissueFor w e
  let x := (r.map (·.progress)).getD Progress.start
  let mate := r.bind (·.mate)
  { warp := k, entry := e
    offset := match r, mate with
      | some r, some _ => r.offset
      | _, _ => if rep.isSome then following o else o
    occupied := occ, lines := []
    todo := match r with
      | some r => planesOf (r.planes &&& occ)
      | none => planesOf occ
    low := r.bind (·.low), checked := (r.map (·.checked)).getD false, issued := false
    pinned := r.any (fun r => r.pinned && r.progress.pre.isSome)
    took := x.took, moves := x.moves, shifts := x.shifts, point := x.point, fresh := x.fresh,
    counted := x.counted, rep := rep
    pre := match x.pre with
      | some y => some (y.refreshed w)
      | none => if x.took.isEmpty then none else some w.sources
    wb := x.wb.getD s.nextId, mate := mate, trap := w.trapMode, status := .running }

/-- The context of a fault raised before any instruction is decoded: the lanes of every plane to issue. -/
def bareCtx (w : Warp) (q : Issue) (p : Nat) : Ctx :=
  let act := q.todo.foldl (fun m p => m ||| activeLanes w q p) 0#96
  { k := q.warp, e := q.entry, p := p, q := q, h := Hdr.neutral, view := w, act := act,
    part := act, live := act, any := !noLanes act }

/-- A fault of the slot about to issue: of its fetch, or of its offset (R27, R232, R284). It comes before any
pass, and names every lane of the planes to issue; lines are those whose fetch fails (R210, R220; log 39). -/
def faultAtIssue (q : Issue) (p : Nat) (cause : BitVec 8) (va : A80) (lines : List A80) (s : State) : State :=
  let c := bareCtx (s.warp q.warp) q p
  if cause == causePageFault || cause == causeProtection then
    pageFaultPass c { cause := cause, va := va, lanes := c.act, named := lines.map (·, 3) } s
  else trapAt c false { cause := cause, va := va, lanes := 0#96 } s

/-- The lines of the planes to issue. -/
def linesOf (s : State) (k : Nat) (o : Word) (planes : List Nat) : List (Nat × LineResult) :=
  planes.map (fun p => (p, getLine s k p o))

/-- The key of the instruction cache that holds a line, when it is mapped. -/
def icacheKey (s : State) (k : Nat) (va : A80) : Option Nat :=
  match warpTrans s k fetchEntry va .fetch with
  | .ok p => some (p.key / 64)
  | _ => none

/-- A line taken out of the core's instruction cache. -/
def dropCode (k : Nat) (va : A80) (s : State) : State :=
  match icacheKey s k va with
  | some key => s.modCore (coreOf k) (fun c => { c with icache := tdel c.icache key })
  | none => s

/-- A line that fails parity as it comes from the cache is invalidated and fetched once more (R41). -/
def refetch (k : Nat) (va : A80) (s : State) : State :=
  (countWarp 0x08 1 k (dropCode k va s)).modWarp k (fun w => { w with frozen := w.frozen ++ [(va.toNat, 1)] })

/-- The entry slot's TMASK in plane 0, checked once, at the warp's first issue outside trap mode (R27, R208). -/
def entryMaskBad (w : Warp) (q : Issue) (ls : List (Nat × BitVec 512)) : Bool :=
  w.entryUnchecked && !w.trapMode && match ls with
    | (_, b) :: _ => !tmaskBit b (slotNum q.offset)
    | [] => false

/-- The warp's first issue has been made. -/
def Warp.entered (w : Warp) : Warp := if w.trapMode then w else { w with entryUnchecked := false }

/-- The instruction of a pass: the word of its plane, or its repetition under a REP (R58, R237). A word that a
REP may not prefix never comes to pass: decodeFault refuses it. -/
def passInstr (q : Issue) : Instr :=
  (planeInstr q (q.todo.headD 0)).getD (instrAt (q.line (q.todo.headD 0)) (slotNum q.offset))

/-- The second instruction of a pair that begins at the slot about to issue, with a producer of its own: only when its
own decode checks pass, after the first has aged the latches; else it issues alone and faults then (R38, R39, R100;
log 4). -/
def pairMate (s : State) (q : Issue) : Option Mate :=
  let slot := slotNum q.offset
  let w := s.warp q.warp
  if q.mate.isSome || q.rep.isSome || !q.took.isEmpty || !pairBit (q.line (q.todo.headD 0)) slot then none
  else
    let q2 := { q with offset := following q.offset }
    match issueFault (w.ageLatches []) (s.warpLaunch q.warp).info.planeCount q2 (q.todo.headD 0) (passInstr q2) with
    | some _ => none
    | none => some { offset := following q.offset, second := true, todo := q.todo, apart := false,
                     progress := { Progress.start with wb := some (q.wb + 1) } }

/-- The start of an issue: every line is fetched, and either the warp freezes, a fault is raised, or
the issue stands ready for its passes. At a warp's first issue TARGET-MASK of R27 is raised before LINE-PARITY, should
the entry line still fail parity after its refetch: R27, R41 and R42 do not order the two (DESIGN CHOICE; log 41). -/
def beginIssue (k e : Nat) (s : State) : State :=
  let q := newIssue s k e
  let w := s.warp k
  let s0 := { s with cur := some q, nextId := s.nextId + 2 }
  let s1 := if (reissueFor w e).isSome then s0.modWarp k (fun w => { w with reissues := tdel w.reissues (w.reissueKey e) })
    else s0
  let p0 := q.todo.headD 0
  if 5 ≤ slotNum q.offset || !offsetInRange s k q.offset then
    faultAtIssue q p0 causeTargetMask 0#80 [] s1
  else
    let ls := linesOf s k q.offset (q.todo ++ ((q.mate.map (·.todo)).getD []).filter (fun p => !q.todo.contains p))
    let missing := ls.filterMap (fun x => match x.2 with | .missing va => some va | _ => none)
    let faults := ls.filterMap (fun x => match x.2 with | .fault c va => some (c, va, activeLanes w q x.1) | _ => none)
    match worstFetch faults with
    | some (c, va) => faultAtIssue q p0 c va (faults.map (·.2.1)) s1
    | none =>
      if !missing.isEmpty then
        { missing.foldl (fun t va => freeze k va t) s with cur := none }
      else
        let bits := ls.filterMap (fun x => match x.2 with | .line b => some (x.1, b) | _ => none)
        let bad := bits.filter (fun x => !parityOk x.2)
        let unmarked := bad.filter (fun x =>
          (tget w.walkFails (parityMark (codeAddr s k x.1 q.offset))).isNone)
        if !unmarked.isEmpty then
          { unmarked.foldl (fun t x => refetch k (codeAddr s k x.1 q.offset) t) s with cur := none }
        else
          let q1 := { q with lines := bits }
          let s2 := bad.foldl (fun t x => dropCode k (codeAddr s k x.1 q.offset) t) s1
          if entryMaskBad w q bits then
            let c := bareCtx w q1 p0
            trapAt c false (plainFault causeTargetMask)
              ({ s2 with cur := some q1 }.modWarp k Warp.entered)
          else
            let s3 := if w.entryUnchecked then s2.modWarp k Warp.entered else s2
            if q.todo.isEmpty && q.mate.isNone then finishIssue q1 { s3 with cur := some q1 }
            else
              let mate := match q1.mate with | some m => some m | none => pairMate s3 q1
              { s3 with cur := some { q1 with mate := mate } }

/-- The slots of an issue: its own, and the other of its pair. -/
def Issue.slots (q : Issue) : List Word := q.offset :: ((q.mate.map (fun m => [m.offset])).getD [])

/-- The role that last issued on a scheduler's scalar port (R246). -/
def noteRole (q : Issue) (s : State) : State :=
  let b := match q.lines with | x :: _ => x.2 | [] => 0#512
  if q.slots.any (fun o => portOf (instrAt b (slotNum o)).opNum = 0) then
    s.modCore (coreOf q.warp) (fun c => { c with lastRole := tput c.lastRole (schedOf q.warp) (s.warp q.warp).role })
  else s

/-- Whether the issue was of a REP, which takes no issue of its own (R263). -/
def Issue.ofRep (q : Issue) : Bool :=
  q.rep.isNone && q.mate.isNone && match q.lines with
    | x :: _ => isRep (instrAt x.2 (slotNum q.offset))
    | [] => false

/-- Whether an instruction that waits, or is held, has something that its issue to come must take up. -/
def Issue.begun (q : Issue) : Bool :=
  q.low.isSome || q.pre.isSome || !q.took.isEmpty || q.counted || planeMask q.todo != q.occupied ||
    (match q.mate with | some m => !m.progress.took.isEmpty | none => false)

/-- An instruction that waits in a later pass leaves where it stands; the second of a pair, once the first has
passed every plane, has the split at its own slot (R39, R237). -/
def pauseIssue (q : Issue) (s : State) : State :=
  if !q.begun then s
  else
    let firstDone := match q.mate with | some m => !m.second && m.todo.isEmpty | none => false
    let r := { q.stand with mate := if firstDone then none else q.mate }
    s.modWarp q.warp (fun w =>
      let w1 := { w with reissues := tput w.reissues (w.reissueKey q.entry) r }
      if !firstDone then w1
      else if w.trapMode then { w1 with trapSplit := w1.trapSplit.map (fun t => { t with offset := q.offset }) }
      else w1.modSplit q.entry (fun x => { x with offset := q.offset }))

/-- A split has issued a pass: the role that issued last on its scheduler's port, and what State.markIssue says. -/
def notedIssue (q : Issue) (s : State) : State := (noteRole q s).markIssue q.warp q.entry q.trap

/-- The close of an issue: a wait in a later pass leaves a re-issue of the planes to come, and the passes made count as
issues of the split; a REP is no issue (R28, R94, R237, R246, R259, R263). -/
def closeIssue (s : State) : State :=
  match s.cur with
  | none => s
  | some q =>
    let s1 := { s with cur := none }
    if q.status == .waiting || q.status == .held then
      let s2 := if q.issued then notedIssue q s1 else s1
      let me := (q.warp, q.entry)
      pauseIssue q ({ s2 with waited := if s2.waited.contains me then [me] else me :: s2.waited }.modWarp q.warp
        (fun w => { w with waiting := true }))
    else if q.ofRep && q.status == .finished then s1
    else notedIssue q s1

end Sys2Proof.Machine
end

