-- ==== Sys2Proof/Machine/Events.lean ====
section
/-!
DEFINITION. Machine/Events.lean: the events of translation, fetch, firmware's services, time and scrubbing
(R41, R88, R94, R214, R220, R246, R248, R259, R286, R294, R366, R370, R488).
-/

namespace Sys2Proof.Machine

open Sys2Proof

/-! ## Page walks (R285, R286) -/

/-- The die and the cluster of a walk. -/
def Walk.die (v : Walk) : Nat := dieOf v.core
def Walk.cluster (v : Walk) : Nat := v.core / 4

/-- The walk slots that a cluster holds: at most 16. -/
def Package.slotsOf (x : Package) (cluster : Nat) : Nat :=
  (x.walks.filter (fun u => u.started && u.cluster == cluster)).length

/-- How far a cluster stands from the one that a die grants a free slot next, in the round. -/
def Package.walkRank (x : Package) (v : Walk) : Nat :=
  (v.cluster % 40 + 40 - (tget x.walkNext v.die).getD 0 % 40) % 40

/-- Whether walk i of a package may start: a die has 64 walk slots, a cluster at most 16 of them; the
oldest of a cluster goes first, and the clusters with a waiting miss take turns. -/
def walkMayStart (x : Package) (i : Nat) : Bool :=
  match lget x.walks i with
  | none => false
  | some v =>
    !v.started &&
    (x.walks.filter (fun u => u.started && u.die == v.die)).length < 64 &&
    x.slotsOf v.cluster < 16 &&
    (x.walks.take i).all (fun u => u.started || u.cluster != v.cluster) &&
    x.walks.all (fun u => u.started || u.die != v.die || 16 ≤ x.slotsOf u.cluster || x.walkRank v ≤ x.walkRank u)

/-- WALK_START: a slot is granted, and the round goes on with the next cluster (R286). -/
def execWalkStart (pkg i : Nat) (s : State) : Host.Outcome State Fault Refusal :=
  if walkMayStart (s.pkg pkg) i then
    .next (s.modPkg pkg (fun x => match lget x.walks i with
      | some v => { x with walks := lset x.walks i { v with started := true },
                           walkNext := tput x.walkNext v.die ((v.cluster + 1) % 40) }
      | none => x))
  else .next s

/-- The failure of a walk noted for a warp: by the page, the access and the split (failKey). -/
def failWalk (key : Nat) (c : BitVec 8) (k : Nat) (s : State) : State :=
  s.modWarp k (fun w => { w with walkFails := tput w.walkFails key c })

/-- The failure of a walk noted for a split that waits for it. -/
def failWaiter (v : Walk) (c : BitVec 8) (m : Nat × Nat) (s : State) : State :=
  failWalk (failKey v.page (m.2 / 16) (m.2 % 16)) c m.1 s

/-- What a waiting split gets of a leaf: the entry joins its TLBs, or its access fails (R283 to R285). -/
def giveLeaf (v : Walk) (e : BitVec 64) (big : Bool) (m : Nat × Nat) (s : State) : State :=
  match leafFault e (s.warpLaunch m.1).tkey (Access.ofCode (m.2 / 16)) with
  | some c => failWaiter v c m s
  | none => s.tlbFill (coreOf m.1) (tlbOf v.asn (2 ^ 16 * v.page) e big)

/-- The teams of an address space that run on a core. -/
def teamsIn (s : State) (g asn : Nat) : List Nat :=
  (s.teams.filter (fun t => t.2.core == g && t.2.run == .running && (s.launch t.2.launch).asn == asn)).map (·.1)

/-- A code line that IPREF asked for, once its page's leaf is there (R261, R284). -/
def giveLine (pkg : Nat) (v : Walk) (e : BitVec 64) (big : Bool) (x : Nat × Nat) (s : State) : State :=
  match teamsIn s x.1 v.asn with
  | [] => s
  | t :: _ =>
    let tkey := (s.launchOf t).tkey
    if (leafFault e tkey .prefetch).isSome then s
    else
      let s1 := s.tlbFill x.1 (tlbOf v.asn x.2 e big)
      match leafPlace s1 pkg e big x.2 with
      | .ok p => codePrefetch x.1 p tkey s1
      | _ => s1

/-- The teams that a walk is for, each once. -/
def walkTeams (s : State) (v : Walk) : List Nat :=
  (v.waiters.map (fun m => (s.warp m.1).team) ++ v.lines.flatMap (fun x => teamsIn s x.1 v.asn)).eraseDups

/-- The tenant key under which a walk reads its entries: that of the first team it is for (log 28). -/
def walkTkey (s : State) (v : Walk) : BitVec 8 :=
  match walkTeams s v with
  | t :: _ => (s.launchOf t).tkey
  | [] => 0#8

/-- WALK_COMPLETE: the walk, read through the home slices, finds a leaf, or fails; an entry in error ends or replays
the teams that wait, and one of a MIGRATING region stalls it (R218, R281, R283, R285, R286, R289). -/
def execWalkComplete (pkg i : Nat) (s : State) : Host.Outcome State Fault Refusal :=
  match lget (s.pkg pkg).walks i with
  | none => .next s
  | some v =>
    if !v.started then .next s
    else
      let va := 2 ^ 16 * v.page
      let s0 := walkReads s pkg v.root va (walkTkey s v)
      let s1 := s0.modPkg pkg (fun x => { x with walks := ldel x.walks i })
      match walk s0 pkg v.root va with
      | .leaf e big =>
        .next (v.lines.foldl (fun t x => giveLine pkg v e big x t) (v.waiters.foldl (fun t m => giveLeaf v e big m t) s1))
      | .fault c => .next (v.waiters.foldl (fun t m => failWaiter v c m t) s1)
      | .bad => .next ((walkTeams s v).foldl (fun t k => stateErrorAt k pkg v.die t) s1)
      | .stall => .next s

/-! ## Code lines (R41, R248) -/

/-- ICACHE_LINE_ARRIVAL: line i that a warp waits for arrives, and the warp no longer waits for it. A second
copy that fails parity leaves its mark for the issue; a page that no TLB holds waits for its walk (R41, R248, R286). -/
def execIcacheLineArrival (warp i : Nat) (s : State) : Host.Outcome State Fault Refusal :=
  let w := s.warp warp
  match lget w.frozen i with
  | none => .next s
  | some (a, attempt) =>
    let va : A80 := BitVec.ofNat 80 a
    let g := coreOf warp
    let thaw (t : State) : State := t.modWarp warp (fun w => { w with frozen := ldel w.frozen i })
    match warpTrans s warp fetchEntry va .fetch with
    | .ok p =>
      if p.poa then .next (thaw s)
      else
        let t1 := icacheFill g (p.key / 64) (s.warpLaunch warp).tkey s
        let bits := (tget (t1.core g).icache (p.key / 64)).getD 0#512
        if attempt = 1 && !parityOk bits then .next (thaw (failWalk (parityMark va) 3#8 warp t1))
        else .next (thaw t1)
    | .fault _ => .next (thaw s)
    | .miss => .next (queueWalk warp fetchEntry va .fetch s)
    | .stall => .next s

/-! ## Firmware's answers to page faults (R220, R412, R443, R506) -/

/-- The cause with which an access fails now, none when it translates: an address of KIND 4 is checked at its target, and
one of KIND 3 refuses what the bus has no form of. An entry of a walk in error names its package and die. -/
def mapsNow (s : State) (g : Nat) (l : Launch) (va : A80) (a : Access) (bus : Bool) : Except (Nat × Nat) (Option (BitVec 8)) :=
  match translateNow s g l.root l.asn l.tkey va a with
  | (_, true, _) => .error (pkgOf g, dieOf g)
  | (.ok p, _, _) =>
    if keyKind p.key = 4 then
      match fabricPlace s (pkgOf g) l.tkey (keyAddr p.key) a with
      | .refused => .ok (some causeProtection)
      | .bad p d => .error (p, d)
      | _ => .ok none
    else .ok (if bus || keyKind p.key != 3 then none else some causeProtection)
  | (.fault c, _, _) => .ok (some c)
  | _ => .ok none

/-- A parked warp goes on: its instruction is issued again, before any other split's, for the planes and lanes that
have not completed, as a producer of its own (R104, R215, R220 step 3). -/
def reissueParked (f : FaultRec) (w : Warp) : Warp :=
  let r := f.stand
  { w.forgetWalks with
    park := .no
    reissues := tput w.reissues f.entry
      { r with
        low := some ((planesOf (fieldOf f.pc 32 4)).headD 0, f.lanes), pinned := true,
        progress := { r.progress with wb := none } } }

/-- A parked warp traps with the recorded values (R220 step 4). -/
def trapParked (k : Nat) (f : FaultRec) (s : State) : State :=
  let w := { (s.warp k) with park := .no }
  let (w1, ov) := w.readyTrap f.entry f.stand f.decoded (if f.more then some ((fieldOf f.pc 36 4).toNat + 1) else none)
  let s1 := countWarp 0x06 (if ov then 1 else 0) k (s.setWarp k (w1.shiftPlanes f.stand.progress.shifts).forgetWalks)
  settle k (raiseFault k f.entry f.pc { cause := f.cause, va := f.va, lanes := f.lanes } s1)

/-- The service of a warp's page fault. -/
def serviceWarp (k : Nat) (s : State) : State :=
  let w := s.warp k
  match w.park with
  | .pageFault f =>
    let l := s.warpLaunch k
    let g := coreOf k
    let rs := f.named.map (fun x => mapsNow s g l x.1 (Access.ofCode (x.2 % 8)) (x.2 < 8))
    if (s.warpTeam k).run != .running then s
    else
      match rs.findSome? (fun r => match r with | .error x => some x | .ok _ => none) with
      | some (p, d) => stateErrorAt w.team p d s
      | none =>
        if rs.all (fun r => match r with | .ok none => true | _ => false) then s.modWarp k (reissueParked f)
        else trapParked k f s
  | _ => s

/-- The service of a copy command's page fault: the command goes on, or the team ends with the cause that its access has
now (R412). -/
def serviceCopy (g id : Nat) (s : State) : State :=
  match (s.core g).copies.find? (fun q => q.id == id) with
  | none => s
  | some q =>
    match q.stopped with
    | none => s
    | some (_, va) =>
      match mapsNow s g (s.launchOf q.team) va (if q.kind == .tstore then .write else .read) true with
      | .ok none => modCopy g id (fun y => { y with stopped := none }) s
      | .ok (some cause) => endTeam q.team 0x20#8 cause 0#32 s
      | .error (p, d) => stateErrorAt q.team p d s

/-- The service of a page fault of a member's part in a collective (R443, R464). -/
def serviceJoin (inst m : Nat) (s : State) : State :=
  match (tget s.insts inst).bind (fun x => x.join m) with
  | none => s
  | some j =>
    match j.faulted with
    | none => s
    | some (_, va, wr) =>
      let g := (s.team j.team).core
      match mapsNow s g (s.launchOf j.team) va (if wr then .write else .read) true with
      | .ok none => s.modJoin inst m (fun y => { y with faulted := none })
      | .ok (some cause) => endTeam j.team 0x20#8 cause 0#32 s
      | .error (p, d) => stateErrorAt j.team p d s

/-- PAGE_FAULT_SERVICE_REPLY: the host driver has answered; what faulted is tried again, or fails (R220). -/
def execPageFaultServiceReply (kind : FaultOwner) (id i : Nat) (s : State) : Host.Outcome State Fault Refusal :=
  match kind with
  | .warp => .next (serviceWarp id s)
  | .copyCommand => .next (serviceCopy id i s)
  | .collective => .next (serviceJoin id i s)
  | .frontEnd => .next (feService id i s)

/-! ## Firmware's answers to SYSC (R214) -/

/-- SYSC_REPLY: once the warp's stores and atomics have completed at system scope, firmware does the
service (R214). -/
def execSyscReply (warp : Nat) (s : State) : Host.Outcome State Fault Refusal :=
  let w := s.warp warp
  match w.park with
  | .sysc service v v2 o =>
    if !w.acks.isEmpty || w.pend.any (fun b => b.holes != 0) || (s.warpTeam warp).run != .running ||
        l1Stalled s (coreOf warp) (s.fused warp) then .next s
    else
      let s1 := releaseL1 (coreOf warp) (s.fused warp) 4 s
      let l := s.warpLaunch warp
      let stop (t : State) : State := t.modWarp warp (fun w => { w with park := .stopped })
      if service = 1 then
        let n := Notice.notify (BitVec.ofNat 32 (teamIdWord warp (s.warpTeam warp))) (BitVec.ofNat 32 w.warpid) o v v2
        .next (notify l.pkg n (s1.modWarp warp (fun w => { w with park := .no })))
      else if service = 2 && l.replayable then .next (squall w.team (stop s1))
      else .next (endTeam w.team (if service = 2 then 0x41#8 else 0x40#8) 0#8 v (stop s1))
  | _ => .next s

/-! ## Promotion (R366) -/

/-- PROMOTION_REQUEST: the promotion that an acquire has asked for reaches the releasing core, whose write-backs wait for a
MIGRATING region (R289, R366). -/
def execPromotionRequest (pkg slice line : Nat) (s : State) : Host.Outcome State Fault Refusal :=
  .next ((((s.pkg pkg).promoOf slice).filter (fun e => e.line == line && e.asked && !promoStalled s e)).foldl
    (fun t e => promote pkg slice e t) s)

/-! ## Selection and staging (R94, R246, R259) -/

/-- STAGING_COMPLETE: the registers whose staging was under way are staged; a set that was released is begun to be
staged again (R94). -/
def execStagingComplete (warp : Nat) (s : State) : Host.Outcome State Fault Refusal :=
  if (tget s.warps warp).isNone then .next s
  else if ((s.warp warp).unstaged (s.warp warp).ws).isEmpty then
    .next (s.modWarp warp (fun w => { w with staged := true }))
  else .next (stageSet warp s)

/-- A warp's split changed, by the number of its entry; 8 is the trap split. -/
def Warp.modReady (w : Warp) (e : Nat) (f : Split → Split) (g : TrapSplit → TrapSplit) : Warp :=
  if e = 8 then { w with trapSplit := w.trapSplit.map g } else w.modSplit e f

/-- READY_AGE_EXPIRY: a ready split, entry 8 the trap split, that has not issued for 2,048 cycles counts as class 0
(R246). -/
def execReadyAgeExpiry (warp entry : Nat) (s : State) : Host.Outcome State Fault Refusal :=
  let w := s.warp warp
  if w.trapMode == (entry == 8) && splitReady s warp (if entry = 8 then w.trapEntry else entry) then
    .next (s.modWarp warp (fun w =>
      w.modReady entry (fun x => { x with aged := true }) (fun x => { x with aged := true })))
  else .next s

/-- YIELD_TIMEOUT: 32 cycles after its YIELD a split, entry 8 the trap split, may be selected again (R259). -/
def execYieldTimeout (warp entry : Nat) (s : State) : Host.Outcome State Fault Refusal :=
  if (tget s.warps warp).isSome then
    .next (s.modWarp warp (fun w =>
      w.modReady entry (fun x => { x with yielded := false }) (fun x => { x with yielded := false })))
  else .next s

/-! ## Scrubbing (R88, R370) -/

/-- REGISTER_SCRUB: every main-file word of the warps of a scheduler is read and checked (R88). -/
def execRegisterScrub (core sched : Nat) (s : State) : Host.Outcome State Fault Refusal :=
  if 4 ≤ sched then .fault .absentUnit
  else
    .next ((span (12 * sched) 12).foldl (fun s i =>
      let k := 48 * core + i
      match tget s.warps k with
      | none => s
      | some w => resolveMainFile k (w.vregs.map (·.1)) s) s)

/-- ACCUM_SCRUB: every accumulator word is read and checked (R370). -/
def execAccumScrub (core : Nat) (s : State) : Host.Outcome State Fault Refusal :=
  .next ((s.core core).accumFlips.foldl (fun s e => resolveAcc core e.1 s) s)

/-! ## Residency sweeps (R294) -/

/-- A line of a segment with its class worked out anew and its mark cleared; the thirteenth PIN line of a
set is stored as KEEP (R293, R294, R411). -/
def sweepLine (p d w : Nat) (s : State) : State :=
  match tget (s.pkg p).segLines w with
  | none => s
  | some x =>
    let c := classOf s (128 * x.tag) x.tkey
    let full := c == 0 && 12 ≤ pinCount (s.pkg p).segLines (w / 16) w
    let s1 := s.modPkg p (fun y => { y with
      segLines := tput y.segLines w { x with cls := if full then 1 else c, pin := false, owner := 0 } })
    if full then countDie 0x44 1 p d s1 else s1

/-- RESIDENCY_SWEEP (R294). -/
def execResidencySweep (pkg die : Nat) (s : State) : Host.Outcome State Fault Refusal :=
  if 2 ≤ die then .fault .absentUnit
  else if (tget (s.pkg pkg).sweepDue die).getD false then
    let ws := ((s.pkg pkg).segLines.filter (fun e => e.1 / (16 * 16384) / 288 == die)).map (·.1)
    .next (ws.foldl (fun s w => sweepLine pkg die w s) (s.modPkg pkg (fun x => { x with sweepDue := tdel x.sweepDue die })))
  else .next s

/-! ## Soft errors as they strike (R41, R88, R370, R486; log 33) -/

/-- The upsets of a word struck once more: a second bit beside the first makes two. -/
def struckWord (two : Bool) (u : BitVec 2) : BitVec 2 := if two || u != 0#2 then 2#2 else 1#2

/-- Whether a code numbers a scalar or address register, or a beat of p0 to p14. -/
def fileCode (c : Nat) : Bool := isS c || (704 ≤ c && c < 768) || (2000 ≤ c && c < 2045)

/-- A vector or kv register with bits of lane l's word turned: of DATA and CHECK, and of the two copies of POISON (R87). -/
def VReg.strike (r : VReg) (l : Nat) (bits : BitVec 41) : VReg :=
  let f := r.flipsOf l ^^^ bits.setWidth 39
  { r with
    flips := if f = 0#39 then tdel r.flips l else tput r.flips l f
    poison := if bits.getLsbD 39 then r.poison ^^^ (1#96 <<< l) else r.poison
    poison2 := if bits.getLsbD 40 then r.poison2 ^^^ (1#96 <<< l) else r.poison2 }

/-- A bit of a register's tag turned, 4 being TPAR. -/
def VReg.strikeTag (r : VReg) (bit : Nat) : VReg :=
  if bit = 4 then { r with tpar := !r.tpar } else { r with tag := r.tag ^^^ (1#4 <<< bit) }

/-- A warp with a vector or kv register changed by what does not count as a write: in the main file, or in the fast file
where the register is staged (R90). -/
def Warp.strikeReg (w : Warp) (c : Nat) (main : Bool) (f : VReg → VReg) : Warp :=
  if isKv c then { w with kvregs := tput w.kvregs (c - 644) (f (w.vreg c)) }
  else if w.budget ≤ c then w
  else if main then { w with vregs := tput w.vregs c (f (w.mainReg c)) }
  else match tget w.fast c with
    | some x => { w with fast := tput w.fast c { x with reg := f x.reg } }
    | none => w

/-- The machine after a soft error; nothing where no such word is. -/
def strikeAt (p : Strike) (s : State) : State :=
  match p with
  | .lane k c main l bits =>
    if (tget s.warps k).isSome && l < 96 then s.modWarp k (fun w => w.strikeReg c main (fun r => r.strike l bits)) else s
  | .tag k c main bit =>
    if (tget s.warps k).isSome then s.modWarp k (fun w => w.strikeReg c main (fun r => r.strikeTag bit)) else s
  | .file k c two =>
    if (tget s.warps k).isSome && fileCode c then
      s.modWarp k (fun w => { w with upsets := tput w.upsets c (two || (tget w.upsets c).isSome) })
    else s
  | .shared g a two =>
    if a < 131072 then
      s.modCore g (fun c => { c with sharedUpset := sput c.sharedUpset a (struckWord two (sget c.sharedUpset a)) })
    else s
  | .accum g a bits =>
    if a < 131072 then
      s.modCore g (fun c => { c with
        accumFlips := sput c.accumFlips a (sget c.accumFlips a ^^^ bits.setWidth 39)
        accumPoison := sput c.accumPoison a (sget c.accumPoison a ^^^ fieldOf bits 39 2) })
    else s
  | .mem k two => { s with memUpset := sput s.memUpset (k / 4) (struckWord two (sget s.memUpset (k / 4))) }
  | .line g a b =>
    match tget (s.core g).icache a with
    | some x => s.modCore g (fun c => { c with icache := tput c.icache a (x ^^^ ((1#512) <<< (b % 512))) })
    | none => s

/-! ## Clocks (R488) -/

/-- CLOCK_CYCLE of a core, a mesh, a die link or a firmware complex: in a core each frozen warp counts a schedule slip (R190, R248, R488). -/
def execClockCycle (clock : Clock) (s : State) : Host.Outcome State Fault Refusal :=
  match clock with
  | .core g =>
    let ks := (List.range 48).filter (fun i => !(s.warp (48 * g + i)).frozen.isEmpty)
    .next ((ks.foldl (fun t i => countWarp 0x02 1 (48 * g + i) t) s).modCore g
      (fun c => { c with cycle := c.cycle + 1#64 }))
  | .mesh p d =>
    if 2 ≤ d then .fault .absentUnit
    else .next (s.modPkg p (fun x => { x with meshCycles := bump x.meshCycles d 1 }))
  | .link p d =>
    if 2 ≤ d then .fault .absentUnit
    else .next (s.modPkg p (fun x => { x with linkCycles := bump x.linkCycles d 1 }))
  | .complex p c =>
    if 2 ≤ c then .fault .absentUnit
    else .next (s.modPkg p (fun x =>
      let f := x.fw c
      { x with firmware := tput x.firmware c { f with cycles := f.cycles + 1#64 } }))

end Sys2Proof.Machine
end

