-- ==== Sys2Proof/Machine/Traps.lean ====
section
/-!
DEFINITION. Machine/Traps.lean: the trap-mode instructions, the instructions that trap, and undefined
opcodes (R71, R213 to R216).
-/

namespace Sys2Proof.Machine

open Sys2Proof

/-- TRAP and BRK: a fault in the first pass in which a lane takes part (R213). -/
def trapEffect (cause : BitVec 8) (c : Ctx) (s : State) : PassResult :=
  if noLanes c.live then .ok s else .fault s { cause := cause, va := 0#80, lanes := c.live }

def execTrap (h : Hdr) (f : FX) (s : State) : Host.Outcome State Fault Refusal :=
  runPass (.trap h f) .vec (trapEffect causeTrap) s

def execBrk (h : Hdr) (f : FX) (s : State) : Host.Outcome State Fault Refusal :=
  runPass (.brk h f) .vec (trapEffect causeBreak) s

/-- The landing of an ERET whose offset the handler wrote, in every occupied plane of the split (R215). -/
def eretLandings (k : Nat) (s : State) : List Landing :=
  let w := s.warp k
  let o := fieldOf w.trapPc 0 32
  let t := s.setWarp k { w with trapMode := false }
  if !offsetInRange t k o then [.maskClear]
  else (planesOf (w.occupied (w.split w.trapEntry).members)).map (fun p => landing t k p o none)

/-- ERET leaves trap mode (R215). -/
def eretEffect (f : FX) (c : Ctx) (s : State) : PassResult :=
  let w := s.warp c.k
  let go := replaceSet c.k w.savedWs (settle c.k
    (countWarp 0x01 1 c.k (s.modWarp c.k (fun w => w.eret (f.ctl.getLsbD 0)))))
  if !(s.warp c.k).trapMoved then .moved go
  else
    let ls := eretLandings c.k s
    match ls.find? (fun l => match l with | .waits _ => true | _ => false) with
    | some (.waits va) => .wait (freeze c.k va s)
    | _ =>
      match ls.find? (· != .lands) with
      | none => .moved go
      | some (.faults cause va) => .fault s { cause := cause, va := va, lanes := c.live }
      | some _ => .fault s (plainFault causeTargetMask)

def execEret (h : Hdr) (f : FX) (s : State) : Host.Outcome State Fault Refusal :=
  runPass (.eret h f) .once (eretEffect f) s

/-- SYSC: the warp waits for firmware, which acts at its reply (R214). -/
def execSysc (h : Hdr) (f : FX) (s : State) : Host.Outcome State Fault Refusal :=
  runPass (.sysc h f) .first (fun c s =>
    let e := f.e0.toNat
    let n := (fieldOf f.ctl 0 8).toNat
    let second := if n = 1 && isS e then c.view.sval c.e (e + 1) else 0#32
    .ok (s.modWarp c.k (fun w => { w with park := .sysc n (c.view.sval c.e e) second c.q.offset }))) s

/-- KSAVE copies registers into the save area, whole (R216). -/
def execKsave (h : Hdr) (f : FX) (s : State) : Host.Outcome State Fault Refusal :=
  runPass (.ksave h f) .once (fun c s =>
    let n := (fieldOf f.ctl 0 6).toNat + 1
    let slot := (fieldOf f.ctl 6 6).toNat
    .ok (s.modWarp c.k (fun w => { w with
      save := (List.range n).foldl (fun t i => tput t (slot + i) (w.vreg (f.e0.toNat + i))) w.save }))) s

/-- KLOAD copies them back; a slot never written holds zeros with tag B32 (R216). -/
def execKload (h : Hdr) (f : FX) (s : State) : Host.Outcome State Fault Refusal :=
  runPass (.kload h f) .once (fun c s =>
    let n := (fieldOf f.ctl 0 6).toNat + 1
    let slot := (fieldOf f.ctl 6 6).toNat
    .ok (s.modWarp c.k (fun w => (List.range n).foldl (fun x i =>
      x.setVreg (f.e0.toNat + i) ((tget w.save (slot + i)).getD VReg.zero)) w))) s

/-- An undefined major opcode raises ILLEGAL-OPCODE at check 3 of R42, and has no other effect (R71). -/
def execUndefinedMajorOpcode (word : BitVec 96) (s : State) : Host.Outcome State Fault Refusal :=
  runPass (.undefinedMajorOpcode word) .vec (fun _ s => .fault s (plainFault causeIllegalOpcode)) s

end Sys2Proof.Machine
end

