-- ==== Sys2Proof/Machine/Dispatch.lean ====
section
/-!
DEFINITION. Machine/Dispatch.lean: each instruction and event to its meaning.
-/

namespace Sys2Proof.Machine

open Sys2Proof

def exec (i : Instr) (s : State) : Host.Outcome State Fault Refusal :=
  match i with
  | .nop h bits => Sys2Proof.Machine.execNop h bits s
  | .pad h f => Sys2Proof.Machine.execPad h f s
  | .bra h f => Sys2Proof.Machine.execBra h f s
  | .brx h f => Sys2Proof.Machine.execBrx h f s
  | .call h f => Sys2Proof.Machine.execCall h f s
  | .callx h f => Sys2Proof.Machine.execCallx h f s
  | .ret h f => Sys2Proof.Machine.execRet h f s
  | .exit h f => Sys2Proof.Machine.execExit h f s
  | .join h f => Sys2Proof.Machine.execJoin h f s
  | .yield h f => Sys2Proof.Machine.execYield h f s
  | .plane h f => Sys2Proof.Machine.execPlane h f s
  | .regroup h f => Sys2Proof.Machine.execRegroup h f s
  | .ipref h f => Sys2Proof.Machine.execIpref h f s
  | .wset h f => Sys2Proof.Machine.execWset h f s
  | .rep h f => Sys2Proof.Machine.execRep h f s
  | .trap h f => Sys2Proof.Machine.execTrap h f s
  | .eret h f => Sys2Proof.Machine.execEret h f s
  | .brk h f => Sys2Proof.Machine.execBrk h f s
  | .sysc h f => Sys2Proof.Machine.execSysc h f s
  | .ksave h f => Sys2Proof.Machine.execKsave h f s
  | .kload h f => Sys2Proof.Machine.execKload h f s
  | .smov h f => Sys2Proof.Machine.execSmov h f s
  | .smovi h f => Sys2Proof.Machine.execSmovi h f s
  | .sadd h f => Sys2Proof.Machine.execSadd h f s
  | .ssub h f => Sys2Proof.Machine.execSsub h f s
  | .smul h f => Sys2Proof.Machine.execSmul h f s
  | .smulh h f => Sys2Proof.Machine.execSmulh h f s
  | .sand h f => Sys2Proof.Machine.execSand h f s
  | .sor h f => Sys2Proof.Machine.execSor h f s
  | .sxor h f => Sys2Proof.Machine.execSxor h f s
  | .sshl h f => Sys2Proof.Machine.execSshl h f s
  | .sshr h f => Sys2Proof.Machine.execSshr h f s
  | .ssar h f => Sys2Proof.Machine.execSsar h f s
  | .smin h f => Sys2Proof.Machine.execSmin h f s
  | .smax h f => Sys2Proof.Machine.execSmax h f s
  | .scmp h f => Sys2Proof.Machine.execScmp h f s
  | .ssel h f => Sys2Proof.Machine.execSsel h f s
  | .spopc h f => Sys2Proof.Machine.execSpopc h f s
  | .sclz h f => Sys2Proof.Machine.execSclz h f s
  | .alea h f => Sys2Proof.Machine.execAlea h f s
  | .amov h f => Sys2Proof.Machine.execAmov h f s
  | .amovi h f => Sys2Proof.Machine.execAmovi h f s
  | .ahi h f => Sys2Proof.Machine.execAhi h f s
  | .sld h f => Sys2Proof.Machine.execSld h f s
  | .sst h f => Sys2Proof.Machine.execSst h f s
  | .satom h f => Sys2Proof.Machine.execSatom h f s
  | .srd h f => Sys2Proof.Machine.execSrd h f s
  | .swr h f => Sys2Proof.Machine.execSwr h f s
  | .pmov h f => Sys2Proof.Machine.execPmov h f s
  | .plog h f => Sys2Proof.Machine.execPlog h f s
  | .vmov h f => Sys2Proof.Machine.execVmov h f s
  | .vmovi h f => Sys2Proof.Machine.execVmovi h f s
  | .vtag h f => Sys2Proof.Machine.execVtag h f s
  | .vadd h f => Sys2Proof.Machine.execVadd h f s
  | .vsub h f => Sys2Proof.Machine.execVsub h f s
  | .vmul h f => Sys2Proof.Machine.execVmul h f s
  | .vmulh h f => Sys2Proof.Machine.execVmulh h f s
  | .vmad h f => Sys2Proof.Machine.execVmad h f s
  | .vabsd h f => Sys2Proof.Machine.execVabsd h f s
  | .vmin h f => Sys2Proof.Machine.execVmin h f s
  | .vmax h f => Sys2Proof.Machine.execVmax h f s
  | .vand h f => Sys2Proof.Machine.execVand h f s
  | .vor h f => Sys2Proof.Machine.execVor h f s
  | .vxor h f => Sys2Proof.Machine.execVxor h f s
  | .vbool h f => Sys2Proof.Machine.execVbool h f s
  | .vshl h f => Sys2Proof.Machine.execVshl h f s
  | .vshr h f => Sys2Proof.Machine.execVshr h f s
  | .vsar h f => Sys2Proof.Machine.execVsar h f s
  | .vpopc h f => Sys2Proof.Machine.execVpopc h f s
  | .vclz h f => Sys2Proof.Machine.execVclz h f s
  | .vbrev h f => Sys2Proof.Machine.execVbrev h f s
  | .vbfx h f => Sys2Proof.Machine.execVbfx h f s
  | .vbfi h f => Sys2Proof.Machine.execVbfi h f s
  | .vcmpReg h f => Sys2Proof.Machine.execVcmpReg h f s
  | .vcmpImm h f => Sys2Proof.Machine.execVcmpImm h f s
  | .vsel h f => Sys2Proof.Machine.execVsel h f s
  | .vlane h f => Sys2Proof.Machine.execVlane h f s
  | .vperm h f => Sys2Proof.Machine.execVperm h f s
  | .qxch h f => Sys2Proof.Machine.execQxch h f s
  | .vred h f => Sys2Proof.Machine.execVred h f s
  | .vscan h f => Sys2Proof.Machine.execVscan h f s
  | .vvote h f => Sys2Proof.Machine.execVvote h f s
  | .fadd h f => Sys2Proof.Machine.execFadd h f s
  | .fsub h f => Sys2Proof.Machine.execFsub h f s
  | .fmul h f => Sys2Proof.Machine.execFmul h f s
  | .ffma h f => Sys2Proof.Machine.execFfma h f s
  | .fmin h f => Sys2Proof.Machine.execFmin h f s
  | .fmax h f => Sys2Proof.Machine.execFmax h f s
  | .fcmp h f => Sys2Proof.Machine.execFcmp h f s
  | .fclass h f => Sys2Proof.Machine.execFclass h f s
  | .frcp h f => Sys2Proof.Machine.execFrcp h f s
  | .frsq h f => Sys2Proof.Machine.execFrsq h f s
  | .fsqrt h f => Sys2Proof.Machine.execFsqrt h f s
  | .fexp2 h f => Sys2Proof.Machine.execFexp2 h f s
  | .flog2 h f => Sys2Proof.Machine.execFlog2 h f s
  | .fsin h f => Sys2Proof.Machine.execFsin h f s
  | .fcos h f => Sys2Proof.Machine.execFcos h f s
  | .frnd h f => Sys2Proof.Machine.execFrnd h f s
  | .fdot2 h f => Sys2Proof.Machine.execFdot2 h f s
  | .vcvt h f => Sys2Proof.Machine.execVcvt h f s
  | .vpack h f => Sys2Proof.Machine.execVpack h f s
  | .vunpk h f => Sys2Proof.Machine.execVunpk h f s
  | .xdec h f => Sys2Proof.Machine.execXdec h f s
  | .xscan h f => Sys2Proof.Machine.execXscan h f s
  | .xsort h f => Sys2Proof.Machine.execXsort h f s
  | .xtopk h f => Sys2Proof.Machine.execXtopk h f s
  | .xplane h f => Sys2Proof.Machine.execXplane h f s
  | .vld h f => Sys2Proof.Machine.execVld h f s
  | .vst h f => Sys2Proof.Machine.execVst h f s
  | .vldf h f => Sys2Proof.Machine.execVldf h f s
  | .vstf h f => Sys2Proof.Machine.execVstf h f s
  | .vatom h f => Sys2Proof.Machine.execVatom h f s
  | .vldsh h f => Sys2Proof.Machine.execVldsh h f s
  | .vstsh h f => Sys2Proof.Machine.execVstsh h f s
  | .vatomsh h f => Sys2Proof.Machine.execVatomsh h f s
  | .ldacc h f => Sys2Proof.Machine.execLdacc h f s
  | .stacc h f => Sys2Proof.Machine.execStacc h f s
  | .vpref h f => Sys2Proof.Machine.execVpref h f s
  | .clred h f => Sys2Proof.Machine.execClred h f s
  | .clput h f => Sys2Proof.Machine.execClput h f s
  | .clget h f => Sys2Proof.Machine.execClget h f s
  | .mma h f => Sys2Proof.Machine.execMma h f s
  | .mmap h f => Sys2Proof.Machine.execMmap h f s
  | .mlda h f => Sys2Proof.Machine.execMlda h f s
  | .mzero h f => Sys2Proof.Machine.execMzero h f s
  | .mgang h f => Sys2Proof.Machine.execMgang h f s
  | .mbatch h f => Sys2Proof.Machine.execMbatch h f s
  | .mwait h f => Sys2Proof.Machine.execMwait h f s
  | .mcolm h f => Sys2Proof.Machine.execMcolm h f s
  | .tcopy h f => Sys2Proof.Machine.execTcopy h f s
  | .tstore h f => Sys2Proof.Machine.execTstore h f s
  | .tgather h f => Sys2Proof.Machine.execTgather h f s
  | .tmcast h f => Sys2Proof.Machine.execTmcast h f s
  | .tpref h f => Sys2Proof.Machine.execTpref h f s
  | .repart h f => Sys2Proof.Machine.execRepart h f s
  | .veer h f => Sys2Proof.Machine.execVeer h f s
  | .fence h f => Sys2Proof.Machine.execFence h f s
  | .talloc h f => Sys2Proof.Machine.execTalloc h f s
  | .tfree h f => Sys2Proof.Machine.execTfree h f s
  | .trel h f => Sys2Proof.Machine.execTrel h f s
  | .tstat h f => Sys2Proof.Machine.execTstat h f s
  | .hqpush h f => Sys2Proof.Machine.execHqpush h f s
  | .hqpop h f => Sys2Proof.Machine.execHqpop h f s
  | .hqtry h f => Sys2Proof.Machine.execHqtry h f s
  | .csend h f => Sys2Proof.Machine.execCsend h f s
  | .crecv h f => Sys2Proof.Machine.execCrecv h f s
  | .cpoll h f => Sys2Proof.Machine.execCpoll h f s
  | .binit h f => Sys2Proof.Machine.execBinit h f s
  | .barv h f => Sys2Proof.Machine.execBarv h f s
  | .bwait h f => Sys2Proof.Machine.execBwait h f s
  | .bsync h f => Sys2Proof.Machine.execBsync h f s
  | .bexp h f => Sys2Proof.Machine.execBexp h f s
  | .longLatencyWriteback warp n => Sys2Proof.Machine.execLongLatencyWriteback warp n s
  | .transformServiceStart core => Sys2Proof.Machine.execTransformServiceStart core s
  | .transformReply core => Sys2Proof.Machine.execTransformReply core s
  | .matrixCommandStart core => Sys2Proof.Machine.execMatrixCommandStart core s
  | .matrixCommandComplete core => Sys2Proof.Machine.execMatrixCommandComplete core s
  | .copyRowWrite core n => Sys2Proof.Machine.execCopyRowWrite core n s
  | .copyCommandComplete core n => Sys2Proof.Machine.execCopyCommandComplete core n s
  | .multicastDelivery pkg n => Sys2Proof.Machine.execMulticastDelivery pkg n s
  | .readerFinish core n => Sys2Proof.Machine.execReaderFinish core n s
  | .channelDelivery pkg n => Sys2Proof.Machine.execChannelDelivery pkg n s
  | .channelCreditReturn pkg n => Sys2Proof.Machine.execChannelCreditReturn pkg n s
  | .teamRetire team => Sys2Proof.Machine.execTeamRetire team s
  | .teamEnd launch => Sys2Proof.Machine.execTeamEnd launch s
  | .combinerTeamArrival launch n => Sys2Proof.Machine.execCombinerTeamArrival launch n s
  | .combinerRelease launch n => Sys2Proof.Machine.execCombinerRelease launch n s
  | .collectivePacket inst member chunk => Sys2Proof.Machine.execCollectivePacket inst member chunk s
  | .collectiveDeadlineExpiry inst member chunk => Sys2Proof.Machine.execCollectiveDeadlineExpiry inst member chunk s
  | .collectiveRerun inst chunk => Sys2Proof.Machine.execCollectiveRerun inst chunk s
  | .memberLost inst member chunk => Sys2Proof.Machine.execMemberLost inst member chunk s
  | .collectiveInstanceComplete inst member => Sys2Proof.Machine.execCollectiveInstanceComplete inst member s
  | .fabricTargetRequest pkg n => Sys2Proof.Machine.execFabricTargetRequest pkg n s
  | .fabricRequestTimeout pkg n => Sys2Proof.Machine.execFabricRequestTimeout pkg n s
  | .bar2Request pkg write offset data => Sys2Proof.Machine.execBar2Request pkg write offset data s
  | .pcieLinkDown pkg die => Sys2Proof.Machine.execPcieLinkDown pkg die s
  | .promotionRequest pkg slice line => Sys2Proof.Machine.execPromotionRequest pkg slice line s
  | .walkStart pkg n => Sys2Proof.Machine.execWalkStart pkg n s
  | .walkComplete pkg n => Sys2Proof.Machine.execWalkComplete pkg n s
  | .pageFaultServiceReply kind id n => Sys2Proof.Machine.execPageFaultServiceReply kind id n s
  | .icacheLineArrival warp n => Sys2Proof.Machine.execIcacheLineArrival warp n s
  | .stagingComplete warp => Sys2Proof.Machine.execStagingComplete warp s
  | .readyAgeExpiry warp entry => Sys2Proof.Machine.execReadyAgeExpiry warp entry s
  | .yieldTimeout warp entry => Sys2Proof.Machine.execYieldTimeout warp entry s
  | .registerScrub core sched => Sys2Proof.Machine.execRegisterScrub core sched s
  | .accumScrub core => Sys2Proof.Machine.execAccumScrub core s
  | .uncorrectableStateError team die => Sys2Proof.Machine.execUncorrectableStateError team die s
  | .residencySweep pkg die => Sys2Proof.Machine.execResidencySweep pkg die s
  | .turnaroundStart pkg => Sys2Proof.Machine.execTurnaroundStart pkg s
  | .moduleDrained pkg module => Sys2Proof.Machine.execModuleDrained pkg module s
  | .moduleDeadTimeExpiry pkg module => Sys2Proof.Machine.execModuleDeadTimeExpiry pkg module s
  | .starvationGuard pkg toward => Sys2Proof.Machine.execStarvationGuard pkg toward s
  | .doorbellStart pkg ring value => Sys2Proof.Machine.execDoorbellStart pkg ring value s
  | .doorbellRefetch pkg ring value => Sys2Proof.Machine.execDoorbellRefetch pkg ring value s
  | .recordPrefetch pkg ring slot => Sys2Proof.Machine.execRecordPrefetch pkg ring slot s
  | .recordReread pkg ring slot => Sys2Proof.Machine.execRecordReread pkg ring slot s
  | .nopNode pkg ring slot => Sys2Proof.Machine.execNopNode pkg ring slot s
  | .kernelNode pkg ring slot => Sys2Proof.Machine.execKernelNode pkg ring slot s
  | .launchRetry pkg ring slot => Sys2Proof.Machine.execLaunchRetry pkg ring slot s
  | .launchWaitExpiry pkg ring slot => Sys2Proof.Machine.execLaunchWaitExpiry pkg ring slot s
  | .copyNode pkg ring slot => Sys2Proof.Machine.execCopyNode pkg ring slot s
  | .condNode pkg ring slot => Sys2Proof.Machine.execCondNode pkg ring slot s
  | .whileNode pkg ring slot => Sys2Proof.Machine.execWhileNode pkg ring slot s
  | .signalNode pkg ring slot => Sys2Proof.Machine.execSignalNode pkg ring slot s
  | .waitNode pkg ring slot => Sys2Proof.Machine.execWaitNode pkg ring slot s
  | .waitNodeReread pkg ring slot => Sys2Proof.Machine.execWaitNodeReread pkg ring slot s
  | .nodeComplete pkg ring slot => Sys2Proof.Machine.execNodeComplete pkg ring slot s
  | .syscReply warp => Sys2Proof.Machine.execSyscReply warp s
  | .squallReplay launch => Sys2Proof.Machine.execSquallReplay launch s
  | .preempt team => Sys2Proof.Machine.execPreempt team s
  | .resume team => Sys2Proof.Machine.execResume team s
  | .lullTakeover pkg => Sys2Proof.Machine.execLullTakeover pkg s
  | .hbmSliceWithdraw pkg die slice => Sys2Proof.Machine.execHbmSliceWithdraw pkg die slice s
  | .vacateComplete pkg die => Sys2Proof.Machine.execVacateComplete pkg die s
  | .cxlSliceWithdraw pkg die port slice => Sys2Proof.Machine.execCxlSliceWithdraw pkg die port slice s
  | .coreDrain core => Sys2Proof.Machine.execCoreDrain core s
  | .deviceReset pkg => Sys2Proof.Machine.execDeviceReset pkg s
  | .ringBind pkg tag ring base k root asn tkey => Sys2Proof.Machine.execRingBind pkg tag ring base k root asn tkey s
  | .ringUnbind pkg tag ring => Sys2Proof.Machine.execRingUnbind pkg tag ring s
  | .invalidate pkg tag asn all lo hi => Sys2Proof.Machine.execInvalidate pkg tag asn all lo hi s
  | .partition pkg tag die part mask => Sys2Proof.Machine.execPartition pkg tag die part mask s
  | .collSize pkg tag n => Sys2Proof.Machine.execCollSize pkg tag n s
  | .residencyWrite pkg tag die entry value => Sys2Proof.Machine.execResidencyWrite pkg tag die entry value s
  | .cxlWindow pkg tag die window base size ports => Sys2Proof.Machine.execCxlWindow pkg tag die window base size ports s
  | .steerGrant pkg tag tkey grant => Sys2Proof.Machine.execSteerGrant pkg tag tkey grant s
  | .fwUpdate pkg tag addr len => Sys2Proof.Machine.execFwUpdate pkg tag addr len s
  | .attest pkg tag nonce addr => Sys2Proof.Machine.execAttest pkg tag nonce addr s
  | .breakResume pkg tag team warpid => Sys2Proof.Machine.execBreakResume pkg tag team warpid s
  | .notifyQueue pkg tag base size => Sys2Proof.Machine.execNotifyQueue pkg tag base size s
  | .bar2Window pkg tag wbase0 wbase1 => Sys2Proof.Machine.execBar2Window pkg tag wbase0 wbase1 s
  | .commandBadOpcode pkg tag opcode => Sys2Proof.Machine.execCommandBadOpcode pkg tag opcode s
  | .registerWriteIgnored pkg offset value => Sys2Proof.Machine.execRegisterWriteIgnored pkg offset value s
  | .pcieLinkUp pkg die => Sys2Proof.Machine.execPcieLinkUp pkg die s
  | .undefinedMajorOpcode word => Sys2Proof.Machine.execUndefinedMajorOpcode word s
  | .writeAcknowledgement warp n => Sys2Proof.Machine.execWriteAcknowledgement warp n s
  | .descriptorReadReturn warp => Sys2Proof.Machine.execDescriptorReadReturn warp s
  | .gatewayReset pkg die => Sys2Proof.Machine.execGatewayReset pkg die s
  | .linkBringUp pkg number => Sys2Proof.Machine.execLinkBringUp pkg number s
  | .resizableBarSizeWrite pkg logSize => Sys2Proof.Machine.execResizableBarSizeWrite pkg logSize s
  | .clockCycle clock => Sys2Proof.Machine.execClockCycle clock s

end Sys2Proof.Machine
end

