-- ==== Sys2Proof/Machine/Load.lean ====
section
/-!
DEFINITION. Machine/Load.lean: a machine about to issue one given word: the load of a program from
outside, which the host's questions about single words use (log 3).
-/

namespace Sys2Proof.Machine

open Sys2Proof

/-- The role that may issue an opcode's class: epilogue unless the class is matrix or copy (R14). -/
def loadRole (op : Nat) : BitVec 2 :=
  match classOfOp op with
  | 5 => 1#2
  | 6 => 0#2
  | _ => 2#2

/-- NOP: OP 0, PRED 15, FMT 14 (R254). -/
def nopWord : BitVec 96 := 0x00F00E000000000000000000#96

/-- The line word of five slots with TMASK bit 0: parity bits over the chunks and over the word
(R36, R40). -/
def makeLineWord (chunks : BitVec 480) : Word :=
  let par := BitVec.ofNat 15 (bitsNat (fun c => parityOf (fieldOf chunks (32 * c) 32)) 15)
  let low : BitVec 31 := par ++ (0x0001#16)
  (if parityOf low then (1#1) else (0#1)) ++ low

/-- A fetch line with a word in slot 0 and NOP in the others (R36). -/
def makeLine (w : BitVec 96) : BitVec 512 :=
  let chunks : BitVec 480 := nopWord ++ (nopWord ++ (nopWord ++ (nopWord ++ w)))
  makeLineWord chunks ++ chunks

/-- The launch record of a single epilogue, maths or copy warp of one plane at offset 0 (R18). -/
def loadRecord (role : BitVec 2) : LaunchRec :=
  let r (n : BitVec 2) : RoleRec :=
    if n = role then { entry := 0#32, lanes := 96, budget := 640 } else { entry := 0#32, lanes := 0, budget := 0 }
  { LaunchRec.blank with codebase := 0x10000#80, roles := [r 0#2, r 1#2, r 2#2], teams := 1 }

/-- The launch that runs the word. -/
def loadLaunch (role : BitVec 2) : Launch :=
  { Launch.blank with info := loadRecord role, asn := 1, finished := false }

/-- The team of the launch, on core 0 with its warp in slot 0. -/
def loadTeam : Team :=
  { Team.blank with run := .running, core := 0, warpSlots := [0] }

/-- v0 at commit (R26). -/
def laneNumbers : VReg :=
  { VReg.zero with tag := 1#4, words := mkWords (fun l => BitVec.ofNat 32 l) }

/-- The warp of the team, as R26 starts a warp of 96 lanes. -/
def loadWarp (role : BitVec 2) : Warp :=
  { Warp.blank with
    role := role, budget := 640, live := ~~~0#96
    vregs := [(0, laneNumbers)]
    sregs := [(5, { val := 1#32, empty := false, poison := false }),
              (6, { val := 96#32, empty := false, poison := false })]
    splits := [(0, { Split.free with valid := true, members := ~~~0#96, active := ~~~0#96 })]
    entryUnchecked := true }

/-- The leaf that maps the code page: HBM of die 0, readable, writable and executable. -/
def loadLeaf : TlbEntry := { asn := 1, big := false, page := 1, leaf := 0x000000000001001F#64 }

/-- s with one warp placed on core 0, its code page mapped, a line with the word in slot 0 fetched, and
that warp chosen to issue next. -/
def loadWord (s : State) (w : BitVec 96) : State :=
  let role := loadRole (opOf w).toNat
  let core := s.core 0
  { s with
    launches := tput s.launches 0 (loadLaunch role)
    teams := tput s.teams 0 loadTeam
    warps := tput s.warps 0 (loadWarp role)
    cores := tput s.cores 0 { core with
      tlb := loadLeaf :: core.tlb
      icache := tput core.icache (0x10000 / 64) (makeLine w) }
    cur := none
    oracle := [.issue 0 0] }

end Sys2Proof.Machine
end

