-- ==== Sys2Proof/Machine/Policy.lean ====
section
/-!
DEFINITION. Machine/Policy.lean: which agent moves next (logs 4 and 5): the head of the oracle, or, when
the oracle is empty, the moves that are possible, taken in turn; among the splits of a scheduler's port the
one that R246 selects.
-/

namespace Sys2Proof.Machine

open Sys2Proof

/-! ## Selection (R246) -/

/-- A split that could issue: warp, entry, and what R246 compares. -/
structure Candidate where
  warp : Nat
  entry : Nat
  port : Nat
  begun : Nat
  cls : Nat
  turnOfRole : Nat
  since : Nat
deriving DecidableEq, Repr

/-- The port of the next instruction of a split, when its line is at hand; a pair is selected on that of its first
instruction (R246). -/
def nextPort (s : State) (k e : Nat) : Nat :=
  let q := newIssue s k e
  let p := q.todo.headD 0
  match getLine s k p q.offset with
  | .line b => portOf (passInstr { q with lines := [(p, b)] }).opNum
  | _ => 0

/-- Whether a ready split has not issued for 2,048 cycles (R246). -/
def Warp.isAged (w : Warp) (e : Nat) : Bool :=
  if w.trapMode then (match w.trapSplit with | some t => t.aged | none => false) else (w.split e).aged

/-- Whether passes of a split's instruction have been made, or lanes of a pass, and others wait to be (R237, R286). -/
def Warp.hasBegun (w : Warp) (e : Nat) : Bool :=
  (reissueFor w e).any (fun r => !r.progress.took.isEmpty || r.progress.pre.isSome ||
    r.mate.any (fun m => !m.progress.took.isEmpty))

/-- A ready split as a candidate, with the turn at which it became ready. -/
def candidateOf (s : State) (k e : Nat) : Candidate :=
  let w := s.warp k
  let port := nextPort s k e
  let last := ((tget (s.core (coreOf k)).lastRole (schedOf k)).getD 0#2).toNat
  { warp := k, entry := e, port := port, begun := if w.hasBegun e then 0 else 1, cls := if w.isAged e then 0 else (s.warpLaunch k).prio,
    turnOfRole := if port = 0 then (w.role.toNat + 2 - last) % 3 else 0,
    since := (tget s.readyAt (8 * k + e)).getD s.turn }

/-- The ready splits noted, each with the turn at which it became ready since it last issued (R246). -/
def noteReady (s : State) : State :=
  { s with readyAt := s.warps.flatMap (fun x => (List.range 8).filterMap (fun e =>
      if splitReady s x.1 e then some (8 * x.1 + e, (tget s.readyAt (8 * x.1 + e)).getD s.turn) else none)) }

/-- Whether a candidate goes before another of its scheduler and port: the passes to come of an instruction of which
others have been made go before any other split's (R237), and R246 orders the rest. -/
def Candidate.before (a b : Candidate) : Bool :=
  a.begun < b.begun || (a.begun == b.begun &&
    (a.cls < b.cls || (a.cls == b.cls &&
      (a.turnOfRole < b.turnOfRole || (a.turnOfRole == b.turnOfRole &&
        (a.since < b.since || (a.since == b.since &&
          (a.warp < b.warp || (a.warp == b.warp && a.entry < b.entry)))))))))

/-- Every ready split. -/
def candidates (s : State) : List Candidate :=
  s.warps.flatMap (fun x => ((List.range 8).filter (fun e => splitReady s x.1 e)).map (fun e => candidateOf s x.1 e))

/-- The ready splits that no wait of R28 was seen to hold since an issue last completed; every ready
split when there is none such (R245; log 5). -/
def freeCandidates (s : State) : List Candidate :=
  let cs := candidates s
  let fs := cs.filter (fun c => !s.waited.contains (c.warp, c.entry))
  if fs.isEmpty then cs else fs

/-- The splits that their schedulers select: no other of the same scheduler and port goes before. -/
def issueMoves (s : State) : List Move :=
  let cs := freeCandidates s
  (cs.filter (fun a => cs.all (fun b => !(b.warp / 12 == a.warp / 12 && b.port == a.port && b.before a)))).map
    (fun a => .issue a.warp a.entry)

/-! ## Events that may come -/

/-- The events of a warp. -/
def warpEvents (k : Nat) (w : Warp) : List Instr :=
  List.flatten
    [ (List.range w.pend.length).map (fun i => .longLatencyWriteback k i),
      (List.range w.acks.length).map (fun i => .writeAcknowledgement k i),
      (List.range w.frozen.length).map (fun i => .icacheLineArrival k i),
      if w.desc.all (·.returned) then [] else [.descriptorReadReturn k],
      if w.staged || w.retired then [] else [.stagingComplete k],
      (w.splits.filter (fun x => x.2.yielded)).map (fun x => .yieldTimeout k x.1),
      match w.trapSplit with | some t => if t.yielded then [.yieldTimeout k 8] else [] | none => [],
      match w.park with
      | .pageFault _ => [.pageFaultServiceReply .warp k 0]
      | .sysc _ _ _ _ => [.syscReply k]
      | _ => [] ]

/-- The events of a core's engines. -/
def coreEvents (g : Nat) (c : Core) : List Instr :=
  List.flatten
    [ match c.pipe with | [] => [] | r :: _ => [if r.started then .transformReply g else .transformServiceStart g],
      match c.matrix with | [] => [] | q :: _ => [if q.started then .matrixCommandComplete g else .matrixCommandStart g],
      (List.range c.copies.length).map (fun i => .copyRowWrite g i),
      (List.range c.copies.length).map (fun i => .copyCommandComplete g i),
      (List.range c.readers.length).map (fun i => .readerFinish g i),
      (c.copies.filter (fun q => q.stopped.isSome)).map (fun q => .pageFaultServiceReply .copyCommand g q.id) ]

/-- The event that takes a run of a node on. -/
def runEvents (s : State) (p i : Nat) (r : NodeRun) : List Instr :=
  match r.phase with
  | .ready =>
    match (peekNode s p r).map (fun (x : NodeRec) => x.kind) with
    | some 1 => [.kernelNode p r.ring r.slot]
    | some 2 => [.copyNode p r.ring r.slot]
    | some 3 => [.condNode p r.ring r.slot]
    | some 4 => [.whileNode p r.ring r.slot]
    | some 5 => [.signalNode p r.ring r.slot]
    | some 6 => [.waitNode p r.ring r.slot]
    | _ => [.nopNode p r.ring r.slot]
  | .reread _ => [.recordReread p r.ring r.slot]
  | .loading _ => [.recordReread p r.ring r.slot]
  | .waitFault _ _ _ => [.pageFaultServiceReply .frontEnd p i]
  | .waitPlace => [.launchRetry p r.ring r.slot]
  | .running _ => []
  | .waitWord => [.waitNodeReread p r.ring r.slot]
  | .done => [.nodeComplete p r.ring r.slot]

/-- The events of a package. -/
def pkgEvents (s : State) (p : Nat) (x : Package) : List Instr :=
  List.flatten
    [ (List.range x.walks.length).flatMap (fun i => match lget x.walks i with
        | some v => [if v.started then .walkComplete p i else .walkStart p i]
        | none => []),
      (List.range x.fabric.length).map (fun i => .fabricTargetRequest p i),
      (List.range x.chDeliveries.length).map (fun i => .channelDelivery p i),
      (List.range x.chCredits.length).map (fun i => .channelCreditReturn p i),
      (List.range x.multicasts.length).map (fun i => .multicastDelivery p i),
      x.promos.flatMap (fun t => (t.2.filter (·.asked)).map (fun e => .promotionRequest p t.1 e.line)),
      (List.range x.runs.length).flatMap (fun i => match lget x.runs i with | some r => runEvents s p i r | none => []),
      x.rings.flatMap (fun r => r.2.torn.map (fun t => .recordReread p r.1 t.1)),
      if x.turnQueue.isEmpty && x.guards.isEmpty then [] else [.turnaroundStart p],
      (x.modules.filter (fun m => m.2.taken)).map (fun m =>
        if m.2.drained then .moduleDeadTimeExpiry p m.1 else .moduleDrained p m.1),
      x.sweepDue.map (fun d => .residencySweep p d.1),
      match x.bells with
      | [] => []
      | b :: _ => [if b.2.getLsbD 16 then .doorbellStart p b.1 b.2 else .doorbellRefetch p b.1 b.2],
      if x.fwPending.isSome then [.lullTakeover p] else [] ]

/-- The events of a launch and its teams. -/
def launchEvents (s : State) (l : Nat) (x : Launch) : List Instr :=
  List.flatten
    [ if x.ending.isSome && !x.finished then [.teamEnd l, .squallReplay l] else [],
      (List.range x.arrivals.length).map (fun i => .combinerTeamArrival l i),
      (List.range x.releases.length).map (fun i => .combinerRelease l i),
      ((s.teamsOf l).filter (fun t =>
        (s.team t).run == .running && (s.teamWarps t).all (fun k => (s.warp k).retired))).map (fun t => .teamRetire t) ]

/-- The events of a collective instance. -/
def instEvents (i : Nat) (x : Inst) : List Instr :=
  let ms := List.range x.table.length
  List.flatten
    [ match x.chunks with
      | none => ms.map (fun m => .collectivePacket i m 0)
      | some cs => (List.range cs.length).flatMap (fun c => ms.map (fun m => .collectivePacket i m c)),
      ms.map (fun m => .collectiveInstanceComplete i m),
      (x.joins.filter (fun j => j.faulted.isSome)).map (fun j => .pageFaultServiceReply .collective i j.member) ]

/-- The events that could come next. -/
def possibleEvents (s : State) : List Instr :=
  List.flatten
    [ s.warps.flatMap (fun x => warpEvents x.1 x.2), s.cores.flatMap (fun x => coreEvents x.1 x.2),
      s.pkgs.flatMap (fun x => pkgEvents s x.1 x.2), s.launches.flatMap (fun x => launchEvents s x.1 x.2),
      s.insts.flatMap (fun x => instEvents x.1 x.2) ]

/-- The moves that are possible. -/
def possibleMoves (s : State) : List Move := issueMoves s ++ (possibleEvents s).map (fun i => .event i)

/-- The next move, and the state with it taken from the oracle; the turn advances, and the splits that have become ready
are noted. -/
def nextMove (s : State) : Option Move × State :=
  let t := noteReady { s with turn := s.turn + 1 }
  match s.oracle with
  | m :: rest => (some m, { t with oracle := rest })
  | [] =>
    let ms := possibleMoves t
    (lget ms (s.turn % max 1 ms.length), t)

end Sys2Proof.Machine
end

