-- ==== Sys2Proof/Machine/Step.lean ====
section
/-!
DEFINITION. Machine/Step.lean: one step of the machine: an event, a command of the host, or the issue of one split
with all its passes, of the two instructions of a pair too (R39, R237, R316; logs 2, 4, 5).
-/

namespace Sys2Proof.Machine

open Sys2Proof

/-- The passes of the issue in progress, one after the other, until it ends or waits. -/
def runPasses : Nat → State → Host.Outcome State Fault Refusal
  | 0, s => .next (closeIssue s)
  | n + 1, s =>
    match s.cur with
    | none => .next s
    | some q =>
      if q.status == .running && !q.todo.isEmpty then
        match exec (passInstr q) s with
        | .next t => runPasses n t
        | .fault f => .fault f
        | .refused r => .refused r
      else .next (closeIssue s)

/-- The issue of one split: nothing when it is not ready. At most four planes pass, of each of two instructions (R39,
R237), and the second of a pair waits at most once before the first has passed. -/
def issueSplit (k e : Nat) (s : State) : Host.Outcome State Fault Refusal :=
  if splitReady s k e then runPasses 20 (beginIssue k e s) else .next s

/-- One step: the next move: an event, an issue, a soft error, a bus address that the host gives BAR0 or BAR2, of BAR2 a
multiple of its size, or a command that it has placed in its queue. -/
def step (s : State) : Host.Outcome State Fault Refusal :=
  match nextMove s with
  | (some (.event i), t) => exec i t
  | (some (.issue k e), t) => issueSplit k e t
  | (some (.strike p), t) => .next (strikeAt p t)
  | (some (.bar0 p b), t) => .next (t.modPkg p (fun x => { x with bar0 := b }))
  | (some (.bar2 p b), t) =>
    .next (if b.all (fun a => a % (t.pkg p).bar2Size == 0) then t.modPkg p (fun x => { x with bar2 := b }) else t)
  | (some (.command p bs), t) =>
    match commandOf p bs with
    | .ok i => exec i t
    | .error status => .next (refuseCommand p bs status t)
  | (none, t) => .next t

/-- s with the instruction of a word stored where step fetches its next instruction (log 3). -/
def State.withFetchWord (s : State) (nbits w : Nat) : State := loadWord s (BitVec.ofNat 96 (w % 2 ^ nbits))

end Sys2Proof.Machine
end

