-- ==== Sys2Proof/Safety.lean ====
section
/-!
DEFINITION. Safety.lean: what counts as a safe run: the canonical forms of memory hold; and the terms in
which claims speak of a pass: the checks that it passes, what it has read, and how it ends.
-/

namespace Sys2Proof.Machine

open Sys2Proof

/-- Every memory of the machine is in canonical form. -/
def State.memoryWf (s : State) : Bool :=
  Memory.wf s.mem && swf s.memPoison && swf s.memUpset

/-- The pass to come of issue q runs instruction i to its effect: the checks at decode of all its planes pass, R42's, R73's
and those of the tags (R114), where they are not made already; a live lane takes part where the instruction needs one
(R179), no register it names is empty (R105, R106) and no source word is poisoned (R217). -/
def clears (i : Instr) (kind : PassKind) (s : State) (q : Issue) : Bool :=
  let c := passCtx s q i kind
  let w := s.warp q.warp
  (if q.checked then lineFault q else issueFault w (s.warpLaunch q.warp).info.planeCount q c.p i).isNone &&
  !((kind == .scal && noLanes c.live) || (kind == .first && (noLanes c.live || q.acted w i.opNum))) &&
  emptyCheck w c.h (Instr.fields i) (ownEmpty w q) == .go &&
  (poisonUse c i (!noLanes c.live)).isNone

/-- The state in which the effect of a pass acts: the soft errors of the words it reads are found (R88). -/
def readState (i : Instr) (s : State) (q : Issue) : State :=
  resolveReads q.warp (Instr.hdr i) (Instr.fields i) ((s.warp q.warp).latchedA (Instr.aBase i)) s

/-- A pass that has had its effect ends: its read cycles and its issue are counted, the latches age and
capture, and the split moves on after its last pass (R97, R99, R238). -/
def passEnd (c : Ctx) (i : Instr) (all : Bool) (t : State) : State := completePass c i all (countReads c i t)

/-- In every state in which instruction i clears its checks and pre holds of what it reads, exec answers a next
state: the one that eff makes, with the pass ended. -/
def TakesIf (i : Instr) (kind : PassKind) (pre : Ctx → State → Prop) (eff : Ctx → State → State) : Prop :=
  ∀ (s : State) (q : Issue), s.cur = some q → clears i kind s q = true →
    pre (passCtx s q i kind) (readState i s q) →
    exec i s = .next (passEnd (passCtx s q i kind) i (kind == .once) (eff (passCtx s q i kind) (readState i s q)))

/-- The same of an instruction that makes a check of its own before any other wait (R135, R417, R471): own passes. -/
def TakesOwn (i : Instr) (kind : PassKind) (own : Ctx → State → PreCheck) (pre : Ctx → State → Prop)
    (eff : Ctx → State → State) : Prop :=
  ∀ (s : State) (q : Issue), s.cur = some q → clears i kind s q = true → own (passCtx s q i kind) s = .pass →
    pre (passCtx s q i kind) (readState i s q) →
    exec i s = .next (passEnd (passCtx s q i kind) i (kind == .once) (eff (passCtx s q i kind) (readState i s q)))

/-- TakesIf under no further condition. -/
def Takes (i : Instr) (kind : PassKind) (eff : Ctx → State → State) : Prop :=
  TakesIf i kind (fun _ _ => True) eff

end Sys2Proof.Machine
end

