-- ==== Sys2Proof/Certificates/Slice0/Obligations.lean ====
section
/-!
DEFINITION. Certificates/Slice0/Obligations.lean: the statements about the model. Those that say where an
instruction completes speak through Takes and TakesIf of Safety.lean: in every state whose pass clears its
checks, exec answers the next state that the statement writes out.
-/

namespace Sys2Proof.Claims

open Sys2Proof Sys2Proof.Machine

/-! ## Words that the statements share -/

/-- The warp of the pass changed. -/
def onWarp (g : Ctx → Warp → Warp) (c : Ctx) (s : State) : State := s.modWarp c.k (g c)

/-- A function of the scalars A, B and C in scalar D (R182). -/
def toScalar (f : FV) (g : Word → Word → Word → Word) : Ctx → State → State :=
  onWarp (fun c w => w.setS c.e f.d.toNat
    (g (c.view.sval c.e f.a.toNat) (c.view.sval c.e f.b.toNat) (c.view.sval c.e f.c.toNat)))

/-- Words by lane in vector register d under a tag, in the lanes of a mask; the tag alone in a pass without a lane,
when another pass has one (R112, R140). -/
def tagged (c : Ctx) (d : RCode) (tag : BitVec 4) (mask : Lanes) (g : Nat → Word) (w : Warp) : Warp :=
  if mask = 0#96 then (if c.any then w.putTag d.toNat tag else w) else w.putV d.toNat tag mask g 0#96

/-- The same in the lanes that take part. -/
def toVector (d : RCode) (tag : Ctx → BitVec 4) (g : Ctx → Nat → Word) : Ctx → State → State :=
  onWarp (fun c => tagged c d (tag c) c.part (g c))

/-- Bits by lane in predicate d, in the lanes that take part (R140). -/
def toPred (d : RCode) (g : Ctx → Nat → Bool) : Ctx → State → State :=
  onWarp (fun c w => w.setP d.toNat c.part (mkLanes (g c)))

/-- The words of a vector source, by lane. -/
def src (c : Ctx) (r : RCode) : Src := c.view.src c.e r.toNat

/-- A function of the elements of A, B and C, each read as an integer of FMT, in the elements of D. -/
def byElement (h : Hdr) (f : FV) (g : Int → Int → Int → Int) : Ctx → State → State :=
  toVector f.d (fun _ => h.fmt) (fun c l => mapElems (fmtWidth h.fmt) (fmtElems h.fmt) (fun e =>
    bitsOfInt (fmtWidth h.fmt)
      (g (intOf h.fmt (elemBits (fmtWidth h.fmt) ((src c f.a).word l) e))
         (intOf h.fmt (elemBits (fmtWidth h.fmt) ((src c f.b).word l) e))
         (intOf h.fmt (elemBits (fmtWidth h.fmt) ((src c f.c).word l) e)))))

/-- A function of the unsigned element width and the bits of the elements of A and B, in the elements of D. -/
def byBits (h : Hdr) (f : FV) (g : Nat → Nat → Nat → Nat) : Ctx → State → State :=
  toVector f.d (fun _ => h.fmt) (fun c l => mapElems (fmtWidth h.fmt) (fmtElems h.fmt) (fun e =>
    g (fmtWidth h.fmt) (elemBits (fmtWidth h.fmt) ((src c f.a).word l) e)
      (elemBits (fmtWidth h.fmt) ((src c f.b).word l) e)))

/-- A function of the words of A, B and C in D under a tag. -/
def byWord (tag : BitVec 4) (f : FV) (g : Word → Word → Word → Word) : Ctx → State → State :=
  toVector f.d (fun _ => tag) (fun c l => g ((src c f.a).word l) ((src c f.b).word l) ((src c f.c).word l))

/-- The modifiers and the finish of R143 around an exact operation. -/
def finishInt (h : Hdr) (f : FV) (op : Int → Int → Int → Int) (a b x : Int) : Int :=
  let mods (av ng : BitVec 1) (v : Int) : Int :=
    let u := if av == 1#1 then |v| else v
    if ng == 1#1 then -u else u
  let y := op (mods f.aa f.na a) (mods f.ab f.nb b) (mods f.ac f.nc x)
  let z := if 0 ≤ f.scale.toInt then y * 2 ^ f.scale.toInt.toNat
    else (roundInt (y < 0) y.natAbs f.scale.toInt f.rnd.toNat).1
  if f.clamp == 3#2 then max (intLo h.fmt) (min (intHi h.fmt) z) else z

/-- A pass in which an instruction takes no effect, for want of a live lane or since an earlier pass has had it, only
ends, once its checks at decode pass, or the parity of its lines when it is taken up again (R41, R179), and the check of
its own that it makes though no lane takes part (R135). -/
def IdlesOwn (i : Instr) (kind : PassKind) (own : Ctx → State → PreCheck) : Prop :=
  ∀ (s : State) (q : Issue), s.cur = some q →
    let c := passCtx s q i kind
    (if q.checked then lineFault q
      else issueFault (s.warp q.warp) (s.warpLaunch q.warp).info.planeCount q c.p i) = none →
    (c.live = 0#96 ∨ (kind = .first ∧ q.acted (s.warp q.warp) i.opNum = true)) →
    (q.acted (s.warp q.warp) i.opNum = true ∨ own c s = .pass) →
    exec i s = .next (completePass c i false s)
def Idles (i : Instr) (kind : PassKind) : Prop := IdlesOwn i kind (fun _ _ => .pass)

/-- Whether no lane that goes on receives a poisoned word. -/
def cleanWords (bad : Ctx → Nat → Bool) (c : Ctx) (_ : State) : Prop := c.live &&& mkLanes (bad c) = 0#96

/-- A pass that clears its checks and hands a poisoned word to some live lane raises POISON-USE with those lanes, and its
register write does not happen (R142, R217). -/
def TrapsOnPoison (i : Instr) (bad : Ctx → Nat → Bool) : Prop :=
  ∀ (s : State) (q : Issue), s.cur = some q → clears i .vec s q = true →
    let c := passCtx s q i .vec
    c.live &&& mkLanes (bad c) ≠ 0#96 →
    exec i s = .next (trapPass c { cause := 0x0B#8, va := 0#80, lanes := c.live &&& mkLanes (bad c) }
      (countReads c i (readState i s q)))

end Sys2Proof.Claims

open Sys2Proof Sys2Proof.Machine Sys2Proof.Claims

/-! ## Scalar, predicate and address instructions -/

/-- R182: what every scalar arithmetic and logic instruction leaves, and that it completes. -/
def Obligations.ScalarResults : Prop :=
  ∀ (h : Hdr) (f : FV) (fi : FI),
    let sgn := h.fmt == 0#4
    Takes (.smov h f) .scal (toScalar f (fun a _ _ => a)) ∧
    Takes (.smovi h fi) .scal (onWarp (fun c w => w.setS c.e fi.d.toNat fi.imm)) ∧
    Takes (.sadd h f) .scal (toScalar f (fun a b _ => BitVec.ofNat 32 (a.toNat + b.toNat))) ∧
    Takes (.ssub h f) .scal (toScalar f (fun a b _ => BitVec.ofInt 32 ((a.toNat : Int) - b.toNat))) ∧
    Takes (.smul h f) .scal (toScalar f (fun a b _ => BitVec.ofNat 32 (a.toNat * b.toNat))) ∧
    Takes (.smulh h f) .scal (toScalar f (fun a b _ =>
      if sgn then ((a.signExtend 64 * b.signExtend 64).extractLsb' 32 32)
      else ((a.setWidth 64 * b.setWidth 64).extractLsb' 32 32))) ∧
    Takes (.sand h f) .scal (toScalar f (fun a b _ => a &&& b)) ∧
    Takes (.sor h f) .scal (toScalar f (fun a b _ => a ||| b)) ∧
    Takes (.sxor h f) .scal (toScalar f (fun a b _ => a ^^^ b)) ∧
    Takes (.sshl h f) .scal (toScalar f (fun a b _ =>
      if 32 ≤ b.toNat % 256 then 0#32 else a <<< (b.toNat % 256))) ∧
    Takes (.sshr h f) .scal (toScalar f (fun a b _ =>
      if 32 ≤ b.toNat % 256 then 0#32 else a >>> (b.toNat % 256))) ∧
    Takes (.ssar h f) .scal (toScalar f (fun a b _ =>
      if 32 ≤ b.toNat % 256 then (if a.getLsbD 31 then 0xFFFFFFFF#32 else 0#32)
      else a.sshiftRight (b.toNat % 256))) ∧
    Takes (.smin h f) .scal (toScalar f (fun a b _ =>
      if (if sgn then a.sle b else a.ule b) then a else b)) ∧
    Takes (.smax h f) .scal (toScalar f (fun a b _ =>
      if (if sgn then a.sle b else a.ule b) then b else a)) ∧
    Takes (.scmp h f) .scal (toScalar f (fun a b _ =>
      let lt := if sgn then a.slt b else a.ult b
      let holds := match f.fn.toNat with
        | 0 => a == b
        | 1 => a != b
        | 2 => lt
        | 3 => lt || a == b
        | 4 => !lt && a != b
        | _ => !lt
      if holds then 1#32 else 0#32)) ∧
    Takes (.ssel h f) .scal (toScalar f (fun a b x => if x = 0#32 then b else a)) ∧
    Takes (.spopc h f) .scal (toScalar f (fun a _ _ =>
      BitVec.ofNat 32 ((List.range 32).filter (fun i => a.getLsbD i)).length)) ∧
    Takes (.sclz h f) .scal (toScalar f (fun a _ _ =>
      BitVec.ofNat 32 (((List.range 32).find? (fun i => a.getLsbD (31 - i))).getD 32)))

/-- R183, R184, R186: predicate moves and logic, and the address instructions, complete with their effects. -/
def Obligations.PredicateAndAddressResults : Prop :=
  ∀ (h : Hdr) (f : FV) (fi : FI) (fm : FM),
    let pred (c : Ctx) (r : RCode) : Lanes := if r.toNat ≤ 14 then c.view.pbits r.toNat else 0#96
    let put (c : Ctx) (w : Warp) (bits : Lanes) : Warp :=
      if f.d.toNat ≤ 14 then w.setP f.d.toNat c.part bits else w
    let three (c : Ctx) (r : RCode) : Nat := c.view.svals c.e r.toNat 3
    Takes (.plog h f) .scal (onWarp (fun c w => put c w (mkLanes (fun l =>
      f.fn.getLsbD (((pred c f.a).getLsbD l).toNat + 2 * ((pred c f.b).getLsbD l).toNat +
        4 * ((pred c f.c).getLsbD l).toNat))))) ∧
    TakesIf (.pmov h f) .scal (fun _ _ => f.fn = 0#8) (onWarp (fun c w => put c w (pred c f.a))) ∧
    TakesIf (.pmov h f) .scal (fun _ _ => f.fn = 1#8) (onWarp (fun c w =>
      w.setSs c.e f.d.toNat ([0, 1, 2].map (fun k => (pred c f.a).extractLsb' (32 * k) 32)))) ∧
    TakesIf (.pmov h f) .scal (fun _ _ => f.fn = 2#8) (onWarp (fun c w =>
      put c w (BitVec.ofNat 96 (three c f.a)))) ∧
    TakesIf (.pmov h f) .scal (fun _ _ => f.fn = 3#8) (onWarp (fun c w =>
      put c w (if c.view.sval c.e f.a.toNat = 0#32 then 0#96 else BitVec.allOnes 96))) ∧
    Takes (.alea h fm) .scal (onWarp (fun c w => w.setA fm.d.toNat (BitVec.ofInt 80
      ((c.view.aval fm.a.toNat).toNat + (if h.fmt == 0#4 then (c.view.sval c.e fm.x.toNat).toInt
        else (c.view.sval c.e fm.x.toNat).toNat) * 2 ^ fm.ish.toNat + fm.offset.toInt)))) ∧
    TakesIf (.amov h f) .scal (fun _ _ => f.fn = 0#8) (onWarp (fun c w =>
      w.setA f.d.toNat (c.view.aval f.a.toNat))) ∧
    TakesIf (.amov h f) .scal (fun _ _ => f.fn = 1#8) (onWarp (fun c w =>
      w.setA f.d.toNat (BitVec.ofNat 80 (three c f.a)))) ∧
    TakesIf (.amov h f) .scal (fun _ _ => f.fn = 2#8) (onWarp (fun c w =>
      let a := c.view.aval f.a.toNat
      w.setSs c.e f.d.toNat [a.extractLsb' 0 32, a.extractLsb' 32 32, (a.extractLsb' 64 16).setWidth 32])) ∧
    Takes (.amovi h fi) .scal (onWarp (fun _ w => w.setA fi.d.toNat (fi.imm.signExtend 80))) ∧
    TakesIf (.ahi h fi) .scal (fun _ _ => fi.fn = 0#8) (onWarp (fun c w =>
      let a := c.view.aval fi.a.toNat
      w.setA fi.d.toNat (a.extractLsb' 64 16 ++ (fi.imm ++ a.extractLsb' 0 32)))) ∧
    TakesIf (.ahi h fi) .scal (fun _ _ => fi.fn = 1#8) (onWarp (fun c w =>
      w.setA fi.d.toNat (fi.imm.extractLsb' 0 16 ++ (c.view.aval fi.a.toNat).extractLsb' 0 64)))

/-- R189 to R191, R482 to R484: SRD writes the value of the special register, once nothing that it waits for is
outstanding (for FXA the float results, for EVCNT0 to EVCNT3 every producer and every copy command of the warp), and SWR
writes the register, EVSEL after its own issue is counted; without a live lane neither does anything. -/
def Obligations.SpecialRegisterResults : Prop :=
  ∀ (h : Hdr) (f : FX),
    let n := (f.ctl.extractLsb' 0 12).toNat
    TakesIf (.srd h f) .scal
      (fun c s => ¬((n = 0x10 ∧ (s.warp c.k).floatsOut = true) ∨
        (0x41 ≤ n ∧ n ≤ 0x44 ∧ ((s.warp c.k).pend ≠ [] ∨ ∃ x ∈ (s.core (coreOf c.k)).copies, x.warp = c.k))))
      (fun c s => onWarp (fun c w => w.setSs c.e f.e0.toNat (wordsOf ((spWords n).getD 1) (spRead c s n))) c s) ∧
    Takes (.swr h f) .scal (fun c s =>
      onWarp (fun c w => spWrite w n (c.view.svals c.e f.e0.toNat ((spWords n).getD 1))) c
        (if n = 0x40 then countIssue c 1 s else s)) ∧
    Idles (.srd h f) .scal ∧ Idles (.swr h f) .scal

/-! ## Vector integer instructions -/

/-- R143, R144: the integer arithmetic instructions complete with their results, modifiers, SCALE and CLAMP
included. -/
def Obligations.VectorIntegerArithmetic : Prop :=
  ∀ (h : Hdr) (f : FV),
    Takes (.vadd h f) .vec (byElement h f (finishInt h f (fun a b _ => a + b))) ∧
    Takes (.vsub h f) .vec (byElement h f (finishInt h f (fun a b _ => a - b))) ∧
    Takes (.vmul h f) .vec (byElement h f (finishInt h f (fun a b _ => a * b))) ∧
    Takes (.vmad h f) .vec (byElement h f (finishInt h f (fun a b x => a * b + x))) ∧
    Takes (.vabsd h f) .vec (byElement h f (finishInt h f (fun a b _ => |a - b|))) ∧
    Takes (.vmin h f) .vec (byElement h f (finishInt h f (fun a b _ => min a b))) ∧
    Takes (.vmax h f) .vec (byElement h f (finishInt h f (fun a b _ => max a b))) ∧
    Takes (.vmulh h f) .vec (byElement h f (fun a b _ => a * b / 2 ^ fmtWidth h.fmt))

/-- R143: with neutral modifiers the 32-bit formats wrap modulo 2^32. -/
def Obligations.PlainWordArithmetic : Prop :=
  ∀ (h : Hdr) (f : FV), (h.fmt = 0#4 ∨ h.fmt = 1#4) → f.scale = 0#4 → f.clamp = 0#2 →
    f.aa = 0#1 → f.na = 0#1 → f.ab = 0#1 → f.nb = 0#1 → f.ac = 0#1 → f.nc = 0#1 →
    Takes (.vadd h f) .vec (byWord h.fmt f (fun a b _ => a + b)) ∧
    Takes (.vsub h f) .vec (byWord h.fmt f (fun a b _ => a - b)) ∧
    Takes (.vmul h f) .vec (byWord h.fmt f (fun a b _ => a * b)) ∧
    Takes (.vmad h f) .vec (byWord h.fmt f (fun a b x => a * b + x))

/-- R145, R146: moves, tags and bitwise instructions complete with their results. -/
def Obligations.MovesAndBitwise : Prop :=
  ∀ (h : Hdr) (f : FV) (fi : FI),
    Takes (.vmov h f) .vec (toVector f.d (fun c => if (src c f.a).free then h.fmt else (src c f.a).tag)
      (fun c l => (src c f.a).word l)) ∧
    Takes (.vmovi h fi) .vec (toVector fi.d (fun _ => h.fmt) (fun _ _ => fi.imm)) ∧
    Takes (.vtag h f) .vec (toVector f.d (fun _ => h.fmt) (fun c l => (src c f.a).word l)) ∧
    Takes (.vand h f) .vec (byWord 14#4 f (fun a b _ => a &&& b)) ∧
    Takes (.vor h f) .vec (byWord 14#4 f (fun a b _ => a ||| b)) ∧
    Takes (.vxor h f) .vec (byWord 14#4 f (fun a b _ => a ^^^ b)) ∧
    Takes (.vbool h f) .vec (byWord 14#4 f (fun a b x => BitVec.ofNat 32 (bitsNat (fun i =>
      f.fn.getLsbD ((a.getLsbD i).toNat + 2 * (b.getLsbD i).toNat + 4 * (x.getLsbD i).toNat)) 32)))

/-- R147 to R149: bit counts, bit fields and shifts complete with their results. -/
def Obligations.BitCountsFieldsAndShifts : Prop :=
  ∀ (h : Hdr) (f : FV),
    let pos (b : Word) : Nat := min (b.toNat % 256) 32
    let len (b : Word) : Nat := min (b.toNat / 256 % 256) (32 - pos b)
    Takes (.vpopc h f) .vec (byBits h f (fun w a _ => ((List.range w).filter (fun i => a.testBit i)).length)) ∧
    Takes (.vclz h f) .vec (byBits h f (fun w a _ =>
      ((List.range w).find? (fun i => a.testBit (w - 1 - i))).getD w)) ∧
    Takes (.vbrev h f) .vec (byBits h f (fun w a _ => bitsNat (fun i => a.testBit (w - 1 - i)) w)) ∧
    Takes (.vshl h f) .vec (byBits h f (fun w a b => if w ≤ b % 256 then 0 else (a <<< (b % 256)) % 2 ^ w)) ∧
    Takes (.vshr h f) .vec (byBits h f (fun w a b => if w ≤ b % 256 then 0 else a >>> (b % 256))) ∧
    Takes (.vsar h f) .vec (byBits h f (fun w a b => bitsOfInt w
      (if w ≤ b % 256 then (if a.testBit (w - 1) then -1 else 0) else signedOf w a / 2 ^ (b % 256)))) ∧
    Takes (.vbfx h f) .vec (byWord h.fmt f (fun a b _ =>
      if len b = 0 then 0#32
      else
        let x := a.toNat / 2 ^ pos b % 2 ^ len b
        if h.fmt == 0#4 && x.testBit (len b - 1) then BitVec.ofInt 32 ((x : Int) - 2 ^ len b)
        else BitVec.ofNat 32 x)) ∧
    Takes (.vbfi h f) .vec (byWord h.fmt f (fun a b x => BitVec.ofNat 32 (bitsNat (fun i =>
      if pos b ≤ i && i < pos b + len b then a.getLsbD (i - pos b) else x.getLsbD i) 32)))

/-- R142, R150 to R154, R217: compares, select and the lane exchanges complete with their results; a select or an
exchange that would hand a live lane a poisoned word traps instead, with POISON-USE and the lanes handed one. -/
def Obligations.CompareSelectExchange : Prop :=
  ∀ (h : Hdr) (f : FV) (fi : FI),
    let w := fmtWidth h.fmt
    let holds (cond : Nat) (a b : Word) : Bool := (List.range (fmtElems h.fmt)).all (fun e =>
      let x := intOf h.fmt (elemBits w a e)
      let y := intOf h.fmt (elemBits w b e)
      match cond with
      | 0 => x == y
      | 1 => x != y
      | 2 => decide (x < y)
      | 3 => decide (x ≤ y)
      | 4 => decide (y < x)
      | _ => decide (y ≤ x))
    let pick (c : Ctx) (l : Nat) : Bool := (c.view.pbits f.c.toNat).getLsbD l
    let given (g : Ctx → Nat → Nat) : Ctx → State → State :=
      toVector f.d (fun c => if (src c f.a).free then h.fmt else (src c f.a).tag)
        (fun c l => if g c l < 96 then (src c f.a).word (g c l) else 0#32)
    let bad (g : Ctx → Nat → Nat) (c : Ctx) (l : Nat) : Bool :=
      g c l < 96 && (src c f.a).poison.getLsbD (g c l)
    let either (c : Ctx) (l : Nat) : Bool :=
      if pick c l then (src c f.a).poison.getLsbD l else (src c f.b).poison.getLsbD l
    let vlane (c : Ctx) (_ : Nat) : Nat := (c.view.sval c.e f.b.toNat).toNat
    let vperm (c : Ctx) (l : Nat) : Nat := ((src c f.b).word l).toNat
    let qxch (_ : Ctx) (l : Nat) : Nat := 4 * (l / 4) + (f.fn.toNat / 4 ^ (l % 4)) % 4
    Takes (.vcmpReg h f) .vec (toPred f.d (fun c l =>
      holds (f.fn.toNat % 16) ((src c f.a).word l) ((src c f.b).word l))) ∧
    Takes (.vcmpImm h fi) .vec (toPred fi.d (fun c l =>
      holds (fi.fn.toNat % 16) ((src c fi.a).word l) fi.imm)) ∧
    TakesIf (.vsel h f) .vec (cleanWords either)
      (toVector f.d
        (fun c => if !(src c f.a).free then (src c f.a).tag else if !(src c f.b).free then (src c f.b).tag
          else 14#4)
        (fun c l => if pick c l then (src c f.a).word l else (src c f.b).word l)) ∧
    TakesIf (.vlane h f) .vec (cleanWords (bad vlane)) (given vlane) ∧
    TakesIf (.vperm h f) .vec (cleanWords (bad vperm)) (given vperm) ∧
    TakesIf (.qxch h f) .vec (cleanWords (bad qxch)) (given qxch) ∧
    TrapsOnPoison (.vsel h f) either ∧ TrapsOnPoison (.vlane h f) (bad vlane) ∧
    TrapsOnPoison (.vperm h f) (bad vperm) ∧ TrapsOnPoison (.qxch h f) (bad qxch)

/-- R141, R142, R155 to R157, R238: reductions and votes write their scalar at the last pass that contributes, scans
their lanes in every pass; no contributing word is poisoned. That the lanes of all passes of the opcode contribute, each
read as the word of its own plane names it, and that FN, FMT and D are those of the last contributing pass's word, is the
model's reading (DEDUCED; log 17). In a split without an active lane they do nothing (R238), which the model reads as the
rule that comes before the identity of R155 (log 17). -/
def Obligations.ReduceScanVote : Prop :=
  ∀ (h : Hdr) (f : FV),
    let op := f.fn.toNat % 8
    let all (c : Ctx) (o : Nat) : Lanes := contributing c o
    let words (c : Ctx) (o : Nat) : Nat → Word := vectorOf c (contributions c o)
    let split (c : Ctx) : Lanes := c.view.execMask c.e &&& c.view.live
    let clean (o : Nat) (bad : Ctx → Nat → Lanes) (c : Ctx) : Prop :=
      split c ≠ 0#96 ∧ ∀ x ∈ contributions c o, x.2 &&& bad c (fieldA x.1) = 0#96
    let vec (c : Ctx) (a : Nat) : Lanes := (c.view.src c.e a).poison
    let vote (c : Ctx) (a : Nat) : Lanes := beatLanes (c.view.pPoison a)
    TakesIf (.vred h f) .vec (fun c _ => clean 0x5C vec c ∧ lastPass c 0x5C = true) (onWarp (fun c w =>
      let r := reduceLanes h.fmt op (all c 0x5C) (words c 0x5C)
      (w.setS c.e f.d.toNat r.1).orFlags r.2)) ∧
    TakesIf (.vred h f) .vec (fun c _ => clean 0x5C vec c ∧ lastPass c 0x5C = false) (fun _ s => s) ∧
    TakesIf (.vscan h f) .vec (fun c _ => clean 0x5D vec c) (onWarp (fun c w =>
      let rs := scanLanes h.fmt op (f.fn.getLsbD 3) (words c 0x5D) (lanesOf (all c 0x5D)) none
      (tagged c f.d h.fmt c.live (fun l => match tget rs l with | some r => r.1 | none => 0#32) w).orFlags
        ((rs.filter (fun r => c.live.getLsbD r.1)).foldl (fun a r => a ||| r.2.2) 0#5))) ∧
    TakesIf (.vred h f) .vec (fun c _ => split c = 0#96) (fun _ s => s) ∧
    TakesIf (.vscan h f) .vec (fun c _ => split c = 0#96) (fun _ s => s) ∧
    TakesIf (.vvote h f) .vec (fun c _ => split c = 0#96) (fun _ s => s) ∧
    TakesIf (.vvote h f) .vec (fun c _ => clean 0x5E vote c ∧ lastPass c 0x5E = true) (onWarp (fun c w =>
      let m := all c 0x5E
      let p := votesOf c (contributions c 0x5E)
      match f.fn.toNat with
      | 0 => w.setSs c.e f.d.toNat [if m &&& ~~~p = 0#96 then 1#32 else 0#32]
      | 1 => w.setSs c.e f.d.toNat [if m &&& p = 0#96 then 0#32 else 1#32]
      | 2 => w.setSs c.e f.d.toNat [if m &&& ~~~p = 0#96 ∨ m &&& p = 0#96 then 1#32 else 0#32]
      | 3 => w.setSs c.e f.d.toNat ([0, 1, 2].map (fun k => (m &&& p).extractLsb' (32 * k) 32))
      | _ => w.setSs c.e f.d.toNat [BitVec.ofNat 32 (laneCount (m &&& p))])) ∧
    TakesIf (.vvote h f) .vec (fun c _ => clean 0x5E vote c ∧ lastPass c 0x5E = false) (fun _ s => s)

/-! ## Vector floating-point instructions -/

namespace Sys2Proof.Claims

open Sys2Proof Sys2Proof.Machine

/-- A function of the elements of A, B and C, as exact values with their modifiers, in the elements of D; the
flags of the live lanes join FXA (R133, R134). -/
def byFloat (h : Hdr) (f : FV) (t : BitVec 4) (n : Nat) (g : Ctx → Nat → (Nat → FVal) → (Nat → FVal) →
    (Nat → FVal) → Nat → Nat × FFlags) (c : Ctx) (s : State) : State :=
  let val (av ng : BitVec 1) (r : RCode) (l e : Nat) : FVal := floatElem t av ng (src c r) l e
  let word (l : Nat) : Word × FFlags := floatWord (32 / n) n
    (g c l (val f.aa f.na f.a l) (val f.ab f.nb f.b l) (val f.ac f.nc f.c l))
  onWarp (fun c w => (tagged c f.d h.fmt c.part (fun l => (word l).1) w).orFlags
    ((lanesOf c.live).foldl (fun a l => a ||| (word l).2) 0#5)) c s

/-- SCALE, CLAMP and the one rounding of R162, with the flags joined. -/
def finishTo (fmt : BitVec 4) (f : FV) (x : FVal × FFlags) : Nat × FFlags :=
  let y := finishVal x.1 fmt f.scale.toInt f.clamp.toNat f.rnd.toNat
  (y.1, x.2 ||| y.2)

/-- A special function of the elements of A: its destination is tagged and empty, and its lanes and flags wait for
the writeback (R104, R112, R171). -/
def special (h : Hdr) (f : FV) (g : Ctx → Nat → Nat → Nat × FFlags) (c : Ctx) (s : State) : State :=
  let word (l : Nat) : Word × FFlags := floatWord (fmtWidth h.fmt) (fmtElems h.fmt) (g c l)
  let out : VWrite := { reg := f.d.toNat, mask := c.part, poison := 0#96,
                        words := mkWords (fun l => if c.part.getLsbD l then (word l).1 else 0#32) }
  let flags : FFlags := (lanesOf c.live).foldl (fun a l => a ||| (word l).2) 0#5
  let kept : Bool := isV f.d.toNat || isKv f.d.toNat
  if c.part = 0#96 then (if c.any then onWarp (fun _ w => w.putTag f.d.toNat h.fmt) c s else s)
  else onWarp (fun c w => w.produceV c.q.wb h.fmt [f.d.toNat] (fun b =>
    { b with vwrites := (if kept then b.vwrites ++ [out] else b.vwrites), flags := b.flags ||| flags, isFloat := true })) c s

/-- The value that R169 leaves open for an operation, by format, source, SCALE and CLAMP (log 9). -/
def openChoice (op : Nat) (h : Hdr) (f : FV) (c : Ctx) (l e : Nat) : Nat :=
  Config.specialChoice (4 * op + 2 * f.na.toNat + f.aa.toNat) h.fmt.toNat
    (elemBits (fmtWidth h.fmt) ((src c f.a).word l) e) f.scale.toNat f.clamp.toNat

/-- A result that has not overflowed is one of the format's values from v - bound to v + bound in units of 2^q, limited
by CLAMP, where one lies there: a position between the least and the greatest of them. -/
def inWindow (fmt : BitVec 4) (v q : Int) (bound clamp : Nat) (r : Nat × FFlags) : Prop :=
  let val (x : Int) : FVal := clampVal clamp (.fin (x < 0) x.natAbs q)
  let w := codesWithin (ffmt fmt) (val (v - bound)) (val (v + bound))
  r.2 &&& flagOF = 0#5 → w.1 ≤ w.2 →
  ∃ (n : Int) (z : Bool), r.1 = codeBits (ffmt fmt) z n ∧ w.1 ≤ n ∧ n ≤ w.2

end Sys2Proof.Claims

/-- R162 to R164, R167, R168: the arithmetic instructions complete; each result is computed exactly and rounded
once. -/
def Obligations.FloatArithmetic : Prop :=
  ∀ (h : Hdr) (f : FV),
    let n := fmtElems h.fmt
    Takes (.fadd h f) .vec (byFloat h f h.fmt n (fun _ _ a b _ e =>
      finishTo h.fmt f (sumVals [a e, b e] f.rnd.toNat))) ∧
    Takes (.fsub h f) .vec (byFloat h f h.fmt n (fun _ _ a b _ e =>
      finishTo h.fmt f (sumVals [a e, (b e).neg] f.rnd.toNat))) ∧
    Takes (.fmul h f) .vec (byFloat h f h.fmt n (fun _ _ a b _ e => finishTo h.fmt f (mulVals (a e) (b e)))) ∧
    Takes (.ffma h f) .vec (byFloat h f h.fmt n (fun _ _ a b x e =>
      finishTo h.fmt f (dotVals (x e) [(a e, b e)] f.rnd.toNat))) ∧
    Takes (.fmin h f) .vec (byFloat h f h.fmt n (fun _ _ a b _ e => minMax h.fmt false (a e) (b e))) ∧
    Takes (.fmax h f) .vec (byFloat h f h.fmt n (fun _ _ a b _ e => minMax h.fmt true (a e) (b e))) ∧
    Takes (.frnd h f) .vec (byFloat h f h.fmt n (fun _ _ a _ _ e =>
      roundIntegral h.fmt f.rnd.toNat f.clamp.toNat (scaleVal f.scale.toInt (a e)))) ∧
    Takes (.fdot2 h f) .vec (byFloat h f (f.fn.extractLsb' 0 4) 1 (fun c l a b _ _ =>
      finishTo 6#4 f (dotVals (elemVal 6#4 ((src c f.c).word l).toNat) [(a 0, b 0), (a 1, b 1)] f.rnd.toNat)))

/-- R165, R166: the comparison sets the lane's bit when the condition holds of every element; the class test when
every element's class is in the mask. -/
def Obligations.FloatCompareAndClass : Prop :=
  ∀ (h : Hdr) (f : FV),
    let n := fmtElems h.fmt
    let one (c : Ctx) (l e : Nat) : Bool × FFlags := fcmpVal (f.fn.toNat % 16)
      (floatElem h.fmt f.aa f.na (src c f.a) l e) (floatElem h.fmt f.ab f.nb (src c f.b) l e)
    let flags (c : Ctx) (l : Nat) : FFlags := (List.range n).foldl (fun x e => x ||| (one c l e).2) 0#5
    Takes (.fcmp h f) .vec (onWarp (fun c w =>
      (w.setP f.d.toNat c.part (mkLanes (fun l => (List.range n).all (fun e => (one c l e).1)))).orFlags
        ((lanesOf c.live).foldl (fun a l => a ||| flags c l) 0#5))) ∧
    Takes (.fclass h f) .vec (toPred f.d (fun c l => (List.range n).all (fun e =>
      (c.view.sval c.e f.b.toNat).getLsbD
        (classBit h.fmt (elemBits (fmtWidth h.fmt) ((src c f.a).word l) e)))))

/-- R172 to R175: conversions complete, each element converted with one rounding; VPACK writes the elements of A
and then of B from the place FN names and keeps the others of C, VUNPK converts the elements from that place. -/
def Obligations.Conversions : Prop :=
  ∀ (h : Hdr) (f : FV),
    let t := f.fn.extractLsb' 0 4
    let place := (f.fn.extractLsb' 4 4).toNat
    let n := fmtElems h.fmt
    let m := fmtElems t
    let cvt (x : FVal) : Nat × FFlags := finishVal x h.fmt f.scale.toInt f.clamp.toNat f.rnd.toNat
    Takes (.vcvt h f) .vec (byFloat h f t n (fun _ _ a _ _ e => cvt (a e))) ∧
    Takes (.vunpk h f) .vec (byFloat h f t n (fun _ _ a _ _ e => cvt (a (n * place + e)))) ∧
    Takes (.vpack h f) .vec (byFloat h f t n (fun c l a b _ e =>
      let first := 2 * m * place
      if first ≤ e ∧ e < first + m then cvt (a (e - first))
      else if first + m ≤ e ∧ e < first + 2 * m then cvt (b (e - first - m))
      else (elemBits (fmtWidth h.fmt) ((src c f.c).word l) e, 0#5)))

/-- R169 to R171: the special functions complete: FRCP and FSQRT exactly rounded, the others with the value that the free
choice of log 9 takes. Whatever the choice, an FRSQ that is not exact is the exact root rounded down or up, or, where it
would overflow, rounded to nearest; and an FEXP2, FLOG2, FSIN or FCOS that R169 does not name exact lies within a window
about the model's fixed-point value of the function: R169's accuracy, 2 ulp or 2^-22, made smaller by more than the
error of that arithmetic (that error itself is not proved here). That the accuracy is taken of the result after SCALE,
the ulp at the exact value, and the zero of FLOG2 of 1 positive, is the model's choice (DESIGN CHOICE; log 9). The
infinities and zeros of R170 give its results with their flags. -/
def Obligations.SpecialFunctions : Prop :=
  ∀ (h : Hdr) (f : FV),
    let a (c : Ctx) (l e : Nat) : FVal := floatElem h.fmt f.aa f.na (src c f.a) l e
    let k := f.scale.toInt
    let cl := f.clamp.toNat
    Takes (.frcp h f) .vec (special h f (fun c l e => finishTo h.fmt f (frcpVal (a c l e)))) ∧
    Takes (.fsqrt h f) .vec (special h f (fun c l e => finishTo h.fmt f (fsqrtVal (a c l e)))) ∧
    Takes (.frsq h f) .vec (special h f (fun c l e =>
      frsqBits h.fmt (a c l e) k cl (openChoice 0x69 h f c l e))) ∧
    Takes (.fexp2 h f) .vec (special h f (fun c l e =>
      fexp2Bits h.fmt (a c l e) k cl (openChoice 0x6B h f c l e))) ∧
    Takes (.flog2 h f) .vec (special h f (fun c l e =>
      flog2Bits h.fmt (a c l e) k cl (openChoice 0x6C h f c l e))) ∧
    Takes (.fsin h f) .vec (special h f (fun c l e =>
      fsinBits h.fmt (a c l e) k cl (openChoice 0x6D h f c l e))) ∧
    Takes (.fcos h f) .vec (special h f (fun c l e =>
      fcosBits h.fmt (a c l e) k cl (openChoice 0x6E h f c l e))) ∧
    (∀ (fmt : BitVec 4) (b : Bool) (m : Nat) (e scale : Int) (clamp choice : Nat), m ≠ 0 →
      let g := ffmt fmt
      let x := FVal.fin b m e
      let n : Int := satInt (splitFix b m e).1 (-1000) 1000
      let v : Int := exp2Fix (splitFix b m e).2
      let w : Int := log2Fix m e
      let small : Bool := (bitLen m : Int) + e < -40
      let half : Int := gridInt b m e (min e (-1)) + 2 ^ (-1 - min e (-1)).toNat
      let root := clampVal clamp (scaleVal scale (rsqrtVal m e))
      (b = false → (isPow2 m && ((Nat.log2 m : Int) + e) % 2 == 0) = false →
        (frsqBits fmt x scale clamp choice).1 ∈
          [(toFmt root fmt 3 clamp).1, (toFmt root fmt 2 clamp).1, (toFmt root fmt 4 clamp).1]) ∧
      (isWhole m e = false → g.qmin ≤ n + scale →
        inWindow fmt v (n + scale - 96) (twoUlp g v (n + scale - 96) - 2 ^ 12) clamp
          (fexp2Bits fmt x scale clamp choice)) ∧
      (b = false → isPow2 m = false →
        inWindow fmt w (scale - 48) (max (twoUlp g w (scale - 48)) (2 ^ (26 - scale).toNat) - 2) clamp
          (flog2Bits fmt x scale clamp choice)) ∧
      (isWhole m e = false → isWhole m (e + 1) = false → small = false →
        inWindow fmt (sinPi b m e) (scale - 96) (2 ^ (74 - scale).toNat - 2 ^ 12) clamp
          (fsinBits fmt x scale clamp choice)) ∧
      (isWhole m e = false → isWhole m (e + 1) = false → small = true →
        inWindow fmt (if b then -((m * piFix : Nat) : Int) else (m * piFix : Nat)) (e + scale - 96)
          (2 ^ (74 - scale - e).toNat - m) clamp (fsinBits fmt x scale clamp choice)) ∧
      (isWhole m e = false → isWhole m (e + 1) = false →
        inWindow fmt (sinPi (half < 0) half.natAbs (min e (-1))) (scale - 96) (2 ^ (74 - scale).toNat - 2 ^ 12) clamp
          (fcosBits fmt x scale clamp choice))) ∧
    ∀ (fmt : BitVec 4) (b : Bool) (choice : Nat), fmt ∈ [6#4, 7#4, 8#4] →
      let g := ffmt fmt
      let one : Nat := g.bias * 2 ^ g.frac
      let zero := FVal.fin b 0 g.qmin
      let nan : Nat × FFlags := (g.qnan, flagNV)
      frsqBits fmt (.inf true) 0 0 choice = nan ∧ frsqBits fmt (.inf false) 0 0 choice = (0, 0#5) ∧
      frsqBits fmt zero 0 0 choice = (g.infBits b, flagDZ) ∧
      fexp2Bits fmt (.inf true) 0 0 choice = (0, 0#5) ∧
      fexp2Bits fmt (.inf false) 0 0 choice = (g.infBits false, 0#5) ∧ fexp2Bits fmt zero 0 0 choice = (one, 0#5) ∧
      flog2Bits fmt (.inf true) 0 0 choice = nan ∧ flog2Bits fmt (.inf false) 0 0 choice = (g.infBits false, 0#5) ∧
      flog2Bits fmt zero 0 0 choice = (g.infBits true, flagDZ) ∧
      fsinBits fmt (.inf b) 0 0 choice = nan ∧ fsinBits fmt zero 0 0 choice = (g.sign b, 0#5) ∧
      fcosBits fmt (.inf b) 0 0 choice = nan ∧ fcosBits fmt zero 0 0 choice = (one, 0#5)

/-! ## The transform pipe -/

namespace Sys2Proof.Claims

open Sys2Proof Sys2Proof.Machine

/-- A request at the tail of the core's pipe queue; its destinations are tagged and empty, its scalars empty, and
the reply owes them (R194, R195). -/
def piped (i : Instr) (lanes : Lanes) (vs : List VReg) (ss : List Word) (vd : TagList) (sd : List Nat)
    (float : Bool) (c : Ctx) (s : State) : State :=
  let r : XRequest :=
    { warp := c.k, wb := c.q.wb, instr := i, lanes := lanes, vsrcs := vs, ssrcs := ss, started := false }
  (s.modCore (coreOf c.k) (fun g => { g with pipe := g.pipe ++ [r] })).modWarp c.k (fun w =>
    let w1 := (vd.foldl (fun w d => w.produceV c.q.wb d.2 [d.1] id) w).produceS c.q.wb sd id
    w1.modWb c.q.wb (fun b => { b with
      byPipe := true, isFloat := float
      swrites := (sd.filter isS).map (fun d => { entry := splitName w c.e, reg := d - 768, val := 0#32, poison := false }) }))

/-- The pipe has room and no acquire of the warp is outstanding (R194, R350); and a live lane takes part. -/
def pipeRoom (c : Ctx) (s : State) : Prop :=
  (s.core (coreOf c.k)).pipe.length < 8 ∧ (s.warp c.k).acquireOut = false
def pipeFree (c : Ctx) (s : State) : Prop := c.live ≠ 0#96 ∧ pipeRoom c s

/-- No lane of a set is poisoned in the registers of a list. -/
def cleanIn (c : Ctx) (rs : List Nat) (m : Lanes) : Prop :=
  ∀ r ∈ rs, (c.view.src c.e r).poison &&& m = 0#96

end Sys2Proof.Claims

/-- R194 to R206, R350: the transform instructions complete by queuing their request, with every source read, when the
pipe has room, no acquire of the warp is outstanding and their own checks pass (for XDEC: counts of at most 64, an aligned stream that lies in shared
memory; for XTOPK and XPLANE: no poisoned word). -/
def Obligations.TransformRequests : Prop :=
  ∀ (h : Hdr) (f : FX),
    let sv (c : Ctx) (n : Nat) : Word := c.view.sval c.e n
    let n := (f.ctl.extractLsb' 0 3).toNat + 1
    let dests (c : Ctx) : TagList := (f.e0.toNat, h.fmt) :: (if f.e3 = 643#10 then [] else
      [(f.e3.toNat, if f.e2 = 643#10 then 14#4 else (c.view.src c.e f.e2.toNat).tag)])
    TakesIf (.xdec h f) .once
      (fun c s => pipeFree c s ∧
        (∀ l, c.live.getLsbD l = true → ((c.view.src c.e (f.e1.toNat + 2)).word l).toNat % 128 ≤ 64) ∧
        (sv c f.e3.toNat).toNat % 4 = 0 ∧
        ((sv c (f.e3.toNat + 1)).toNat = 0 ∨
          (sv c f.e3.toNat).toNat + 4 * (sv c (f.e3.toNat + 1)).toNat ≤ (s.warpLaunch c.k).info.sarea))
      (fun c s => piped (.xdec h f) c.live ([0, 1, 2].map (fun j => c.handed (f.e1.toNat + j)))
        [sv c f.e2.toNat, sv c (f.e2.toNat + 1), sv c f.e3.toNat, sv c (f.e3.toNat + 1)]
        [(f.e0.toNat, 1#4), (f.e1.toNat, 14#4), (f.e1.toNat + 1, 14#4), (f.e1.toNat + 2, 1#4)]
        [f.e2.toNat, f.e2.toNat + 1] false c s) ∧
    TakesIf (.xscan h f) .once pipeFree (fun c s =>
      piped (.xscan h f) c.live ((List.range n).map (fun j => c.handed (f.e1.toNat + j))) [sv c f.e2.toNat]
        ((List.range n).map (fun j => (f.e0.toNat + j, h.fmt))) [f.e2.toNat] (h.fmt == 6#4) c s) ∧
    TakesIf (.xsort h f) .once pipeFree (fun c s =>
      piped (.xsort h f) c.live [c.handed f.e1.toNat, c.handed f.e2.toNat] [] (dests c) [] false c s) ∧
    TakesIf (.xtopk h f) .once
      (fun c s => pipeFree c s ∧ (f.ctl.getLsbD 8 = true → cleanIn c [f.e0.toNat, f.e3.toNat]
        (mkLanes (fun l => l < (f.ctl.extractLsb' 0 7).toNat + 1))))
      (fun c s => piped (.xtopk h f) c.live
        ([c.handed f.e1.toNat, c.handed f.e2.toNat] ++
          (if f.ctl.getLsbD 8 then [c.handed f.e0.toNat, c.handed f.e3.toNat] else []))
        [] (dests c) [] false c s) ∧
    TakesIf (.xplane h f) .once
      (fun c s => pipeRoom c s ∧
        cleanIn c (span f.e1.toNat (if f.ctl.getLsbD 0 then (f.ctl.extractLsb' 1 4).toNat else hsBits h.fmt))
          (BitVec.allOnes 96))
      (fun c s =>
        let k := hsBits h.fmt
        piped (.xplane h f) (BitVec.allOnes 96)
          ((span f.e1.toNat (if f.ctl.getLsbD 0 then (f.ctl.extractLsb' 1 4).toNat else k)).map c.handed) []
          ((span f.e0.toNat k).map (fun d => (d, if f.ctl.getLsbD 0 then h.fmt else 14#4))) [] false c s)

/-! ## Control instructions -/

namespace Sys2Proof.Claims

open Sys2Proof Sys2Proof.Machine

/-- The lanes of the pass join the issue's moves, to an offset, with the reconvergence point named (R238); of planes
that name several the first stands (log 41). -/
def movesTo (m : Lanes) (o : Word) (p : Option Word) (s : State) : State :=
  s.modCur (fun q => { q with
    moves := q.moves ++ [(m, o)]
    point := match q.point with | some x => some x | none => p })

/-- a63 holds the code pointer of the offset that follows (R232, R255). -/
def linked (c : Ctx) (s : State) : State :=
  s.modWarp c.k (fun w => w.setA 767 (pointerOf (following c.q.offset)))

/-- The point that an instruction names by line and slot, a signed number of lines away (R56). -/
def pointNamed (s : State) (c : Ctx) (rline : BitVec 27) (rslot : BitVec 3) (p : Option Word) : Prop :=
  if rslot = 7#3 then p = none
  else p.isSome ∧ offsetAt (lineOf c.q.offset) rline.toInt rslot.toNat (strideOf s c.k) = p

/-- The lanes may transfer: some lane does, and in trap mode every active lane does (R252). -/
def transfers (s : State) (c : Ctx) : Prop :=
  c.live ≠ 0#96 ∧ ((s.warp c.k).trapMode = true → c.act &&& ~~~c.live = 0#96)

/-- The target line of every plane in which a lane transfers directly is there in the first pass (R505). -/
def targetsHeld (s : State) (c : Ctx) : Prop :=
  c.q.took = [] → ∀ x ∈ directTargets s c, ∃ b, getLine s c.k x.1 x.2.1 = .line b

/-- A direct target at which the lanes land, in the pass's plane (R250, R255). -/
def landsAt (f : FC) (s : State) (c : Ctx) (o : Word) : Prop :=
  targetsHeld s c ∧
  offsetAt (lineOf c.q.offset) f.tline.toInt f.tslot.toNat (strideOf s c.k) = some o ∧
  landing s c.k c.p o none = .lands

/-- An indirect target at which the lanes land, in every plane that holds one of them (R251, R256). -/
def landsByPointer (f : FCX) (pad : Option (BitVec 7)) (s : State) (c : Ctx) : Prop :=
  let a := c.view.aval f.a.toNat
  let o : Word := a.setWidth 32
  a.toNat < 2 ^ 32 ∧ slotNum o < 5 ∧ offsetInRange s c.k o = true ∧
  ∀ n ∈ c.q.todo, activeLanes c.view c.q n &&& c.live ≠ 0#96 → landing s c.k n o pad = .lands

end Sys2Proof.Claims

/-- R252, R254 to R256, R505: NOP and PAD change nothing but the split's place; BRA and CALL move the lanes of the pass
to their target, once the target line of every plane in which a lane transfers is there, BRX, CALLX and RET to the
pointer's, and the calls write a63; with no live lane that takes part nothing moves. Which plane's reconvergence point
the one token takes is the model's choice (DESIGN CHOICE; log 41). -/
def Obligations.TransfersComplete : Prop :=
  ∀ (h : Hdr) (bits : BitVec 72) (f : FC) (fx : FCX) (o : Word) (p : Option Word),
    let o' (c : Ctx) : Word := (c.view.aval fx.a.toNat).setWidth 32
    Takes (.nop h bits) .vec (fun _ s => s) ∧
    Takes (.pad h f) .vec (fun _ s => s) ∧
    TakesIf (.bra h f) .vec (fun c s => transfers s c ∧ landsAt f s c o ∧ pointNamed s c f.rline f.rslot p)
      (fun c s => movesTo c.live o p s) ∧
    TakesIf (.call h f) .vec (fun c s => transfers s c ∧ landsAt f s c o ∧ pointNamed s c f.rline f.rslot p)
      (fun c s => movesTo c.live o p (linked c s)) ∧
    TakesIf (.brx h fx) .once
      (fun c s => transfers s c ∧ landsByPointer fx (some fx.tag) s c ∧ pointNamed s c fx.rline fx.rslot p)
      (fun c s => movesTo c.live (o' c) p s) ∧
    TakesIf (.callx h fx) .once
      (fun c s => transfers s c ∧ landsByPointer fx (some fx.tag) s c ∧ pointNamed s c fx.rline fx.rslot p)
      (fun c s => movesTo c.live (o' c) p (linked c s)) ∧
    TakesIf (.ret h fx) .once
      (fun c s => transfers s c ∧ landsByPointer fx none s c ∧ pointNamed s c fx.rline fx.rslot p)
      (fun c s => movesTo c.live (o' c) p s) ∧
    TakesIf (.bra h f) .vec (fun c s => c.live = 0#96 ∧ targetsHeld s c) (fun _ s => s) ∧
    TakesIf (.call h f) .vec (fun c s => c.live = 0#96 ∧ targetsHeld s c) (fun _ s => s) ∧
    TakesIf (.brx h fx) .once (fun c _ => c.live = 0#96) (fun _ s => s) ∧
    TakesIf (.callx h fx) .once (fun c _ => c.live = 0#96) (fun _ s => s) ∧
    TakesIf (.ret h fx) .once (fun c _ => c.live = 0#96) (fun _ s => s)

/-- R91, R93, R257 to R261, R505: EXIT takes its lanes out of the warp, JOIN pushes a token over every member (or, with no
slot or depth left, is counted), YIELD marks its split, in trap mode the trap split, PLANE gives each lane its new
plane, when the lines on which lanes of any plane land are there, IPREF requests its lines; WSET replaces the working set in every plane pass of
a split with an active lane. -/
def Obligations.ControlInstructionsComplete : Prop :=
  ∀ (h : Hdr) (f : FC) (fx : FX) (fw : FW) (w1 : Warp) (p : Word),
    let acts (c : Ctx) (s : State) : Prop := c.live ≠ 0#96 ∧ (s.warp c.k).trapMode = false
    let plane (c : Ctx) (l : Nat) : Nat :=
      if fx.ctl.getLsbD 2 then ((src c fx.e0).word l).toNat % 4 else fx.ctl.toNat % 4
    let taken (c : Ctx) (n : Nat) : Lanes := c.live &&& mkLanes (fun l => plane c l == n)
    let new : List WsRange := fw.used.map (fun r => { base := r.1, len := r.2 })
    TakesIf (.exit h fx) .vec acts (fun c s => gangBreak c.k (s.modWarp c.k (fun w => w.leave c.live))) ∧
    TakesIf (.join h f) .once
      (fun c s => acts c s ∧ f.rslot ≠ 7#3 ∧ pointNamed s c f.rline f.rslot (some p) ∧
        (s.warp c.k).pushToken c.e p = some w1)
      (fun c s => s.setWarp c.k w1) ∧
    TakesIf (.join h f) .once
      (fun c s => acts c s ∧ f.rslot ≠ 7#3 ∧ pointNamed s c f.rline f.rslot (some p) ∧
        (s.warp c.k).pushToken c.e p = none)
      (fun c s => countWarp 0x06 1 c.k s) ∧
    TakesIf (.yield h fx) .vec acts (onWarp (fun c w =>
      w.modSplit c.e (fun x => { x with yielded := true, aged := false }))) ∧
    TakesIf (.yield h fx) .vec (fun c s => c.live ≠ 0#96 ∧ (s.warp c.k).trapMode = true) (onWarp (fun _ w =>
      { w with trapSplit := w.trapSplit.map (fun t => { t with yielded := true, aged := false }) })) ∧
    TakesIf (.yield h fx) .vec (fun c _ => c.live = 0#96) (fun _ s => s) ∧
    TakesIf (.exit h fx) .vec (fun c s => c.live = 0#96 ∧ (s.warp c.k).trapMode = false) (fun _ s => s) ∧
    TakesIf (.plane h fx) .vec
      (fun c s => (s.warp c.k).trapMode = false ∧
        (c.q.took = [] → ∀ x ∈ planeTargets s c, ∃ b, getLine s c.k x.1 x.2.1 = .line b) ∧
        (∀ l, c.live.getLsbD l = true → plane c l < (s.warpLaunch c.k).info.planeCount) ∧
        (∀ n, n < 4 → taken c n ≠ 0#96 → n ≠ c.p →
          offsetInRange s c.k (following c.q.offset) = true ∧
          landing s c.k n (following c.q.offset) none = .lands))
      (fun c s => s.modCur (fun q => { q with
        shifts := q.shifts ++
          ((List.range 4).filter (fun n => taken c n != 0#96)).map (fun n => (taken c n, n)) })) ∧
    TakesIf (.ipref h f) .vec (fun c _ => c.live = 0#96) (fun _ s => s) ∧
    TakesIf (.ipref h f) .vec (fun c _ => c.live ≠ 0#96) (fun c s =>
      (List.range (f.tag.toNat + 1)).foldl (fun s (i : Nat) =>
        prefetchCode c ((lineOf c.q.offset : Int) + f.tline.toInt + (i : Int)) s) s) ∧
    TakesIf (.wset h fw) .vec (fun c s => (s.warp c.k).execMask c.e &&& (s.warp c.k).live ≠ 0#96)
      (fun c s => replaceSet c.k new s)

/-- R263: a REP whose slot passes its checks moves the split into its repetitions, the first to come; the
repetitions are issues of their own. -/
def Obligations.RepEntersItsRepetitions : Prop :=
  ∀ (h : Hdr) (f : FP) (s : State) (q : Issue), s.cur = some q → clears (.rep h f) .once s q = true →
    exec (.rep h f) s = .next (((readState (.rep h f) s q).modWarp q.warp (fun w =>
      if w.trapMode then { w with trapSplit := w.trapSplit.map (fun t => { t with inRep := true, repJ := 0 }) }
      else w.modSplit q.entry (fun x => { x with inRep := true, repJ := 0 }))).modCur
        (fun q => { q with todo := [], status := .finished }))

/-! ## Traps -/

/-- R208: outside trap mode, with a handler, a fault writes TRAPCAUSE, TRAPPC, TRAPVA and TRAPLANES, sets TRAPMODE,
puts the working set and the latches aside and starts the trap split at the handler's first slot with every live
lane; no register and no memory changes. -/
def Obligations.TrapEntry : Prop :=
  ∀ (k e : Nat) (pc : BitVec 64) (f : FaultInfo) (s : State),
    (s.warp k).trapMode = false → (s.warpLaunch k).handler ≠ 0#80 →
    (f.cause ≠ causePoison ∨ (s.warpLaunch k).replayable = false) →
    let t := raiseFault k e pc f s
    let w := s.warp k
    let u := t.warp k
    u.trapMode = true ∧ u.trapCause = f.cause.setWidth 32 ∧ u.trapPc = pc ∧ u.trapVa = f.va ∧
    u.trapLanes = f.lanes ∧ u.trapEntry = e ∧ u.savedWs = w.ws ∧ u.savedHl = w.hl ∧ u.hl = [] ∧
    u.areuse = none ∧
    u.trapSplit = some { offset := 0#32, mask := w.live, inRep := false, repJ := 0, wph := none, lastIssue := 0,
                         aged := false, yielded := false } ∧
    u.vregs = w.vregs ∧ u.sregs = w.sregs ∧ u.aregs = w.aregs ∧ u.pregs = w.pregs ∧ u.kregs = w.kregs ∧
    u.kvregs = w.kvregs ∧ u.fast = w.fast ∧ u.fxa = w.fxa ∧ u.splits = w.splits ∧ u.ws = w.ws ∧ u.live = w.live ∧
    t.mem = s.mem ∧ t.teams = s.teams ∧ t.launches = s.launches ∧ (∀ j, j ≠ k → t.warp j = s.warp j)

/-- R212: a fault in trap mode stops the warp and asks for the end of its launch with status 0x21 and the fault's
cause, unless the launch is ending already; a fault without a handler does the same with status 0x20, but a
BREAKPOINT parks the warp for BREAK_RESUME. -/
def Obligations.DoubleFaultsAndMissingHandlers : Prop :=
  ∀ (k e : Nat) (pc : BitVec 64) (f : FaultInfo) (s : State), f.cause ≠ causePoison →
    let l := (s.team (s.warp k).team).launch
    let asks (status : BitVec 8) (t : State) : Prop :=
      (t.warp k).park = .stopped ∧
      ((s.launch l).ending = none → (t.launch l).ending = some
        { status := status, cause := f.cause, detail := 0#32, team := (s.team (s.warp k).team).number }) ∧
      ((s.launch l).ending ≠ none → (t.launch l).ending = (s.launch l).ending)
    let t := raiseFault k e pc f s
    ((s.warp k).trapMode = true → asks 0x21#8 t) ∧
    ((s.warp k).trapMode = false → (s.warpLaunch k).handler = 0#80 → f.cause ≠ causeBreak → asks 0x20#8 t) ∧
    ((s.warp k).trapMode = false → (s.warpLaunch k).handler = 0#80 → f.cause = causeBreak →
      (t.warp k).park = .breakpoint ∧ (t.warp k).trapPc = pc ∧ t.launches = s.launches)

/-- R213: TRAP and BRK, their own effect: the fault of their cause with the lanes that take part, in the first pass
in which one does; without one they do nothing. -/
def Obligations.TrapInstructionsTrap : Prop :=
  ∀ (h : Hdr) (f : FX),
    (∀ (s : State) (q : Issue), s.cur = some q → clears (.trap h f) .vec s q = true →
      let c := passCtx s q (.trap h f) .vec
      c.live ≠ 0#96 → exec (.trap h f) s = .next (trapPass c { cause := 0x1B#8, va := 0#80, lanes := c.live }
        (countReads c (.trap h f) (readState (.trap h f) s q)))) ∧
    (∀ (s : State) (q : Issue), s.cur = some q → clears (.brk h f) .vec s q = true →
      let c := passCtx s q (.brk h f) .vec
      c.live ≠ 0#96 → exec (.brk h f) s = .next (trapPass c { cause := 0x1C#8, va := 0#80, lanes := c.live }
        (countReads c (.brk h f) (readState (.brk h f) s q)))) ∧
    TakesIf (.trap h f) .vec (fun c _ => c.live = 0#96) (fun _ s => s) ∧
    TakesIf (.brk h f) .vec (fun c _ => c.live = 0#96) (fun _ s => s)

/-- R27, R96, R100, R215, R475: ERET, in trap mode, leaves trap mode, with the working set and the latches that entry put
aside restored, what the trap split had still to issue dropped, and its issue counted: where the handler left TRAPPC's
offset alone the split issues again from it, in the planes of PMASK and at TRAPPC's repetition, or with CTL 1 goes on
after the instruction, which needs no TMASK bit; where the handler moved the offset the split goes there, once every
plane lands. Where the split's offset changes, the phase that a BWAIT waits on is cleared. -/
def Obligations.EretLeavesTrapMode : Prop :=
  ∀ (h : Hdr) (f : FX) (s : State) (q : Issue), s.cur = some q → clears (.eret h f) .once s q = true →
    let k := q.warp
    let r := readState (.eret h f) s q
    let w := r.warp k
    let e := w.trapEntry
    let o : Word := w.trapPc.extractLsb' 0 32
    let left : Warp :=
      { w with hl := w.savedHl, savedWs := [], savedHl := [], trapMode := false, trapSplit := none,
               reissues := tdel w.reissues 8 }
    let sent (x : Split) (o : Word) : Split := { x with offset := o, inRep := false, repJ := 0, wph := none }
    let goes (u : Warp) : Host.Outcome State Fault Refusal :=
      .next ((replaceSet k w.savedWs (settle k (countWarp 0x01 1 k (r.setWarp k u)))).modCur
        (fun q => { q with todo := [], status := .finished }))
    (o = w.trapPc0.extractLsb' 0 32 → f.ctl.getLsbD 0 = false →
      let again := left.modSplit e (fun x =>
        { x with repJ := if x.inRep then (w.trapPc.extractLsb' 36 4).toNat else 0 })
      exec (.eret h f) s = goes { again with reissues := tput again.reissues e w.reissueOf }) ∧
    (o = w.trapPc0.extractLsb' 0 32 → f.ctl.getLsbD 0 = true →
      exec (.eret h f) s = goes { left.modSplit e (fun x => sent x (following o)) with entryUnchecked := false }) ∧
    (o ≠ w.trapPc0.extractLsb' 0 32 → (∀ x ∈ eretLandings k r, x = .lands) →
      exec (.eret h f) s = goes { left.modSplit e (fun x => sent x o) with entryUnchecked := false })

/-- R214, R216: SYSC parks the warp with its service and its values for firmware; KSAVE copies registers whole into
the save area, KLOAD copies them back, a slot never written as zeros of tag B32. -/
def Obligations.SyscAndSaveArea : Prop :=
  ∀ (h : Hdr) (f : FX),
    let n := (f.ctl.extractLsb' 0 6).toNat + 1
    let slot := (f.ctl.extractLsb' 6 6).toNat
    let service := (f.ctl.extractLsb' 0 8).toNat
    Takes (.sysc h f) .first (onWarp (fun c w => { w with
      park := .sysc service (c.view.sval c.e f.e0.toNat)
        (if service = 1 ∧ isS f.e0.toNat = true then c.view.sval c.e (f.e0.toNat + 1) else 0#32) c.q.offset })) ∧
    Idles (.sysc h f) .first ∧
    Takes (.ksave h f) .once (onWarp (fun _ w => { w with
      save := (List.range n).foldl (fun t i => tput t (slot + i) (w.vreg (f.e0.toNat + i))) w.save })) ∧
    Takes (.kload h f) .once (onWarp (fun _ w => (List.range n).foldl (fun x i =>
      x.setVreg (f.e0.toNat + i) ((tget w.save (slot + i)).getD VReg.zero)) w))

/-- R42, R72, R188: outside trap mode ERET, KSAVE and KLOAD, and a VADD that names a kv register, trap with PRIVILEGE
when the checks that come before it pass in every plane; nothing else happens. -/
def Obligations.PrivilegedNeedTrapMode : Prop :=
  ∀ (i : Instr) (s : State) (q : Issue), s.cur = some q → (s.warp q.warp).trapMode = false →
    let w := s.warp q.warp
    let slot := slotNum q.offset
    q.checked = false → q.todo ≠ [] → (∀ x ∈ q.lines, parityOk x.2 = true ∧ lineWordOk x.2 = true) →
    (∀ x ∈ issueWords q (q.todo.headD 0) i, ∃ y, x.2 = some y ∧ isRep y = false ∧ undefinedOp y = false ∧
      roleMay w.role y.opNum = true ∧
      encodingOk w (s.warpLaunch q.warp).info.planeCount (q.line x.1) slot x.2 = true) →
    planesAgree q.lines slot = true →
    let privilege : FaultInfo := { cause := 0x1D#8, va := 0#80, lanes := 0#96 }
    (((∃ h f, i = .eret h f) ∨ (∃ h f, i = .ksave h f) ∨ (∃ h f, i = .kload h f)) →
      exec i s = .next (trapAt (passCtx s q i .once) false privilege s)) ∧
    ((∃ h f, i = .vadd h f) → namesKv (Instr.fields i) = true →
      exec i s = .next (trapAt (passCtx s q i .vec) false privilege s))

/-- R14, R15, R42, R71, R72, R208: when the lines of its planes are whole, a word of an undefined major opcode, whatever
the role, completes by taking ILLEGAL-OPCODE, outside trap mode and with a handler: the warp is in trap mode at the
handler's first slot with every live lane, with the cause in TRAPCAUSE, no address and no lane; and every instruction of
a class that its warp's role may not issue, REGROUP among them, traps with ROLE when no word of its planes has an
undefined opcode, which is checked first. -/
def Obligations.UndefinedOpcodesAndRoles : Prop :=
  ∀ (s : State) (q : Issue), s.cur = some q →
    let w := s.warp q.warp
    let fault (cause : BitVec 8) : FaultInfo := { cause := cause, va := 0#80, lanes := 0#96 }
    q.checked = false → q.todo ≠ [] → (∀ x ∈ q.lines, parityOk x.2 = true ∧ lineWordOk x.2 = true) →
    (∀ word : BitVec 96, exec (.undefinedMajorOpcode word) s =
      .next (trapAt (passCtx s q (.undefinedMajorOpcode word) .vec) false (fault 0x01#8) s)) ∧
    (∀ word : BitVec 96, w.trapMode = false → (s.warpLaunch q.warp).handler ≠ 0#80 →
      ∃ t, exec (.undefinedMajorOpcode word) s = .next t ∧
        (t.warp q.warp).trapMode = true ∧ (t.warp q.warp).trapCause = 1#32 ∧ (t.warp q.warp).trapVa = 0#80 ∧
        (t.warp q.warp).trapLanes = 0#96 ∧ (t.warp q.warp).savedWs = w.ws ∧
        (t.warp q.warp).trapSplit = some { offset := 0#32, mask := w.live, inRep := false, repJ := 0, wph := none,
                                           lastIssue := 0, aged := false, yielded := false }) ∧
    ∀ i : Instr, roleMay w.role i.opNum = false →
      (∀ x ∈ issueWords q (q.todo.headD 0) i, ∀ y, x.2 = some y → undefinedOp y = false ∧
        (isRep y = true → undefinedOp (instrAt (q.line x.1) (slotNum q.offset + 1)) = false)) →
      exec i s = .next (trapAt (passCtx s q i .vec) false (fault 0x04#8) s)

/-! ## Memory instructions -/

namespace Sys2Proof.Claims

open Sys2Proof Sys2Proof.Machine

/-- The address of a lane or of a scalar access: a[A], the index shifted, and the offset, modulo 2^80 (R335). -/
def address (c : Ctx) (f : FM) (idx off : Int) : A80 :=
  BitVec.ofInt 80 ((c.view.aval f.a.toNat).toNat + idx * 2 ^ f.ish.toNat + off)

/-- The index of a lane: a word, or a pair of words (R335). -/
def indexOf (c : Ctx) (f : FM) (pair : Bool) (l : Nat) : Int :=
  let x := f.x.toNat
  if pair then ((c.view.src c.e (if x = 643 then x else x + 1)).word l ++ (src c f.x).word l : BitVec 64).toInt
  else ((src c f.x).word l).toInt

/-- The lanes that take part with their addresses; the one address of a scalar access. -/
def byLane (c : Ctx) (f : FM) (pair : Bool) (off : Int) : List (Nat × A80) :=
  (lanesOf c.live).map (fun l => (l, address c f (indexOf c f pair l) off))
def byScalar (c : Ctx) (f : FM) (off : Int) : List (Nat × A80) :=
  [(0, address c f (c.view.sval c.e f.x.toNat).toInt off)]

/-- The accesses can all be made: aligned (R337), nothing earlier to wait for (R350), each translated to the place
or the fabric target that tr gives (R284, R436), no promotion that an acquire must wait for (R366), no write-back of
the L1, nor one of the promotions that a team-scope release makes, stalled by a region that moves (R289, R366), and room
in the gateway's queue for every fabric request (R437). -/
def granted (c : Ctx) (f : FM) (a : Access) (bus : Bool) (xs : List (Nat × A80)) (tr : A80 → LaneTrans)
    (s : State) : Prop :=
  xs ≠ [] ∧ orderWaits (s.warp c.k) c.q.wb f.ord.toNat f.scope.toNat = false ∧
  l1Stalled s (coreOf c.k) (s.fused c.k) = false ∧
  gatewayLoad s (coreOf c.k) + (xs.filter (fun x => (tr x.2).isFabric)).length ≤ 8192 ∧
  ∀ x ∈ xs, x.2.toNat % 2 ^ f.width.toNat = 0 ∧ laneTrans s c.k c.e x.2 a bus = tr x.2 ∧
    ((∃ n p poa, tr x.2 = .fabric n p poa) ∨ ∃ p, tr x.2 = .go p ∧
      (isAcquire f = true → f.scope ≠ 0#3 → promoPending s p.key (coreOf c.k) = none) ∧
      (isRelease f = true → f.scope = 0#3 → recordStalled s p.key (coreOf c.k) = false))

/-- An access between what its ORD asks of the L1: a release writes back first, once an instruction, an acquire
invalidates after it (R350, R365, R366). -/
def ordered (c : Ctx) (f : FM) (go : State → State) (s : State) : State :=
  let g := coreOf c.k
  let fuse := s.fused c.k
  let s1 :=
    if isRelease f ∧ c.firstTry = true then
      if f.scope == 0#3 then bumpEpoch g fuse (releaseL1 g fuse f.scope.toNat s)
      else releaseL1 g fuse f.scope.toNat s
    else s
  if isAcquire f then acquireL1 g fuse f.scope.toNat (go s1) else go s1

/-- Lane after lane, ascending: the words read, and the state. -/
def laneByLane (one : Nat → LaneTrans → State → List (Word × Bool) × State) (xs : List (Nat × A80))
    (tr : A80 → LaneTrans) (s : State) : List (Nat × List (Word × Bool)) × State :=
  doLanes one (xs.map (fun x => (x.1, x.2, tr x.2))) s

/-- A load completes: every lane reads, and the words wait for the writeback. -/
def loads (c : Ctx) (f : FM) (scalar : Bool) (xs : List (Nat × A80)) (tr : A80 → LaneTrans) (s : State) : State :=
  let n := widthRegs f.width
  let regs := if scalar then dataCodes f.d.toNat n else span f.d.toNat n
  ordered c f (fun t =>
    let r := laneByLane (loadLane c f regs scalar) xs tr t
    if scalar then finishScalar c f n r.1 r.2 else finishVector c f true n r.1 r.2) s

/-- A store completes: every lane writes its bytes. -/
def stores (c : Ctx) (f : FM) (data : Nat → Nat) (xs : List (Nat × A80)) (tr : A80 → LaneTrans) (s : State) : State :=
  ordered c f (fun t => (laneByLane (storeLane c f data) xs tr t).2) s

/-- A lane's data: its words from D on, the first lowest; zeros for code 643 (R339, R340). -/
def dataOf (c : Ctx) (f : FM) (l : Nat) : Nat :=
  packElems 32 ((List.range (widthRegs f.width)).map (fun j =>
    ((c.view.src c.e (if f.d = 643#10 then 643 else f.d.toNat + j)).word l).toNat))

/-- A lane's operand, or its swap value, of an atomic (R342). -/
def operandOf (c : Ctx) (f : FM) (second : Bool) (l : Nat) : Nat :=
  let n := widthRegs f.width
  let d := f.atomData.toNat
  let b := if second ∧ d ≠ 643 then d + n else d
  packElems 32 ((List.range n).map (fun j =>
    ((c.view.src c.e (if b = 643 then 643 else b + j)).word l).toNat))

end Sys2Proof.Claims

/-- R335, R338, R350: the global loads complete when their accesses are granted: every lane reads in ascending
order and its words wait for the writeback; without a live lane only helper lanes get their zeros. -/
def Obligations.GlobalLoadsComplete : Prop :=
  ∀ (h : Hdr) (f : FM) (tr : A80 → LaneTrans),
    let off := f.offset.toInt
    TakesIf (.vld h f) .vec (fun c s => granted c f .read true (byLane c f false off) tr s)
      (fun c s => loads c f false (byLane c f false off) tr s) ∧
    TakesIf (.vldf h f) .vec (fun c s => granted c f .read true (byLane c f true off) tr s)
      (fun c s => loads c f false (byLane c f true off) tr s) ∧
    TakesIf (.sld h f) .scal (fun c s => granted c f .read true (byScalar c f off) tr s)
      (fun c s => loads c f true (byScalar c f off) tr s) ∧
    TakesIf (.vld h f) .vec (fun c _ => c.live = 0#96)
      (fun c s => finishVector c f true (widthRegs f.width) [] s) ∧
    TakesIf (.vldf h f) .vec (fun c _ => c.live = 0#96)
      (fun c s => finishVector c f true (widthRegs f.width) [] s)

/-- R335, R340, R350: the global stores complete when their accesses are granted: every lane writes the low bytes
of its data in ascending order; without a live lane they do nothing. -/
def Obligations.GlobalStoresComplete : Prop :=
  ∀ (h : Hdr) (f : FM) (tr : A80 → LaneTrans),
    let off := f.offset.toInt
    let scalars (c : Ctx) (_ : Nat) : Nat := c.view.svals c.e f.d.toNat (widthRegs f.width)
    TakesIf (.vst h f) .vec (fun c s => granted c f .write true (byLane c f false off) tr s)
      (fun c s => stores c f (dataOf c f) (byLane c f false off) tr s) ∧
    TakesIf (.vstf h f) .vec (fun c s => granted c f .write true (byLane c f true off) tr s)
      (fun c s => stores c f (dataOf c f) (byLane c f true off) tr s) ∧
    TakesIf (.sst h f) .scal (fun c s => granted c f .write true (byScalar c f off) tr s)
      (fun c s => stores c f (scalars c) (byScalar c f off) tr s) ∧
    TakesIf (.vst h f) .vec (fun c _ => c.live = 0#96) (fun _ s => s) ∧
    TakesIf (.vstf h f) .vec (fun c _ => c.live = 0#96) (fun _ s => s)

/-- R342, R344, R345, R350: the global atomics complete when their accesses are granted: every lane takes its step
at the home slice in ascending order, and the old values wait for the writeback. -/
def Obligations.GlobalAtomicsComplete : Prop :=
  ∀ (h : Hdr) (f : FM) (tr : A80 → LaneTrans),
    let off := (f.offset.setWidth 14).toInt
    let bus := f.fn == 0#4 || f.fn == 6#4 || f.fn == 7#4
    let n := widthRegs f.width
    let scalar (c : Ctx) (second : Bool) (_ : Nat) : Nat :=
      c.view.svals c.e (if second ∧ f.atomData ≠ 643#10 then f.atomData.toNat + n else f.atomData.toNat) n
    TakesIf (.vatom h f) .vec (fun c s => granted c f .atomic bus (byLane c f false off) tr s)
      (fun c s => ordered c f (fun t =>
        let r := laneByLane (atomLane c f (atomDest f) false (operandOf c f false) (operandOf c f true))
          (byLane c f false off) tr t
        finishVector c f false n r.1 r.2) s) ∧
    TakesIf (.satom h f) .scal (fun c s => granted c f .atomic bus (byScalar c f off) tr s)
      (fun c s => ordered c f (fun t =>
        let r := laneByLane (atomLane c f (atomDest f) true (scalar c false) (scalar c true)) (byScalar c f off) tr t
        finishScalar c f n r.1 r.2) s) ∧
    TakesIf (.vatom h f) .vec (fun c _ => c.live = 0#96) (fun c s => finishVector c f false n [] s)

namespace Sys2Proof.Claims

open Sys2Proof Sys2Proof.Machine

/-- The shared offset of a lane (R336). -/
def sharedAt (c : Ctx) (f : FM) (off : Int) (l : Nat) : Int :=
  (c.view.sval c.e f.a.toNat).toInt + indexOf c f false l * 2 ^ f.ish.toNat + off

/-- Every lane's offset is aligned and lies below a limit, and nothing earlier is to wait for (R337, R350). -/
def sharedFree (c : Ctx) (f : FM) (off : Int) (limit : Nat) (s : State) : Prop :=
  (∀ l, c.live.getLsbD l = true →
    sharedAt c f off l % 2 ^ f.width.toNat = 0 ∧ 0 ≤ sharedAt c f off l ∧
    sharedAt c f off l + 2 ^ f.width.toNat ≤ (limit : Int)) ∧
  (c.live = 0#96 ∨ orderWaits (s.warp c.k) c.q.wb f.ord.toNat 0 = false)

/-- Lane after lane at their offsets, ascending, with the bank conflicts counted (R319). -/
def atShared (c : Ctx) (f : FM) (off : Int) (one : Nat → Nat → State → List (Word × Bool) × State)
    (last : List (Nat × List (Word × Bool)) → State → State) (s : State) : State :=
  let xs := (lanesOf c.live).map (fun l => (l, sharedAt c f off l))
  let r := sharedLanes one xs s
  countWarp 0x04 (sharedConflicts (2 ^ f.width.toNat) xs) c.k (last r.1 r.2)

/-- The word offset of a lane in accumulator memory (R374). -/
def accAt (c : Ctx) (f : FM) (l : Nat) : Int :=
  ((c.view.sval c.e f.a.toNat).toNat : Int) + indexOf c f false l * 2 ^ f.ish.toNat + f.offset.toInt

/-- Every lane's accumulator words are aligned and lie in the team's, and no acquire is outstanding (R374, R375). -/
def accFree (c : Ctx) (f : FM) (s : State) : Prop :=
  (∀ l, c.live.getLsbD l = true →
    accAt c f l % (widthRegs f.width : Int) = 0 ∧ 0 ≤ accAt c f l ∧
    accAt c f l + (widthRegs f.width : Int) ≤ ((s.warpLaunch c.k).info.accum : Int)) ∧
  (c.live = 0#96 ∨ (s.warp c.k).acquireOut = false)

end Sys2Proof.Claims

/-- R336 to R340, R345: the shared-memory instructions complete on aligned offsets within bounds: a load's words
wait for the writeback, a store's bytes are written, an atomic takes its step, lane after lane, once no XDEC of the
warp is outstanding for the two that write. -/
def Obligations.SharedMemoryAccessesComplete : Prop :=
  ∀ (h : Hdr) (f : FM),
    let off := f.offset.toInt
    let off14 := (f.offset.setWidth 14).toInt
    let b := 2 ^ f.width.toNat
    let writes (c : Ctx) (s : State) : Prop := c.live = 0#96 ∨ xdecOut s c.k = false
    TakesIf (.vldsh h f) .vec (fun c s => sharedFree c f off (s.warpLaunch c.k).info.sarea s)
      (fun c s => atShared c f off
        (fun _ o t => (loadedWords (h.fmt == 0#4) b (sharedFetch c.k o b t).1, (sharedFetch c.k o b t).2))
        (finishVector c f true (widthRegs f.width)) s) ∧
    TakesIf (.vstsh h f) .vec
      (fun c s => sharedFree c f off (s.warpLaunch c.k).info.shared s ∧ writes c s)
      (fun c s => atShared c f off
        (fun l o t => ([], sharedStore (t.warp c.k).team o (leBytes b (dataOf c f l)) t)) (fun _ t => t) s) ∧
    TakesIf (.vatomsh h f) .vec
      (fun c s => sharedFree c f off14 (s.warpLaunch c.k).info.shared s ∧ writes c s)
      (fun c s => atShared c f off14
        (fun l o t => sharedAtom c f (!(atomDest f).isEmpty) (operandOf c f false l) (operandOf c f true l) o t)
        (finishVector c f false (widthRegs f.width)) s)

/-- R135, R352, R353, R375: LDACC reads accumulator words for the writeback and STACC writes them; VPREF requests the
line of every lane whose address translates, each line once; FENCE, a delivery point, once nothing it orders is
outstanding, does what a release and an acquire of its scope do in the L1, in the first pass in which a live lane
takes part; a pass without one delivers as well (log 19), and raises FP-EXCEPTION when a flag is pending. -/
def Obligations.AccumulatorPrefetchAndFence : Prop :=
  ∀ (h : Hdr) (f : FM),
    let n := widthRegs f.width
    let xs (c : Ctx) : List (Nat × Int) := (lanesOf c.live).map (fun l => (l, accAt c f l))
    let scope := f.scope.toNat
    let places (c : Ctx) (s : State) : List Place :=
      (byLane c f false f.offset.toInt).filterMap (fun x => match warpTrans s c.k c.e x.2 .prefetch with
        | .ok p => if p.poa ∨ 2 < keyKind p.key then none else some p
        | _ => none)
    TakesIf (.ldacc h f) .vec (fun c s => accFree c f s) (fun c s =>
      let r := sharedLanes (fun _ o t => accFetch (t.warp c.k).team o n t) (xs c) s
      finishVector c f true n r.1 r.2) ∧
    TakesIf (.stacc h f) .vec (fun c s => accFree c f s) (fun c s =>
      (sharedLanes (fun l o t => ([], (List.range n).foldl (fun t j =>
        accWrite (t.warp c.k).team (o + j) ((lget (wordsOf n (dataOf c f l)) j).getD 0#32) false t) t))
        (xs c) s).2) ∧
    TakesIf (.vpref h f) .vec
      (fun c s => l1Stalled s (coreOf c.k) (s.fused c.k) = false ∧
        ∀ x ∈ byLane c f false f.offset.toInt,
          warpTrans s c.k c.e x.2 .prefetch ≠ .miss ∧ warpTrans s c.k c.e x.2 .prefetch ≠ .stall)
      (fun c s => (distinctLines (places c s) []).foldl (fun t p => prefetchLine c f p t) s) ∧
    TakesOwn (.fence h f) .first deliveryPoint
      (fun c s => fenceWaits (s.warp c.k) f.ord.toNat scope = false ∧
        l1Stalled s (coreOf c.k) (s.fused c.k) = false)
      (fun c s =>
        let t := if isRelease f then releaseL1 (coreOf c.k) (s.fused c.k) scope s else s
        if isAcquire f then acquireL1 (coreOf c.k) (s.fused c.k) scope t else t) ∧
    IdlesOwn (.fence h f) .first deliveryPoint ∧
    ∀ (s : State) (q : Issue), s.cur = some q →
      let c := passCtx s q (.fence h f) .first
      (if q.checked then lineFault q
        else issueFault (s.warp q.warp) (s.warpLaunch q.warp).info.planeCount q c.p (.fence h f)) = none →
      q.acted (s.warp q.warp) 0xE0 = false → (s.warp c.k).trapMode = false → (s.warp c.k).floatsOut = false →
      (s.warp c.k).fpPending = true →
      exec (.fence h f) s = .next (trapPass c { cause := 0x0C#8, va := 0#80, lanes := 0#96 } s)

/-! ## Matrix instructions -/

namespace Sys2Proof.Claims

open Sys2Proof Sys2Proof.Machine

/-- A live lane takes part. -/
def some1 (c : Ctx) (_ : State) : Prop := c.live ≠ 0#96

/-- The rendezvous entry that a warp's gang uses, or a new one with its word and gang (R379). -/
def meeting (i : Instr) (c : Ctx) (s : State) : Rendezvous :=
  let gang := (s.warp c.k).gangOf c.k
  ((s.core (coreOf c.k)).rendezvous.find? (fun r => r.leader == gang.headD (slotOf c.k))).getD
    { leader := gang.headD (slotOf c.k), word := i, gang := gang, joined := [] }

/-- Every member of the gang, this warp the last to join, in list order. -/
def gathered (i : Instr) (a : RCode) (c : Ctx) (s : State) : List Joined :=
  inGangOrder c.k ((s.warp c.k).gangOf c.k)
    ((meeting i c s).joined.filter (fun m => m.1 != c.k) ++
      [(c.k, c.e, (nextRep c.q).isSome, c.live, (List.range 8).map (fun j => c.view.vreg (a.toNat + j)))])

/-- The leader's scalar of a code. -/
def leaderScalar (i : Instr) (c : Ctx) (s : State) (js : List Joined) (r : RCode) : Word :=
  let lk := 48 * coreOf c.k + (meeting i c s).leader
  (s.warp lk).sval (((js.find? (fun m => m.1 == lk)).map (fun m => m.2.1)).getD 0) r.toNat

/-- The gang is complete and the checks of R379 and R380 pass: no acquire of this member outstanding (R350) and, in a
pair, no pass of the first instruction to come (R39), one word and one gang, no member retired, the
leader's scalars full and clean, a tile that is ready with its format and size, D and C within accumulator memory,
no poisoned row, and room in the engine's queue. -/
def mayRelease (i : Instr) (f : FV) (c : Ctx) (s : State) : Prop :=
  let w := s.warp c.k
  let gang := w.gangOf c.k
  let r := meeting i c s
  let js := gathered i f.a c s
  let t := w.team
  let hd := leaderScalar i c s js f.b
  let x := s.tile t (handleIndex hd)
  let rows := 96 * r.gang.length * x.dim0
  w.acquireOut = false ∧ c.behindFirst = false ∧ r.word = i ∧ r.gang = gang ∧ (∀ n ∈ gang, gangGone s c.k n = false) ∧
  gang.length ≤ (r.joined.filter (fun m => m.1 != c.k)).length + 1 ∧
  (gang.headD (slotOf c.k) = slotOf c.k →
    emptyCheck w c.h (mmaScalars f) [] = .go ∧ poisonScalar c.view (mmaScalars f) = false) ∧
  readerCheck s t hd (some (Instr.hdr i).fmt) = .issues ∧
  mmaK (Instr.hdr i).fmt ≤ x.dim1 ∧ x.dim0 ≤ 256 ∧
  (leaderScalar i c s js f.d).toNat + rows ≤ (s.launchOf t).info.accum ∧
  (f.c = 643#10 ∨ (leaderScalar i c s js f.c).toNat + rows ≤ (s.launchOf t).info.accum) ∧
  (∀ m ∈ js, poisonedRows m.2.2.2.1 m.2.2.2.2 = 0#96) ∧
  (s.core (coreOf c.k)).matrix.length < 16

/-- The rendezvous entry freed, and the command queued with the leader's column mask (R379, R385, R392). -/
def released (i : Instr) (f : FV) (c : Ctx) (s : State) : State :=
  let r := meeting i c s
  let js := gathered i f.a c s
  let mask := ((s.warp (48 * coreOf c.k + r.leader)).mcols.find? (fun x => x.1 == (f.fn.extractLsb' 0 2).toNat)).map (·.2)
  mmaRelease i c.k js (handleIndex (leaderScalar i c s js f.b)) (leaderScalar i c s js f.d).toNat
    (leaderScalar i c s js f.c).toNat (mask.getD 0#256)
    (s.modCore (coreOf c.k) (fun y => { y with rendezvous := y.rendezvous.filter (fun z => z.leader != r.leader) }))

end Sys2Proof.Claims

/-- R377, R379, R380, R385: MMA and MMAP complete when the last member of their gang joins and the checks pass: the
command is queued and every member moves on; MGANG and MCOLM set the warp's GANG and a column mask. -/
def Obligations.GangsAndMultiplications : Prop :=
  ∀ (h : Hdr) (f : FV) (fx : FX),
    let ids : List Nat := (([0, 8, 16, 24].map (fun o => (fx.ctl.extractLsb' o 6).toNat)) ++
      [fx.e1.toNat, fx.e2.toNat]).take fx.e0.toNat
    let slots (c : Ctx) (s : State) : List (Option Nat) := ids.map (mathsSlot s (s.warp c.k).team)
    let v (c : Ctx) : Word := c.view.sval c.e fx.e0.toNat
    TakesIf (.mma h f) .once (mayRelease (.mma h f) f) (released (.mma h f) f) ∧
    TakesIf (.mmap h f) .once (mayRelease (.mmap h f) f) (released (.mmap h f) f) ∧
    TakesIf (.mgang h fx) .once
      (fun c s => some1 c s ∧ (∀ x ∈ slots c s, x.isSome = true) ∧ ids.Nodup ∧
        (ids = [] ∨ (s.warp c.k).warpid ∈ ids))
      (fun c s => s.modWarp c.k (fun w => { w with gang := (slots c s).filterMap id })) ∧
    TakesIf (.mcolm h fx) .once some1
      (onWarp (fun c w =>
        let mask := if fx.ctl.getLsbD 2 then BitVec.ofNat 256 (c.view.svals c.e fx.e0.toNat 8)
          else BitVec.allOnes 256 <<< min (v c).toNat 256
        { w with mcols := tput w.mcols (fx.ctl.extractLsb' 0 2).toNat mask }))

/-- R13, R350, R390, R391, R394, R395: once no acquire of the warp is outstanding, MLDA reads a fragment of a ready tile
for the writeback, helper lanes zeros, and without a lane that takes part nothing; MZERO
queues a command or, for no words, does nothing; MBATCH closes the open batch and writes its number; MWAIT writes the
status of a complete batch, or 0x8000 for one more than 64 back. -/
def Obligations.FragmentsAndBatches : Prop :=
  ∀ (h : Hdr) (f : FX),
    let sv (c : Ctx) (r : RCode) : Word := c.view.sval c.e r.toNat
    let n (c : Ctx) : BitVec 16 :=
      if f.e1 = 643#10 then f.ctl.extractLsb' 0 16 else (sv c f.e1).extractLsb' 0 16
    let back (c : Ctx) (s : State) : Nat := ((s.warp c.k).batchNext - n c).toNat
    TakesIf (.mlda h f) .once
      (fun c s => c.any = true ∧ (s.warp c.k).acquireOut = false ∧
        readerCheck s (s.warp c.k).team (sv c f.e1) (some h.fmt) = .issues)
      (fun c s =>
        let t := (s.warp c.k).team
        let i := handleIndex (sv c f.e1)
        let rd := readerIssues t i s
        let s2 := rd.2.modCore (coreOf c.k) (fun y => { y with
          readers := y.readers.map (fun r => if r.id = rd.1 then { r with finished := true } else r) })
        let x := s2.tile t i
        let row0 := ((sv c f.e2).extractLsb' 0 16).toNat
        let col0 := ((sv c f.e2).extractLsb' 16 16).toNat
        let s3 := resolveTile t x row0 (min 96 (x.dim1 - row0)) s2
        let k := mldaRegs h.fmt (f.ctl.extractLsb' 0 4).toNat
        let rows := (lanesOf c.live).map (fun l =>
          (l, (List.range k).map (fragWord h.fmt (mldaRow s3 t x h.fmt (row0 + l) col0))))
        s3.modWarp c.k (fun w => w.produceV c.q.wb h.fmt (span f.e0.toNat k) (fun b =>
          { b with vwrites := b.vwrites ++ laneWrites f.e0.toNat k c.part rows }))) ∧
    TakesIf (.mlda h f) .once
      (fun c s => c.any = false ∧ (s.warp c.k).acquireOut = false ∧
        readerCheck s (s.warp c.k).team (sv c f.e1) (some h.fmt) = .issues)
      (fun _ s => s) ∧
    TakesIf (.mzero h f) .once
      (fun c s => some1 c s ∧ (sv c f.e1).toNat ≠ 0 ∧ (s.warp c.k).acquireOut = false ∧
        (sv c f.e0).toNat + (sv c f.e1).toNat ≤ (s.launchOf (s.warp c.k).team).info.accum ∧
        (s.core (coreOf c.k)).matrix.length < 16)
      (fun c s => (s.modCore (coreOf c.k) (fun y => { y with matrix := y.matrix ++
        [{ op := .zero (sv c f.e0).toNat (sv c f.e1).toNat, team := (s.warp c.k).team,
           members := [{ warp := c.k, rows := 0#96, regs := [], batch := (s.warp c.k).batchNext }],
           tile := 0, reader := 0, dbase := (sv c f.e0).toNat, cbase := 0, columns := 0#256, started := false,
           writes := [], flags := 0#5, sat := false }] })).modWarp c.k Warp.batchJoin) ∧
    TakesIf (.mzero h f) .once
      (fun c s => some1 c s ∧ (sv c f.e1).toNat = 0 ∧
        (sv c f.e0).toNat ≤ (s.launchOf (s.warp c.k).team).info.accum)
      (fun _ s => s) ∧
    TakesIf (.mbatch h f) .once
      (fun c s => some1 c s ∧ ((s.warp c.k).batchNext - 1#16 - (s.warp c.k).batchDone).toNat < 64)
      (onWarp (fun c w => w.closeBatch.setS c.e f.e0.toNat (w.batchNext.setWidth 32))) ∧
    TakesIf (.mwait h f) .once
      (fun c s => some1 c s ∧ 1 ≤ back c s ∧ back c s ≤ 64 ∧
        ((s.warp c.k).batchNext - 1#16 - (s.warp c.k).batchDone).toNat < back c s)
      (fun c s =>
        let b := (s.warp c.k).batch (n c)
        s.modWarp c.k (fun w => ((w.setBatch (n c) { b with returned := true }).orFlags b.flags).setS c.e
          f.e0.toNat ((if b.sat then 0x100#32 else 0#32) ||| b.flags.setWidth 32))) ∧
    TakesIf (.mwait h f) .once (fun c s => some1 c s ∧ 65 ≤ back c s ∧ back c s ≤ 32768)
      (onWarp (fun c w => w.setS c.e f.e0.toNat 0x8000#32))

/-! ## Tiles -/

/-- R273 to R277: TALLOC makes an EMPTY entry FILLING, one generation on, and writes its handle; TFREE makes a
current tile DRAINING, TREL seals a FILLING one, TSTAT writes the entry's word; each once an issue, and only with a
live lane. -/
def Obligations.TileInstructionsComplete : Prop :=
  ∀ (h : Hdr) (f : FX),
    let sv (c : Ctx) (r : RCode) : Word := c.view.sval c.e r.toNat
    let i := (f.ctl.extractLsb' 0 6).toNat
    let d0 (c : Ctx) : Nat := (sv c f.e1).toNat % 2 ^ 16
    let d1 (c : Ctx) : Nat := (sv c f.e1).toNat / 2 ^ 16
    let pitch (c : Ctx) : Nat := (d0 c * fmtWidth h.fmt + 1023) / 1024
    let team (c : Ctx) (s : State) : Nat := (s.warp c.k).team
    let entry (c : Ctx) (s : State) : Tile := s.tile (team c s) (handleIndex (sv c f.e0))
    let current (c : Ctx) (s : State) : Prop := handleCurrent s (team c s) (sv c f.e0) = true
    TakesIf (.talloc h f) .first
      (fun c s => i < s.tileCount (team c s) ∧ 1 ≤ d0 c ∧ 1 ≤ d1 c ∧ d1 c ≤ 4096 ∧
        (sv c f.e2).toNat % 128 = 0 ∧
        (sv c f.e2).toNat + 128 * pitch c * d1 c ≤ (s.launchOf (team c s)).info.shared ∧
        (s.tile (team c s) i).state = .empty)
      (fun c s =>
        let gen := (s.tile (team c s) i).gen + 1#10
        (s.setTile (team c s) i
          { owner := (s.team (team c s)).number, filled := 0, bytes := 128 * pitch c * d1 c, dim1 := d1 c,
            dim0 := d0 c, pitch := pitch c, base := (sv c f.e2).toNat, readers := 0, sealed := false,
            gen := gen, fmt := h.fmt, state := .filling, fills := 0 }).modWarp c.k
          (fun w => w.setS c.e f.e0.toNat (BitVec.ofNat 32 (gen.toNat * 64 + i)))) ∧
    TakesIf (.tfree h f) .first
      (fun c s => current c s ∧ ((entry c s).state = .filling ∨ (entry c s).state = .ready))
      (fun c s => s.modTile (team c s) (handleIndex (sv c f.e0)) (fun y => { y with state := .draining })) ∧
    TakesIf (.trel h f) .first
      (fun c s => current c s ∧ (entry c s).state = .filling ∧ (entry c s).sealed = false)
      (fun c s => s.modTile (team c s) (handleIndex (sv c f.e0)) (fun y =>
        { y with sealed := true, filled := if f.ctl.getLsbD 0 then y.bytes else y.filled })) ∧
    Takes (.tstat h f) .first (fun c s =>
      let v := sv c f.e1
      let x := s.tile (team c s) (handleIndex v)
      s.modWarp c.k (fun w => w.setS c.e f.e0.toNat
        (if s.tileCount (team c s) ≤ handleIndex v then 8#32
         else BitVec.ofNat 32 (x.filled / 128 % 2 ^ 16 * 2 ^ 16 + x.gen.toNat * 16 +
           (if handleCurrent s (team c s) v then 0 else 8) + (if x.sealed then 4 else 0) + x.state.code)))) ∧
    Idles (.talloc h f) .first ∧ Idles (.tfree h f) .first ∧ Idles (.trel h f) .first ∧ Idles (.tstat h f) .first

/-! ## Queues, channels and VEER -/

/-- R417 to R421: on a declared queue HQPUSH, once no earlier access of its warp is outstanding that a team release
waits for, writes its word at the tail and counts it, HQPOP takes the oldest word for the writeback, HQTRY takes it at
once with a 1, or writes zeros when there is none; each once an issue, and only with a live lane. -/
def Obligations.HandleQueuesComplete : Prop :=
  ∀ (h : Hdr) (f : FX),
    let q := (f.ctl.extractLsb' 0 4).toNat
    let team (c : Ctx) (s : State) : Nat := (s.warp c.k).team
    let x (c : Ctx) (s : State) : HQueue := s.hq (team c s) q
    let oldest (c : Ctx) (s : State) : List (Byte × Bool) × State :=
      sharedFetch c.k ((x c s).ring + 4 * (x c s).head) 4 s
    let word (c : Ctx) (s : State) : Word := BitVec.ofNat 32 (leValue ((oldest c s).1.map (·.1)))
    let bad (c : Ctx) (s : State) : Bool := (oldest c s).1.any (·.2)
    let taken (c : Ctx) (s : State) : State := (oldest c s).2.setHq (team c s) q
      { x c s with head := ((x c s).head + 1) % (x c s).size, count := (x c s).count - 1 }
    let declared (c : Ctx) (s : State) : PreCheck :=
      if (x c s).decl then .pass else .fault { cause := 0x14#8, va := 0#80, lanes := 0#96 }
    TakesOwn (.hqpush h f) .first declared
      (fun c s => (x c s).count < (x c s).size ∧ arriveWaits s c.k 0 = false)
      (fun c s => (sharedStore (team c s) ((x c s).ring + 4 * (((x c s).head + (x c s).count) % (x c s).size))
        (leBytes 4 (c.view.sval c.e f.e0.toNat).toNat) s).setHq (team c s) q
          { x c s with count := (x c s).count + 1 }) ∧
    TakesOwn (.hqpop h f) .first declared (fun c s => (x c s).count ≠ 0)
      (fun c s => produceWord c f.e0.toNat (word c s) (bad c s) (taken c s)) ∧
    TakesOwn (.hqtry h f) .first declared (fun c s => (x c s).count ≠ 0)
      (fun c s => (taken c s).modWarp c.k (fun w =>
        (w.setScalar c.e (f.e0.toNat - 768) (word c s) (bad c s)).setS c.e (f.e0.toNat + 1) 1#32)) ∧
    TakesOwn (.hqtry h f) .first declared (fun c s => (x c s).count = 0)
      (onWarp (fun c w => w.setSs c.e f.e0.toNat [0#32, 0#32])) ∧
    Idles (.hqpush h f) .first ∧ Idles (.hqpop h f) .first ∧ Idles (.hqtry h f) .first

/-- R417, R425 to R427, R433: CSEND, with a credit, sends its bytes on behind the warp's earlier accesses; CRECV frees a
slot, or takes the next one for the writeback; CPOLL writes the count; VEER queues a change of the die link, or says
that the tenant has no grant or the queue is full. -/
def Obligations.ChannelsAndVeerComplete : Prop :=
  ∀ (h : Hdr) (f : FX),
    let e := (f.ctl.extractLsb' 0 4).toNat
    let sv (c : Ctx) (r : RCode) : Word := c.view.sval c.e r.toNat
    let team (c : Ctx) (s : State) : Nat := (s.warp c.k).team
    let out (c : Ctx) (s : State) : Endpoint := s.send (team c s) e
    let into (c : Ctx) (s : State) : Endpoint := s.recv (team c s) e
    let n (c : Ctx) : Nat := if f.e1 = 643#10 then f.ctl.toNat else (sv c f.e1).toNat
    let pk (c : Ctx) (s : State) : Package := s.pkg (pkgOf (coreOf c.k))
    let reply (c : Ctx) (s : State) (r : Nat) (t : State) : State := t.modWarp c.k (fun w =>
      w.setS c.e f.e0.toNat (BitVec.ofNat 32 (2 ^ 16 * ((pk c s).carrying true).length + r)))
    let asks (c : Ctx) (s : State) : Prop := some1 c s ∧ 4 ≤ n c ∧ n c ≤ 28
    let declared (x : Endpoint) : PreCheck :=
      if x.decl then .pass else .fault { cause := 0x15#8, va := 0#80, lanes := 0#96 }
    TakesOwn (.csend h f) .first (fun c s => declared (out c s))
      (fun c s => (sv c f.e0).toNat % 4 = 0 ∧
        (sv c f.e0).toNat + (out c s).size ≤ (s.warpLaunch c.k).info.sarea ∧ (out c s).closed = false ∧
        (out c s).cnt ≠ 0 ∧ (s.warp c.k).acquireOut = false ∧
        l1Stalled s (coreOf c.k) (s.fused c.k) = false)
      (fun c s =>
        let r := sharedFetch c.k (sv c f.e0).toNat (out c s).size s
        let t := releaseL1 (coreOf c.k) (r.2.fused c.k) 2 r.2
        (t.setSend (team c s) e { out c s with
            cnt := (out c s).cnt - 1, idx := ((out c s).idx + 1) % (out c s).slots }).modPkg (pkgOf (coreOf c.k))
          (fun p => { p with chDeliveries := p.chDeliveries ++
            [{ launch := (s.team (team c s)).launch, fromTeam := team c s, fromEp := e,
               toTeam := s.peerKey (team c s) (out c s).peer, toEp := (out c s).peerEp, slot := (out c s).idx,
               bytes := r.1.map (·.1), poison := r.1.map (·.2), warp := c.k,
               after := ((s.warp c.k).acks.filter (fun a => a.kind == .slice)).map (·.id) ++
                 ((s.warp c.k).pend.filter (fun b => b.holes != 0)).map (·.id) }] })) ∧
    TakesOwn (.crecv h f) .first (fun c s => declared (into c s)) (fun _ _ => f.ctl.getLsbD 4 = true)
      (fun c s => (returnCredit c.k (team c s) (into c s) s).setRecv (team c s) e { into c s with held := false }) ∧
    TakesOwn (.crecv h f) .first (fun c s => declared (into c s))
      (fun c s => f.ctl.getLsbD 4 = false ∧ (into c s).cnt ≠ 0)
      (fun c s => produceWord c f.e0.toNat (BitVec.ofNat 32 ((into c s).base + (into c s).size * (into c s).idx)) false
        (acquireL1 (coreOf c.k) (s.fused c.k) 2 ((returnCredit c.k (team c s) (into c s) s).setRecv (team c s) e
          { into c s with
            cnt := (into c s).cnt - 1, idx := ((into c s).idx + 1) % (into c s).slots, held := true }))) ∧
    Idles (.csend h f) .first ∧ Idles (.crecv h f) .first ∧ Idles (.cpoll h f) .first ∧
    TakesOwn (.cpoll h f) .first (fun c s => declared (if f.ctl.getLsbD 4 then out c s else into c s))
      (fun _ _ => True)
      (fun c s =>
        let x := if f.ctl.getLsbD 4 then out c s else into c s
        s.modWarp c.k (fun w => w.setS c.e f.e0.toNat (BitVec.ofNat 32 ((if x.closed then 128 else 0) + x.cnt)))) ∧
    TakesIf (.veer h f) .once (fun c s => asks c s ∧ (s.warpLaunch c.k).granted = false)
      (fun c s => reply c s 1 s) ∧
    TakesIf (.veer h f) .once
      (fun c s => asks c s ∧ (s.warpLaunch c.k).granted = true ∧ 8 ≤ (pk c s).turnQueue.length)
      (fun c s => reply c s 2 s) ∧
    TakesIf (.veer h f) .once
      (fun c s => asks c s ∧ (s.warpLaunch c.k).granted = true ∧ (pk c s).turnQueue.length < 8)
      (fun c s => reply c s (2 ^ 8 * (pk c s).turnQueue.length)
        (s.modPkg (pkgOf (coreOf c.k)) (fun p => { p with turnQueue := p.turnQueue ++ [n c] })))

/-! ## Copy instructions -/

namespace Sys2Proof.Claims

open Sys2Proof Sys2Proof.Machine

/-- The descriptor at an address has been read for the split, without poison. -/
def hasRead (c : Ctx) (s : State) (va : A80) (len align : Nat) (d : List Byte) : Prop :=
  let e := splitName (s.warp c.k) c.e
  va.toNat % align = 0 ∧
  ((s.warp c.k).desc.find? (fun x => x.entry == e && x.va == va && x.len == len)) =
    some { entry := e, va := va, len := len, returned := true, bytes := d, poisoned := false }

/-- The warp's descriptor reads without those of the split that it was in s0. -/
def usedUp (c : Ctx) (s0 s : State) : State :=
  s.modWarp c.k (fun w => { w with desc := w.desc.filter (fun x => x.entry != splitName (s0.warp c.k) c.e) })

/-- The index list of a TGATHER as read; no list and no change for the others (R408). -/
def listRead (c : Ctx) (f : FX) (q : CopyCmd) (s : State) : List Word × State :=
  if q.kind = .tgather then
    let n := (tensorOf q.desc).ext q.gd
    let r := sharedFetch c.k (c.view.sval c.e f.e3.toNat).toNat (4 * n) s
    ((List.range n).map (fun i => BitVec.ofNat 32 (leAt (r.1.map (·.1)) (4 * i) 4)), r.2)
  else ([], s)

/-- The checks of R405 pass: the descriptor and its block, the named teams and barrier, the index list, and the
tile; with room among the core's 32 commands. -/
def copyFree (c : Ctx) (f : FX) (q : CopyCmd) (s : State) : Prop :=
  let d := tensorOf q.desc
  let o := (c.view.sval c.e f.e3.toNat).toNat
  let hd := c.view.sval c.e f.e2.toNat
  let own := q.ownTile (s.team q.team).number
  let u := (listRead c f q s).2
  let x := u.tile q.team q.tile
  tensorOk q.desc ((lget q.coords 0).getD 0#32).toInt (q.kind == .tstore) = true ∧
  (q.kind = .tgather → q.gd < d.ndim ∧ (q.gd = 0 → 8 ≤ d.narrow)) ∧
  (q.kind = .tmcast → (c.view.sval c.e (f.e3.toNat + 1)).extractLsb' 16 16 = 0#16 ∧
    ∀ n ∈ q.receivers, n < (s.launchOf q.team).info.teams) ∧
  (own = true → handleCurrent s q.team hd = true → tileFits d (s.tile q.team q.tile) q.row0 = true) ∧
  (∀ b, q.bar = some b → b < s.barCount q.team) ∧
  (q.kind = .tgather → o % 4 = 0 ∧ o + 4 * d.ext q.gd ≤ (s.warpLaunch c.k).info.sarea ∧
    (sharedFetch c.k o (4 * d.ext q.gd) s).1.any (·.2) = false) ∧
  (q.kind = .tmcast → q.mask ≠ 0#16) ∧
  (q.ownTile (u.team q.team).number = true →
    if q.kind = .tstore then
      handleCurrent u q.team hd = true ∧ x.state = .ready ∧ d.dfmt = x.fmt ∧ x.readers < 255
    else fillOk u q.team hd = true ∧ d.dfmt = x.fmt) ∧
  (u.core (coreOf c.k)).copies.length < 32

/-- A copy instruction of a kind completes: its command joins the core's queue, its descriptor is used up. -/
def Copies (i : Instr) (f : FX) (kind : CopyKind) : Prop :=
  ∀ d : List Byte,
    TakesIf i .once
      (fun c s => some1 c s ∧ hasRead c s (c.view.aval f.e0.toNat) 256 256 d ∧
        copyFree c f (newCopy c f kind d s) s)
      (fun c s =>
        let q := newCopy c f kind d s
        let r := listRead c f q s
        usedUp c s
          (queueCopy { q with index := r.1 } (q.ownTile (r.2.team q.team).number) r.2))

end Sys2Proof.Claims

/-- R398, R404 to R411: the copy instructions complete, once their descriptor is read and the checks of R405 pass,
by queuing their command; a TMCAST that names no team queues none. -/
def Obligations.CopyInstructionsComplete : Prop :=
  ∀ (h : Hdr) (f : FX),
    Copies (.tcopy h f) f .tcopy ∧ Copies (.tstore h f) f .tstore ∧ Copies (.tgather h f) f .tgather ∧
    Copies (.tmcast h f) f .tmcast ∧ Copies (.tpref h f) f .tpref ∧
    ∀ d : List Byte, TakesIf (.tmcast h f) .once
      (fun c s =>
        let q := newCopy c f .tmcast d s
        some1 c s ∧ hasRead c s (c.view.aval f.e0.toNat) 256 256 d ∧ q.mask = 0#16 ∧
        tensorOk d ((lget q.coords 0).getD 0#32).toInt false = true ∧
        (c.view.sval c.e (f.e3.toNat + 1)).extractLsb' 16 16 = 0#16 ∧ ∀ b, q.bar = some b → b < s.barCount q.team)
      (fun c s => usedUp c s s)

/-! ## Collectives -/

namespace Sys2Proof.Claims

open Sys2Proof Sys2Proof.Machine

/-- The group descriptor at an address has been read, head and whole, and obeys R439 and check 1 of R446. -/
def inGroup (c : Ctx) (s : State) (va : A80) (head whole : List Byte) : Prop :=
  hasRead c s va 64 64 head ∧ groupHeadOk head = true ∧
  hasRead c s va (64 + 8 * leAt head 2 2) 64 whole ∧
  selfOk s (s.warp c.k).team (groupOf whole) = true

/-- SEQ's place, the state after its translation and placement, and SEQ (R440). -/
def seqPlace (c : Ctx) (va : A80) (s : State) : EnginePlace × State :=
  enginePlace (coreOf c.k) (s.warpLaunch c.k) (va + 8#80) .atomic s
def seqState (c : Ctx) (p : Place) (va : A80) (s : State) : State :=
  let t := (seqPlace c va s).2
  touchHome p.key (s.warpLaunch c.k).tkey (dropLine (l1Core (coreOf c.k) (t.clusterFused (coreOf c.k)) p.key) p.key t)
def seqOf (c : Ctx) (p : Place) (va : A80) (s : State) : Nat :=
  leValue ((homeRead p.key 4 (seqState c p va s)).map (·.1))

/-- The completion word of the instance 16 back, where there is one (R441). -/
def wordBack (c : Ctx) (p : Place) (va compl : A80) (s : State) : EngineAns × State :=
  let k := seqOf c p va s
  if k < 16 then (.bytes [], seqState c p va s)
  else readRun (coreOf c.k) (s.warpLaunch c.k) (compl + BitVec.ofNat 80 (16 * (k % 16))) 4 (seqState c p va s)

/-- The instance may be taken: SEQ lies in memory of the package without poison, and the instance 16 back is
complete (R441, R446 check 6). -/
def mayTake (c : Ctx) (p : Place) (va compl : A80) (s : State) : Prop :=
  (seqPlace c va s).1 = .here p ∧ keyKind p.key ≤ 1 ∧ keyPkg p.key = pkgOf (coreOf c.k) ∧
  (homeRead p.key 4 (seqState c p va s)).any (·.2) = false ∧
  (16 ≤ seqOf c p va s → ∃ bs, (wordBack c p va compl s).1 = .bytes bs ∧ bs.any (·.2) = false ∧
    leValue (bs.map (·.1)) = seqOf c p va s - 16)

/-- SEQ + 1 is written and the join made, and the split's descriptor reads are used up (R440, R441). -/
def joined (c : Ctx) (s0 : State) (p : Place) (va : A80) (x : Group) (j : CollJoin) (s : State) : State :=
  let k := seqOf c p va s
  usedUp c s0 (joinInst x.table (BitVec.ofNat 32 k) j
    (homeStore p.key (leBytes 4 (k + 1)) (wordBack c p va x.compl s).2))

/-- The lanes that take part with what they name: member, remote and local offset (R445, R446). -/
def named (c : Ctx) (f : FX) : List LaneRun :=
  (lanesOf c.live).map (fun l =>
    { lane := l, member := ((src c f.e0).word l).toNat, remote := ((src c f.e1).word l).toNat,
      local_ := ((src c f.e2).word l).toNat })

/-- Checks 2 to 5 of R446: the barrier, the members, alignment and bounds. -/
def runsOk (c : Ctx) (f : FX) (get : Bool) (x : Group) (s : State) : Prop :=
  let info := (s.launchOf (s.warp c.k).team).info
  (∀ b, collBar f = some b → b < s.barCount (s.warp c.k).team) ∧
  ∀ r ∈ named c f,
    (r.member < x.nmemb ∨ (get = false ∧ r.member = 2 ^ 32 - 1)) ∧ r.remote % 4 = 0 ∧ r.local_ % 4 = 0 ∧
    r.local_ + 4 * (f.ctl.extractLsb' 17 15).toNat ≤ (if get then info.shared else info.sarea)

/-- A collective instruction joins its instance with its local runs read. -/
def Joins (i : Instr) (f : FX) (q : CollParams) (get : Bool) : Prop :=
  ∀ (head whole : List Byte) (p : Place),
    let x := groupOf whole
    let runs (c : Ctx) (s : State) : List CollLane × State :=
      readRuns c.k (4 * (f.ctl.extractLsb' 17 15).toNat) (!get) (named c f) s
    let va (c : Ctx) : A80 := c.view.aval f.e3.toNat
    TakesIf i .once
      (fun c s => inGroup c s (va c) head whole ∧ runsOk c f get x s ∧ mayTake c p (va c) x.compl (runs c s).2)
      (fun c s => joined c s p (va c) x
        { CollJoin.blank (pkgOf (coreOf c.k)) (s.warp c.k).team x q (collBar f) with lanes := (runs c s).1 }
        (runs c s).2)

end Sys2Proof.Claims

/-- R367, R440, R441, R445 to R450, R459, R462: the collective instructions complete, once their descriptors are read and
the checks of R446 pass, by taking the group's next instance number and joining it; REPART once its team's earlier stores
have completed at fabric scope, with the bytes of its L1 written back first. -/
def Obligations.CollectiveInstructionsComplete : Prop :=
  ∀ (h : Hdr) (f : FX),
    let n := (f.ctl.extractLsb' 17 15).toNat
    Joins (.clred h f) f (.clred h.fmt (f.ctl.extractLsb' 0 3).toNat (f.ctl.extractLsb' 3 6).toNat n) false ∧
    Joins (.clput h f) f (.clput n) false ∧
    Joins (.clget h f) f (.clget n) true ∧
    ∀ (d head whole : List Byte) (p : Place),
      let r := repartOf d
      let x := groupOf whole
      let bar : Option Nat := if f.ctl.getLsbD 7 then some (f.ctl.extractLsb' 0 7).toNat else none
      let sent (c : Ctx) (s : State) : State := releaseL1 (coreOf c.k) (s.fused c.k) 3 s
      TakesIf (.repart h f) .once
        (fun c s => hasRead c s (c.view.aval f.e0.toNat) 128 128 d ∧ repartOk d = true ∧
          inGroup c s r.group head whole ∧ (∀ b, bar = some b → b < s.barCount (s.warp c.k).team) ∧
          repartWaits s c.k = false ∧ mayTake c p r.group x.compl (sent c s))
        (fun c s => joined c s p r.group x
          { CollJoin.blank (pkgOf (coreOf c.k)) (s.warp c.k).team x
              (.repart r.curve r.nf r.widths r.flags r.isz r.koff r.woff) bar with
            src := r.src, nsrc := r.nsrc, land := r.land, cap := r.cap, res := r.res } (sent c s))

/-! ## Barriers and REGROUP -/

namespace Sys2Proof.Claims

open Sys2Proof Sys2Proof.Machine

/-- The barrier that an instruction names, and its record. -/
def barNo (f : FX) : Nat := (f.ctl.extractLsb' 0 7).toNat
def barOf (c : Ctx) (f : FX) (s : State) : Barrier := s.bar (s.warp c.k).team (barNo f)

/-- A barrier of the team is named (R466). -/
def named1 (c : Ctx) (f : FX) (s : State) : Prop := barNo f < s.barCount (s.warp c.k).team

/-- A delivery point: in trap mode nothing is delivered; else it waits for float results and raises FP-EXCEPTION when
a flag is pending (R135; log 19). -/
def delivers (c : Ctx) (s : State) : PreCheck :=
  if (s.warp c.k).trapMode then .pass
  else if (s.warp c.k).floatsOut then .wait
  else if (s.warp c.k).fpPending then .fault { cause := 0x0C#8, va := 0#80, lanes := 0#96 }
  else .pass

/-- An arrival: its scope, that it need not wait and has room, the arrival, and the phase it counts toward
(R467, R474). -/
def scopeOf (c : Ctx) (f : FX) (s : State) : Nat :=
  max (f.ctl.extractLsb' 8 3).toNat (barOf c f s).level.code
def mayArrive (c : Ctx) (scope : Nat) (f : FX) (s : State) : Prop :=
  arriveWaits s c.k scope = false ∧ (barOf c f s).arr ≠ (barOf c f s).initw
def arrived (c : Ctx) (scope : Nat) (f : FX) (s : State) : State :=
  arrive c.k (s.warp c.k).team (barNo f) scope s
def phaseOf (c : Ctx) (f : FX) (s : State) : BitVec 16 :=
  (barOf c f s).ph + (if (barOf c f s).up then 1#16 else 0#16)

/-- The acquire that a completed wait is (R475). -/
def waited (c : Ctx) (f : FX) (s : State) : State :=
  acquireL1 (coreOf c.k) (s.fused c.k) (scopeOf c f s) s

end Sys2Proof.Claims

/-- R473, R474, R475, R477: BINIT sets an idle barrier's counts, BARV arrives and writes the phase, BWAIT returns when
its phase has completed, BEXP raises EXPB and makes the test; each once an issue, and only with a live lane. -/
def Obligations.BarrierInstructionsComplete : Prop :=
  ∀ (h : Hdr) (f : FX),
    let sv (c : Ctx) (r : RCode) : Word := c.view.sval c.e r.toNat
    let held (c : Ctx) (s : State) : BitVec 16 := ((s.warp c.k).wph c.e).getD (barOf c f s).ph
    TakesIf (.binit h f) .first
      (fun c s => named1 c f s ∧ (barOf c f s).arr = 0 ∧ (barOf c f s).bytes = 0 ∧ (barOf c f s).up = false ∧
        (sv c f.e0).toNat ≤ s.warpsLeft (s.warp c.k).team ∧ ((sv c f.e0).toNat ≠ 0 ∨ (sv c f.e1).toNat ≠ 0))
      (fun c s => s.setBar (s.warp c.k).team (barNo f) { barOf c f s with
        initw := (sv c f.e0).toNat, initb := (sv c f.e1).toNat, expb := (sv c f.e1).toNat }) ∧
    TakesOwn (.barv h f) .first delivers
      (fun c s => named1 c f s ∧ mayArrive c (scopeOf c f s) f s)
      (fun c s => (arrived c (scopeOf c f s) f s).modWarp c.k (fun w =>
        w.setS c.e f.e0.toNat ((phaseOf c f s).setWidth 32))) ∧
    TakesOwn (.bwait h f) .first delivers
      (fun c s => named1 c f s ∧ f.e0 ≠ 643#10 ∧
        phaseDone (barOf c f s).ph ((sv c f.e0).extractLsb' 0 16) = true)
      (fun c s => waited c f s) ∧
    TakesOwn (.bwait h f) .first delivers
      (fun c s => named1 c f s ∧ f.e0 = 643#10 ∧ phaseDone (barOf c f s).ph (held c s) = true)
      (fun c s => waited c f (s.modWarp c.k (fun w => w.setWph c.e none))) ∧
    TakesIf (.bexp h f) .first
      (fun c s => named1 c f s ∧ (barOf c f s).expb + (sv c f.e0).toNat < 2 ^ 32)
      (fun c s => barTest (s.warp c.k).team (barNo f) (s.setBar (s.warp c.k).team (barNo f)
        { barOf c f s with expb := (barOf c f s).expb + (sv c f.e0).toNat })) ∧
    Idles (.binit h f) .first ∧ Idles (.barv h f) .first ∧ Idles (.bwait h f) .first ∧ Idles (.bexp h f) .first

/-- R264, R476: BSYNC that has arrived returns when its phase has completed, with ARRIVED cleared; one that arrives
last completes at once; REGROUP outside trap mode records its range, arrives, counts its issue and leaves its split
waiting there for the exchange. -/
def Obligations.BsyncAndRegroupComplete : Prop :=
  ∀ (h : Hdr) (f : FX),
    let x (c : Ctx) : Word := c.view.sval c.e f.e0.toNat
    let flagged (c : Ctx) (s : State) : State :=
      (arrived c (scopeOf c f s) f s).modWarp c.k (fun w =>
        w.setS c.e f.e0.toNat (0x10000#32 ||| (phaseOf c f s).setWidth 32))
    let finished (c : Ctx) (p : BitVec 16) (s : State) : State :=
      (waited c f s).modWarp c.k (fun w => w.setS c.e f.e0.toNat (p.setWidth 32))
    Idles (.bsync h f) .first ∧
    TakesOwn (.bsync h f) .first delivers
      (fun c s => named1 c f s ∧ (x c).getLsbD 16 = true ∧
        phaseDone (barOf c f s).ph ((x c).extractLsb' 0 16) = true)
      (fun c s => finished c ((x c).extractLsb' 0 16) s) ∧
    TakesOwn (.bsync h f) .first delivers
      (fun c s => named1 c f s ∧ (x c).getLsbD 16 = false ∧ mayArrive c (scopeOf c f s) f s ∧
        phaseDone ((flagged c s).bar (s.warp c.k).team (barNo f)).ph (phaseOf c f s) = true)
      (fun c s => (acquireL1 (coreOf c.k) ((flagged c s).fused c.k)
        (max (f.ctl.extractLsb' 8 3).toNat ((flagged c s).bar (s.warp c.k).team (barNo f)).level.code)
        (flagged c s)).modWarp c.k (fun w => w.setS c.e f.e0.toNat ((phaseOf c f s).setWidth 32))) ∧
    ∀ (s : State) (q : Issue), s.cur = some q → clears (.regroup h f) .once s q = true →
      let c := passCtx s q (.regroup h f) .once
      let r := readState (.regroup h f) s q
      let n := if f.e0 = 643#10 then 0 else (f.ctl.extractLsb' 7 6).toNat + 1
      (r.warp c.k).trapMode = false → named1 c f r → (barOf c f r).level = .team → mayArrive c 0 f r →
      exec (.regroup h f) s = .next ((arrive c.k (r.warp c.k).team (barNo f) 0 (countIssue c 1
        ((r.setBar (r.warp c.k).team (barNo f) { barOf c f r with
            regroup := (barOf c f r).regroup ++
              [((r.warp c.k).warpid, f.e0.toNat, n, (phaseOf c f r).toNat)] }).modWarp c.k
          (fun w => w.modSplit c.e (fun y => { y with rgWait := true }))))).modCur
        (fun q => { q with todo := [], status := .finished }))

/-! ## Events -/

namespace Sys2Proof.Claims

open Sys2Proof Sys2Proof.Machine

/-- In every state that meets a condition the event answers the state that eff makes. -/
def Acts (i : Instr) (pre : State → Prop) (eff : State → State) : Prop := ∀ s, pre s → exec i s = .next (eff s)

/-- A package, a core and a warp changed. -/
def onPkg (p : Nat) (g : State → Package → Package) (s : State) : State := s.modPkg p (g s)
def onCore (k : Nat) (g : Core → Core) (s : State) : State := s.modCore k g

end Sys2Proof.Claims

/-- R104, R194, R195, R271, R365, R392, R394, R398: what an instruction has left outstanding ends: a producer with all
its answers, of an issue that goes on no more, lands; a write is acknowledged once it is performed; the pipe and the
matrix engine serve the heads of their queues; a reader that has finished counts no more; a descriptor's bytes
return. -/
def Obligations.OutstandingWorkEnds : Prop :=
  ∀ (k i : Nat) (b : Writeback) (a : Ack) (r : XRequest) (rs : List XRequest) (q : MatrixCmd) (qs : List MatrixCmd)
    (d : Reader) (x : DescRead) (bs : List (Byte × Bool)) (t : State),
    Acts (.longLatencyWriteback k i)
      (fun s => lget (s.warp k).pend i = some b ∧ b.holes = 0 ∧ b.byPipe = false ∧
        ∀ y ∈ (s.warp k).reissues, y.2.produces b.id = false)
      (fun s => regroupAll (s.warp k).team (s.modWarp k (fun w => w.land b))) ∧
    Acts (.writeAcknowledgement k i)
      (fun s => lget (s.warp k).acks i = some a ∧ ∀ y ∈ (s.pkg (pkgOf (coreOf k))).fabric, y.id ≠ a.id)
      (fun s => s.modWarp k (fun w => { w with acks := ldel w.acks i })) ∧
    Acts (.transformServiceStart k) (fun s => (s.core k).pipe = r :: rs ∧ r.started = false)
      (onCore k (fun c => { c with pipe := { r with started := true } :: rs })) ∧
    Acts (.transformReply k)
      (fun s => (s.core k).pipe = r :: rs ∧ r.started = true ∧
        t = onCore k (fun c => { c with pipe := rs }) (resolveStream r s) ∧
        (t.warp r.warp).pend.find? (fun y => y.id == r.wb) = some b)
      (fun _ => regroupAll (t.warp r.warp).team (t.setWarp r.warp ((t.warp r.warp).land { b with
        vwrites := (replyOf t r).vwrites, flags := (replyOf t r).flags
        swrites := ((replyOf t r).sregs.filter (fun y => isS y.1)).map (fun y =>
          { entry := (b.swrites.head?.map (fun z => z.entry)).getD 0, reg := y.1 - 768, val := y.2.1,
            poison := y.2.2 }) }))) ∧
    Acts (.matrixCommandStart k) (fun s => (s.core k).matrix = q :: qs ∧ q.started = false)
      (fun s => onCore k (fun c => { c with matrix := (startCommand k q s).1 :: qs }) (startCommand k q s).2) ∧
    Acts (.matrixCommandComplete k) (fun s => (s.core k).matrix = q :: qs ∧ q.started = true)
      (fun s => onCore k (fun c => { c with matrix := qs })
        (q.members.foldl (fun t m =>
            if (t.warp m.warp).team = q.team then t.modWarp m.warp (fun w => w.batchLeave m.batch q.flags q.sat) else t)
          (q.writes.foldl (fun t w => accWrite q.team w.1 w.2.1 w.2.2 t) s))) ∧
    Acts (.readerFinish k i) (fun s => lget (s.core k).readers i = some d ∧ d.finished = true)
      (onCore k (fun c => { c with
        readers := ldel c.readers i
        tiles := match tget c.tiles d.tile with
          | some y => tput c.tiles d.tile ({ y with readers := y.readers - 1 } : Tile).due
          | none => c.tiles })) ∧
    Acts (.descriptorReadReturn k)
      (fun s => (s.warp k).desc.find? (fun y => !y.returned && y.len != 0) = some x ∧
        readDescriptor k x s = (.bytes bs, t))
      (fun _ => t.modWarp k (fun w => { w with desc := w.desc.map (fun y =>
        if y == x then { y with returned := true, bytes := bs.map (·.1), poisoned := bs.any (·.2) } else y) }))

/-- R279, R321, R406 to R412, R425, R426, R428: the copy engine performs an access of the command whose turn it is among
those that it serves, of which the one after the last that wrote comes next, and completes a command when all are written, crediting its barrier; a multicast access is judged as it arrives; a
channel's bytes land in their slot, and its credits go back, while the receiving team is there. -/
def Obligations.CopiesAndChannelsDeliver : Prop :=
  ∀ (k i : Nat) (q : CopyCmd) (m : McDelivery) (d : ChDelivery) (x : ChCredit),
    Acts (.copyRowWrite k i)
      (fun s => copyServed s k i = true ∧ lget (s.core k).copies i = some q)
      (fun s =>
        let t := onCore k (fun c => { c with copyNext := q.id }) (modCopy k q.id (fun y => { y with begun := true }) s)
        match q.kind with
        | .tstore => storeStep k q t
        | .tpref => prefStep k q t
        | _ => fillStep k q t) ∧
    Acts (.copyCommandComplete k i)
      (fun s => lget (s.core k).copies i = some q ∧ q.stopped = none ∧ q.rows ≤ q.nextRow ∧ q.inFlight = 0)
      (fun s =>
        let t := onCore k (fun c => { c with copies := ldel c.copies i }) s
        copyCredits q (if q.kind ≠ .tstore ∧ q.ownTile (s.team q.team).number = true then fillEnds q.team q.tile t else t)) ∧
    Acts (.multicastDelivery k i) (fun s => lget (s.pkg k).multicasts i = some m)
      (fun s =>
        let r := deliverRow m.toTeam m.tile m.row m.first (List.zipWith (fun b p => (b, p)) m.bytes m.poison)
          (onPkg k (fun _ y => { y with multicasts := ldel y.multicasts i }) s)
        let short := r.1 < m.bytes.length
        let seen := (((s.core m.core).copies.find? (fun y => y.id == m.cmd)).map
          (fun y => y.dropped.contains m.toTeam)).getD false
        let t := if short ∧ seen = false then countCore 0x21 1 (s.team m.toTeam).core r.2 else r.2
        modCopy m.core m.cmd (fun y => { y with
          inFlight := y.inFlight - 1
          credits := tput y.credits m.toTeam ((tget y.credits m.toTeam).getD 0 + r.1)
          dropped := if short then unionList y.dropped [m.toTeam] else y.dropped }) t) ∧
    Acts (.channelDelivery k i)
      (fun s => deliveryDue s (s.pkg k) i = true ∧ lget (s.pkg k).chDeliveries i = some d ∧
        (s.recv d.toTeam d.toEp).decl = true ∧ s.teamHeld d.toTeam = true)
      (fun s =>
        let y := s.recv d.toTeam d.toEp
        (sharedMove d.toTeam (y.base + y.size * d.slot) (List.zipWith (fun b p => (b, p)) d.bytes d.poison)
          (onPkg k (fun _ p => { p with chDeliveries := ldel p.chDeliveries i }) s)).setRecv d.toTeam d.toEp
          { y with cnt := y.cnt + 1 }) ∧
    Acts (.channelCreditReturn k i)
      (fun s => lget (s.pkg k).chCredits i = some x ∧ (s.send x.toTeam x.toEp).decl = true ∧
        s.teamHeld x.toTeam = true)
      (fun s => (onPkg k (fun _ p => { p with chCredits := ldel p.chCredits i }) s).setSend x.toTeam x.toEp
        { s.send x.toTeam x.toEp with cnt := (s.send x.toTeam x.toEp).cnt + 1 })

/-- R34, R218, R221, R222, R228, R229, R309, R422, R428, R467, R468: a team whose warps and engine work are done gives
its resources back, and its launch's last team completes the node with status 0x00; a launch that ends is stopped and
its node completed with its status, but for a replay, which stops the teams, waits for what they have outstanding,
drops their outputs, ends them and launches the node anew; a combiner counts an arrival, and with the last one releases
every team it counts; each release reaches its team; a group of teams is written to its images, and restored where
seats are found, else it waits; an error in a running team's state is counted and ends its launch with status 0x20, or
has it replayed. A FUSEL1 team's end and its resume wait while a line of its cluster's L1s cannot be written back, and a
replay while a declared output lies in a MIGRATING region (R289). -/
def Obligations.TeamsAndLaunchesEnd : Prop :=
  ∀ (t b l i d : Nat) (r : EndReq) (seats : List TeamSeat),
    let lk (s : State) : Nat := (s.team t).launch
    let p (s : State) : Nat := (s.launch l).pkg
    let idle (s : State) : Prop := (s.team t).run = .running ∧ (s.launch (lk s)).ending = none ∧
      engineWork s t = false ∧ freeStalled s t = false ∧
      ∀ k ∈ s.teamWarps t, (s.warp k).retired = true ∧ (s.warp k).pend = []
    let freed (s : State) : State := freeTeam t .retired (closeChannels t (discardQueues t s))
    let last (s : State) : Prop := ∀ u ∈ (freed s).teamsOf (lk s), ((freed s).team u).run = .retired
    let ends (s : State) : Prop := (s.launch l).ending = some r ∧ (s.launch l).finished = false
    let residents (s : State) : List Nat :=
      (s.teamsOf l).filter (fun u => (s.team u).run == .running || (s.team u).run == .preempted)
    let stopped (s : State) : State := (residents s).foldl (fun v u => stopWarps u v) s
    let again (s : State) : Prop := (s.launch l).replaying = true ∧ launchReplays s l < 3
    let busy (s : State) : Prop := ∃ u ∈ residents s, engineWork (stopped s) u = true ∨
      freeStalled (stopped s) u = true ∨
      ∃ k ∈ (stopped s).teamWarps u, ((stopped s).warp k).pend ≠ [] ∨ ((stopped s).warp k).acks ≠ []
    let outStalled (s : State) : Prop :=
      ∃ y ∈ (s.launch l).outputs, rangeStalled (stopped s) (p s) (s.launch l).root y = true
    let undone (s : State) : State := countDie 0x46 1 (p s) 0
      ((clearPins l ((residents s).foldl (fun v u => endOne u (closeChannels u v))
        ((s.launch l).outputs.foldl (fun v y => dropRange (p s) (s.launch l).root y v) (stopped s)))).modLaunch l
          (fun x => { x with finished := true }))
    let runs (s : State) : List Nat := runsWhere (undone s) (p s) (fun _ y => y.phase == .running l)
    let count (s : State) : Nat := (tget (s.launch l).combiners (combinerKey s t b)).getD 0 + 1
    let released (s : State) : State := s.modLaunch l (fun x => { x with releases := ldel x.releases i })
    let group (s : State) : List Nat := preemptGroup s t
    let waits (s : State) : Prop := (s.team t).run = .preempted ∧ (s.launch (lk s)).ending = none
    let place (s : State) : Option (List TeamSeat) := resumeSeats s t (group s).length (launchPart s (lk s))
    let fusing (s : State) : Prop :=
      (s.launch (lk s)).info.fuse = true ∧ ∃ y ∈ seats, l1Stalled s y.core true = true
    let counted (s : State) : State := countError 12 1 (s.launch (lk s)).pkg d s
    let running (s : State) : Prop := d < 2 ∧ (s.team t).run = .running
    Acts (.teamRetire t) (fun s => idle s ∧ ¬last s) (fun s => retryResumes (s.launch (lk s)).pkg (freed s)) ∧
    Acts (.teamRetire t) (fun s => idle s ∧ last s)
      (fun s => retryResumes (s.launch (lk s)).pkg (finishLaunch (lk s) 0#8 0#8 0#32 0 (freed s))) ∧
    Acts (.teamEnd l) (fun s => ends s ∧ again s) stopped ∧
    Acts (.teamEnd l) (fun s => ends s ∧ ¬again s ∧ ∀ u ∈ residents s, freeStalled s u = false)
      (fun s => retryResumes (p s) (finishLaunch l r.status r.cause r.detail
        (if r.status ∈ [0x20#8, 0x21#8, 0x40#8, 0x41#8] then r.team else 0)
        ((residents s).foldl (fun v u => endOne u v) s))) ∧
    Acts (.squallReplay l) (fun s => ends s ∧ again s ∧ (busy s ∨ outStalled s)) stopped ∧
    Acts (.squallReplay l) (fun s => ends s ∧ again s ∧ ¬(busy s ∨ outStalled s))
      (fun s => match (runs s).head? with
        | some n => relaunch (p s) n (modRun (p s) n (fun y => { y with replays := y.replays + 1, phase := .ready })
            (retryResumes (p s) (undone s)))
        | none => retryResumes (p s) (undone s)) ∧
    Acts (.uncorrectableStateError t d) (fun s => running s ∧ (s.launch (lk s)).ending ≠ none) (fun s => s) ∧
    Acts (.uncorrectableStateError t d)
      (fun s => running s ∧ (s.launch (lk s)).ending = none ∧ (s.launch (lk s)).replayable = true)
      (fun s => (counted s).modLaunch (lk s) (fun x => { x with
        ending := some { status := 0x30#8, cause := 0x0B#8, detail := 0#32, team := (s.team t).number }
        replaying := true })) ∧
    Acts (.uncorrectableStateError t d)
      (fun s => running s ∧ (s.launch (lk s)).ending = none ∧ (s.launch (lk s)).replayable = false)
      (fun s => (counted s).modLaunch (lk s) (fun x => { x with
        ending := some { status := 0x20#8, cause := 0x0B#8, detail := 0#32, team := (s.team t).number }
        replaying := false })) ∧
    Acts (.combinerTeamArrival l i)
      (fun s => lget (s.launch l).arrivals i = some (t, b) ∧ count s ≠ (combinerTeams s t b).length)
      (fun s => s.modLaunch l (fun x => { x with
        arrivals := ldel x.arrivals i, combiners := tput x.combiners (combinerKey s t b) (count s) })) ∧
    Acts (.combinerTeamArrival l i)
      (fun s => lget (s.launch l).arrivals i = some (t, b) ∧ count s = (combinerTeams s t b).length)
      (fun s => s.modLaunch l (fun x => { x with
        arrivals := ldel x.arrivals i, combiners := tput x.combiners (combinerKey s t b) 0
        releases := x.releases ++ (combinerTeams s t b).map (fun u => (u, b)) })) ∧
    Acts (.combinerRelease l i)
      (fun s => lget (s.launch l).releases i = some (t, b) ∧
        ((s.team t).run = .running ∨ (s.team t).run = .preempted))
      (fun s => barRelease t b (released s)) ∧
    Acts (.combinerRelease l i)
      (fun s => lget (s.launch l).releases i = some (t, b) ∧
        ((s.team t).run = .retired ∨ (s.team t).run = .ended))
      released ∧
    Acts (.preempt t) (fun s => ∀ u ∈ group s, mayPreempt s u = true)
      (fun s => (group s).foldl (fun v u => preemptOne u v) s) ∧
    Acts (.resume t) (fun s => waits s ∧ place s = some seats ∧ ¬fusing s)
      (fun s =>
        let u := if (s.launch (lk s)).info.fuse then (match seats with | y :: _ => flushCluster y.core s | [] => s) else s
        (List.zipWith (fun a y => (a, y)) (group s) seats).foldl (fun v z =>
          match (v.team z.1).image with
          | some im => regroupAll z.1 (restoreTeam z.1 im z.2 v)
          | none => v) u) ∧
    Acts (.resume t) (fun s => waits s ∧ (place s = none ∨ place s = some seats ∧ fusing s))
      (fun s => (group s).foldl (fun v u => v.modTeam u (fun y => { y with resuming := true })) s)

/-- R442, R443, R447, R449, R454 to R456, R462 to R464: the first packet of a ready instance fixes its chunks and its
status; a later packet of a member is its part of a chunk, read as it sends it: it goes to the root, which writes the
chunk when it has the parts of all who send it, or, of an order-free combination, into a slot of its package's gateway,
where it is held back while no slot is free, and from which the partial passes on towards the root when it combines every
contribution from below. In REPART the member's items are read first, and everything moves, with the residue lists, when
all have sent or are lost. A deadline asks for a rerun, which frees the chunk's slots and asks every member not lost to
send directly; a member twice late is lost, in REPART to every chunk, which begin anew; a member's barrier credit comes
before its completion word; a gateway's reset loses the partials in its slots. That REPART moves in one act and that an
instance whose teams have all ended waits no longer is the model's choice (log 25). -/
def Obligations.CollectivesRun : Prop :=
  ∀ (n m j d p k g : Nat) (x : Inst) (cs : List Chunk) (c : Chunk) (y : CollJoin) (items is : List RepItem)
    (e : CombSlot) (bad : Nat × EngineAns × Bool) (t u v : State) (bs : List (Byte × Bool)),
    let here (s : State) : Prop := tget s.insts n = some x
    let chunk (s : State) : Prop := here s ∧ x.chunks = some cs ∧ lget cs j = some c
    let repart : Bool := match x.governing with | some q => q.isRepart | none => false
    let sends (s : State) : Prop := chunk s ∧ x.peer m = some y ∧ maySend s x c m = true
    let gone (s : State) : Prop :=
      chunk s ∧ chunkOver s x c = false ∧ m ∉ c.sent ∧ m ∉ c.lost ∧ 2 ≤ (tget c.late m).getD 0
    let first (s : State) : Prop := sends s ∧ y.params.isRepart = false ∧ m ∉ c.sent
    let toSlot : Bool := x.slotted && !c.direct
    let slotFor (s : State) : Option State :=
      (treeGateway s x c (treePos x c m)).bind (fun w => holdInSlot w.1 w.2 n j [m] s)
    let part (s : State) : State :=
      let r := sendParts y x.runBytes c ((instRuns s x).filter (fun w => w.src == m && w.into x.runBytes c)) s
      r.2.modChunk n j (fun h => { h with sent := h.sent ++ [m], parts := h.parts ++ r.1 })
    let got (ms : List Nat) (s : State) : State :=
      settleChunk n j (s.modChunk n j (fun h => { h with got := unionList h.got ms }))
    let freed (q : Nat) (s : State) : State :=
      s.modPkg q (fun w => { w with slots := w.slots.filter (fun f => !(f.inst == n && f.chunk == j)) })
    let inSlot (s : State) (at_ : Nat) : Prop :=
      treeGateway s x c at_ = some (p, d) ∧
      (s.pkg p).slots.find? (fun f => f.inst == n && f.chunk == j) = some e
    let whole (s : State) (at_ : Nat) : Prop :=
      ∀ w ∈ chunkSenders s x c, w ∉ c.lost → passesBy 4 (treePos x c w) at_ = true → w ∈ e.members
    let known : Prop := ∀ w ∈ x.conforming, w.items ≠ none ∨ w.member ∈ x.lostMembers
    let mayMove (s : State) : Prop :=
      (∀ h ∈ x.chunks.getD [], h.done = false ∧ ∀ w ∈ chunkSenders s x h, w ∈ h.got ∨ w ∈ h.lost) ∧
      ∀ w ∈ x.conforming, joinDead s w = false ∨ w.member ∈ x.lostMembers
    Acts (.collectivePacket n m j) (fun s => here s ∧ x.chunks = none ∧ instReady s x = true)
      (fun s => s.modInst n (fun z => { z with chunks := some (formChunks s x), status := formStatus s x })) ∧
    Acts (.collectivePacket n m j) (fun s => first s ∧ toSlot = false) (fun s => got [m] (part s)) ∧
    Acts (.collectivePacket n m j) (fun s => first s ∧ toSlot = true ∧ slotFor s = none) (fun s => s) ∧
    Acts (.collectivePacket n m j) (fun s => first s ∧ toSlot = true ∧ slotFor s = some t)
      (fun _ => passUp n j x c 5 (treePos x c m) (part t)) ∧
    Acts (.collectivePacket n m j) (fun s => sends s ∧ y.params.isRepart = false ∧ m ∈ c.sent)
      (fun s => (pathUp 4 (treePos x c m)).foldl (fun s w => passUp n j x c 5 w s) s) ∧
    (∀ s : State, inSlot s k → ¬whole s k → passUp n j x c (g + 1) k s = s) ∧
    (∀ s : State, inSlot s 0 → whole s 0 → passUp n j x c (g + 1) 0 s = got e.members (freed p s)) ∧
    (∀ (s : State) (w : Nat × Nat), inSlot s (k + 1) → whole s (k + 1) →
      treeGateway s x c (actingAbove s x c 4 (k + 1)) = some w →
      passUp n j x c (g + 1) (k + 1) s =
        match holdInSlot w.1 w.2 n j e.members s with
        | some v => passUp n j x c g (actingAbove s x c 4 (k + 1)) (freed p v)
        | none => s) ∧
    Acts (.collectivePacket n m j)
      (fun s => sends s ∧ y.params.isRepart = true ∧ y.items = none ∧
        readItems y (List.range y.nsrc) s = (.ok items, t))
      (fun _ => countErrorAt 15 (items.filter (fun e => e.poisoned)).length (t.team y.team).core
        (t.modJoin n m (fun w => { w with items := some items }))) ∧
    Acts (.collectivePacket n m j)
      (fun s => sends s ∧ y.params.isRepart = true ∧ y.items = some is ∧ known)
      (fun s => repartMove n (s.modChunk n j (fun h =>
        if m ∈ c.sent then h else { h with sent := h.sent ++ [m], got := unionList h.got [m] }))) ∧
    (∀ s : State, here s → ¬mayMove s → repartMove n s = s) ∧
    (∀ s : State, here s → mayMove s → stepsUntil (repartSteps s x) s = (none, t) →
      repartMove n s = t.modInst n (fun z => { z with
        joins := z.joins.map (fun w => { w with listed := true })
        chunks := z.chunks.map (fun hs => hs.map (fun h => { h with done := true })) })) ∧
    (∀ s : State, here s → mayMove s → stepsUntil (repartSteps s x) s = (some bad, t) →
      repartMove n s = joinFault n bad.1 bad.2.1 bad.2.2 s) ∧
    Acts (.collectiveDeadlineExpiry n m j)
      (fun s => chunk s ∧ c.asked = false ∧ awaitsChunk s x c m = true)
      (fun s => s.modChunk n j (fun c => { c with
        asked := true, late := c.late.map (fun e => if c.sent.contains e.1 then e else (e.1, e.2 + 1)) })) ∧
    Acts (.collectiveRerun n j) (fun s => chunk s ∧ c.asked = true ∧ c.done = false)
      (fun s =>
        let ms := (chunkSenders s x c).filter (fun m => !c.lost.contains m)
        let late := ms.foldl (fun t m =>
          tput t m (if c.sent.contains m then 0 else (tget c.late m).getD 0)) ([] : Tbl Nat)
        countDie 0x45 1 (chunkRoot s x c).1 (chunkRoot s x c).2
          ((((s.pkgs.map (·.1)).foldl (fun v q => freed q v) s).modChunk n j (fun c => { c with
              asked := false, sent := [], got := [], parts := [], late := late, direct := true })).modInst n
            (fun z => { z with reruns := z.reruns + 1 }))) ∧
    Acts (.memberLost n m j) (fun s => gone s ∧ repart = false)
      (fun s => settleChunk n j ((s.modInst n (fun z => { z with status := 4 })).modChunk n j
        (fun c => { c with lost := c.lost ++ [m] }))) ∧
    Acts (.memberLost n m j) (fun s => gone s ∧ repart = true)
      (fun s => (s.modInst n (fun z => { z with status := 4 })).modInst n (fun z => { z with
        chunks := z.chunks.map (fun hs => hs.map (fun h =>
          { h with lost := unionList h.lost [m], sent := [], got := [] })) })) ∧
    Acts (.collectiveInstanceComplete n m)
      (fun s => here s ∧ x.join m = some y ∧ instDone s x = true ∧ y.completed = false ∧ y.faulted = none ∧
        joinDead s y = false ∧ u = creditJoin n x y s ∧
        writeRun (u.team y.team).core (u.launchOf y.team) (y.compl + BitVec.ofNat 80 (16 * (x.number.toNat % 16)))
          ((leBytes 16 (complWord x y)).map (fun b => (b, false))) u = (.bytes bs, v))
      (fun _ => closeInst n (v.modJoin n m (fun y => { y with completed := true }))) ∧
    Acts (.gatewayReset p d) (fun _ => d < 2)
      (onPkg p (fun _ w => { w with slots := w.slots.filter (fun f => f.die != d) }))

/-- R41, R214, R218, R220, R248, R281 to R286, R345, R366, R435 to R438: a fabric request is served at its target,
after the earlier ones to its line and with the atomics of its pass to that line, once its promotion is made; or it is
given up; a package takes its number; walks start within their limits, fill the TLBs, or fail; a line arrives; a
promotion is made. Firmware answers a page fault: once every page is mapped the warp issues again in the lanes that
faulted, the copy or the collective goes on, and the front end makes its access once more; where a page is still not
mapped, or now refused, the warp traps with the fault it recorded, and the team ends, or the node fails, with the cause
found now; a walk that meets a bad entry is a state error (R218). SYSC is answered. -/
def Obligations.FabricWalksAndServices : Prop :=
  ∀ (p k i n slice line key : Nat) (r : FabricReq) (pl : Place) (v : Walk) (e : BitVec 64) (big : Bool)
    (cause : BitVec 8) (a tries : Nat) (o x y : Word) (f : FaultRec) (q : CopyCmd) (j : CollJoin) (z : NodeRun)
    (g : Ring) (va : A80) (pd : Nat × Nat) (wr : Bool) (d : List Byte) (bs : List (Byte × Bool)) (u : State),
    let done (ids : List Nat) (s : State) : State :=
      onPkg p (fun _ z => { z with fabric := z.fabric.filter (fun q => !ids.contains q.id) }) s
    let first (s : State) : Prop :=
      lget (s.pkg p).fabric i = some r ∧ (∀ q ∈ (s.pkg p).fabric.take i, sameLine r q = false) ∧
        r.place = some key ∧ regionIs s key .migrating = false ∧
        (r.tag ≠ none → recordStalled s key (coreOf r.warp) = false)
    let held (s : State) : Prop := r.acquires = true ∧ (promoPending s key (coreOf r.warp)).isSome = true
    let group (s : State) : List FabricReq := lineGroup r ((s.pkg p).fabric.drop (i + 1))
    let started (s : State) : Prop := lget (s.pkg p).walks i = some v ∧ v.started = true
    let page : Nat := 2 ^ 16 * v.page
    let reads (s : State) : State := walkReads s p v.root page (walkTkey s v)
    let dropped (s : State) : State := onPkg p (fun _ z => { z with walks := ldel z.walks i }) (reads s)
    let thaw (s : State) : State := s.modWarp k (fun w => { w with frozen := ldel w.frozen i })
    let filled (s : State) : State := icacheFill (coreOf k) (pl.key / 64) (s.warpLaunch k).tkey s
    let fits (s : State) : Prop :=
      parityOk ((tget ((filled s).core (coreOf k)).icache (pl.key / 64)).getD 0#512) = true
    let quiet (s : State) : Prop := (s.warp k).acks = [] ∧ (∀ b ∈ (s.warp k).pend, b.holes = 0) ∧
      (s.warpTeam k).run = .running ∧ l1Stalled s (coreOf k) (s.fused k) = false
    let stores (s : State) : State := releaseL1 (coreOf k) (s.fused k) 4 s
    let stops (s : State) : State := (stores s).modWarp k (fun w => { w with park := .stopped })
    let parked (s : State) : Prop := (s.warp k).park = .pageFault f ∧ (s.warpTeam k).run = .running
    let found (s : State) (x : A80 × Nat) : Except (Nat × Nat) (Option (BitVec 8)) :=
      mapsNow s (coreOf k) (s.warpLaunch k) x.1 (Access.ofCode (x.2 % 8)) (x.2 < 8)
    let trapping (s : State) : Warp × Bool := ({ s.warp k with park := .no } : Warp).readyTrap f.entry f.stand f.decoded
      (if f.more then some ((f.pc.extractLsb' 36 4).toNat + 1) else none)
    let halted (s : State) : Prop := (s.core k).copies.find? (fun y => y.id == i) = some q ∧ ∃ c, q.stopped = some (c, va)
    let copyFound (s : State) : Except (Nat × Nat) (Option (BitVec 8)) :=
      mapsNow s k (s.launchOf q.team) va (if q.kind = .tstore then .write else .read) true
    let faulted (s : State) : Prop := (tget s.insts k).bind (fun x => x.join i) = some j ∧ ∃ c, j.faulted = some (c, va, wr)
    let joinFound (s : State) : Except (Nat × Nat) (Option (BitVec 8)) :=
      mapsNow s (s.team j.team).core (s.launchOf j.team) va (if wr then .write else .read) true
    let waiting (what : Nat) (s : State) : Prop :=
      s.runAt k i = some z ∧ (∃ c, z.phase = .waitFault c what tries) ∧ s.ringOf k z.ring = some g
    let again (s : State) : State := setRun k i { z with phase := .ready } s
    let word : Nat := leValue (bs.map (·.1))
    Acts (.fabricTargetRequest p i) (fun s => first s ∧ held s) (askPromotion key (coreOf r.warp)) ∧
    Acts (.fabricTargetRequest p i) (fun s => first s ∧ ¬held s)
      (fun s => (group s).foldl (fun u q => match q.place with | some z => serveRequest q z u | none => u)
        (done ((group s).map (·.id)) s)) ∧
    Acts (.fabricRequestTimeout p i) (fun s => lget (s.pkg p).fabric i = some r)
      (fun s => abandonRequest r (done [r.id] s)) ∧
    Acts (.linkBringUp p n) (fun _ => n < 1024) (onPkg p (fun _ z => { z with number := n, inDomain := true })) ∧
    Acts (.walkStart p i) (fun s => walkMayStart (s.pkg p) i = true ∧ lget (s.pkg p).walks i = some v)
      (onPkg p (fun _ z => { z with
        walks := lset z.walks i { v with started := true }
        walkNext := tput z.walkNext (dieOf v.core) ((v.core / 4 + 1) % 40) })) ∧
    Acts (.walkComplete p i) (fun s => started s ∧ walk (reads s) p v.root page = .leaf e big)
      (fun s => v.lines.foldl (fun u z => giveLine p v e big z u)
        (v.waiters.foldl (fun u m => giveLeaf v e big m u) (dropped s))) ∧
    Acts (.walkComplete p i) (fun s => started s ∧ walk (reads s) p v.root page = .fault cause)
      (fun s => v.waiters.foldl (fun u m =>
        u.modWarp m.1 (fun w => { w with
          walkFails := tput w.walkFails (failKey v.page (m.2 / 16) (m.2 % 16)) cause })) (dropped s)) ∧
    Acts (.walkComplete p i) (fun s => started s ∧ walk (reads s) p v.root page = .bad)
      (fun s => (walkTeams s v).foldl (fun u m => stateErrorAt m p (dieOf v.core) u) (dropped s)) ∧
    Acts (.icacheLineArrival k i)
      (fun s => lget (s.warp k).frozen i = some (a, tries) ∧ pl.poa = false ∧
        warpTrans s k fetchEntry (BitVec.ofNat 80 a) .fetch = .ok pl ∧ (tries = 1 → fits s))
      (fun s => thaw (filled s)) ∧
    Acts (.promotionRequest p slice line) (fun _ => True)
      (fun s => (((s.pkg p).promoOf slice).filter (fun z => z.line == line && z.asked && !promoStalled s z)).foldl
        (fun u z => promote p slice z u) s) ∧
    Acts (.pageFaultServiceReply .warp k i)
      (fun s => parked s ∧ ∀ x ∈ f.named, found s x = .ok none)
      (fun s => s.modWarp k (fun w => { w.forgetWalks with
        park := .no
        reissues := tput w.reissues f.entry { f.stand with
          low := some ((planesOf (f.pc.extractLsb' 32 4)).headD 0, f.lanes), pinned := true
          progress := { f.stand.progress with wb := none } } })) ∧
    Acts (.pageFaultServiceReply .warp k i)
      (fun s => parked s ∧ (∃ x ∈ f.named, found s x ≠ .ok none) ∧ ∀ x ∈ f.named, ∃ c, found s x = .ok c)
      (fun s => settle k (raiseFault k f.entry f.pc { cause := f.cause, va := f.va, lanes := f.lanes }
        (countWarp 0x06 (if (trapping s).2 then 1 else 0) k
          (s.setWarp k ((trapping s).1.shiftPlanes f.stand.progress.shifts).forgetWalks)))) ∧
    Acts (.pageFaultServiceReply .warp k i)
      (fun s => parked s ∧ f.named.findSome? (fun x => match found s x with | .error y => some y | .ok _ => none) = some pd)
      (fun s => stateErrorAt (s.warp k).team pd.1 pd.2 s) ∧
    Acts (.pageFaultServiceReply .copyCommand k i) (fun s => halted s ∧ copyFound s = .ok none)
      (modCopy k i (fun y => { y with stopped := none })) ∧
    Acts (.pageFaultServiceReply .copyCommand k i) (fun s => halted s ∧ copyFound s = .ok (some cause))
      (endTeam q.team 0x20#8 cause 0#32) ∧
    Acts (.pageFaultServiceReply .copyCommand k i) (fun s => halted s ∧ copyFound s = .error pd)
      (stateErrorAt q.team pd.1 pd.2) ∧
    Acts (.pageFaultServiceReply .collective k i) (fun s => faulted s ∧ joinFound s = .ok none)
      (fun s => s.modJoin k i (fun y => { y with faulted := none })) ∧
    Acts (.pageFaultServiceReply .collective k i) (fun s => faulted s ∧ joinFound s = .ok (some cause))
      (endTeam j.team 0x20#8 cause 0#32) ∧
    Acts (.pageFaultServiceReply .collective k i) (fun s => faulted s ∧ joinFound s = .error pd)
      (stateErrorAt j.team pd.1 pd.2) ∧
    Acts (.pageFaultServiceReply .frontEnd k i)
      (fun s => waiting feRecord s ∧ readRecord k z.ring z.slot s = (.copy d, u) ∧ u.runAt k i = some z ∧ nodeOk d = true)
      (fun _ => setLive k z.ring z.slot (nodeOf d).preds
        (setRun k i { z with record := some d, phase := .ready } u)) ∧
    Acts (.pageFaultServiceReply .frontEnd k i)
      (fun s => waiting feRecord s ∧ readRecord k z.ring z.slot s = (.fault cause, u) ∧ u.runAt k i = some z)
      (fun _ => notify k (.nodeUnreadable z.ring z.slot) (dropRun k i u)) ∧
    Acts (.pageFaultServiceReply .frontEnd k i)
      (fun s => waiting feCond s ∧ z.node.kind = 3 ∧ feAcquire k g z.node.cond 4 (again s) = (.bytes bs, u))
      (fun _ => succeed k i ((lget z.node.succ (if word = 0 then 1 else 0)).toList ++ z.node.succ.drop 2) u) ∧
    Acts (.pageFaultServiceReply .frontEnd k i)
      (fun s => waiting feWait s ∧ z.node.kind = 6 ∧ feAcquire k g z.node.cond 8 (again s) = (.bytes bs, u))
      (fun _ => if z.node.value ≤ word then succeed k i z.node.succ u
        else modRun k i (fun r => { r with phase := .waitWord }) u) ∧
    Acts (.pageFaultServiceReply .frontEnd k i)
      (fun s => waiting feSignal s ∧ z.node.kind = 5 ∧
        feWrite k g z.node.cond ((leBytes 8 z.node.value).map (fun b => (b, false))) (again s) = (.bytes bs, u))
      (fun _ => succeed k i z.node.succ u) ∧
    Acts (.pageFaultServiceReply .frontEnd k i)
      (fun s => waiting feWait s ∧ z.node.kind = 6 ∧ u.runAt k i = some { z with phase := .ready } ∧
        feAcquire k g z.node.cond 8 (again s) = (.fault cause va, u))
      (fun _ => setRun k i { (({ z with phase := .ready } : NodeRun).finish 0x13#8 cause 0#32 0) with
        release := [], listed := true } u) ∧
    Acts (.syscReply k) (fun s => (s.warp k).park = .sysc 1 x y o ∧ quiet s)
      (fun s => notify (s.warpLaunch k).pkg
        (.notify (BitVec.ofNat 32 (teamIdWord k (s.warpTeam k))) (BitVec.ofNat 32 (s.warp k).warpid) o x y)
        ((stores s).modWarp k (fun w => { w with park := .no }))) ∧
    Acts (.syscReply k)
      (fun s => (s.warp k).park = .sysc 2 x y o ∧ quiet s ∧ (s.warpLaunch k).replayable = true)
      (fun s => squall (s.warp k).team (stops s)) ∧
    Acts (.syscReply k)
      (fun s => (s.warp k).park = .sysc n x y o ∧ n ≠ 1 ∧ quiet s ∧ (n = 2 → (s.warpLaunch k).replayable = false))
      (fun s => endTeam (s.warp k).team (if n = 2 then 0x41#8 else 0x40#8) 0#8 x (stops s))

/-- R88, R94, R246, R259, R294, R370, R430 to R432, R488: staging ends, or begins for a set that was released; a split
or a trap split ages or yields no more; scrubs and sweeps visit what they name; clocks count; and the die link's
modules turn one change at a time, a guard raising one direction to 8. -/
def Obligations.TimeScrubsAndModules : Prop :=
  ∀ (k e p d i n : Nat) (ns : List Nat) (c : Clock),
    let unstaged (s : State) : List Nat := (s.warp k).unstaged (s.warp k).ws
    Acts (.stagingComplete k) (fun s => (tget s.warps k).isSome = true ∧ unstaged s = [])
      (fun s => s.modWarp k (fun w => { w with staged := true })) ∧
    Acts (.stagingComplete k) (fun s => (tget s.warps k).isSome = true ∧ unstaged s ≠ []) (stageSet k) ∧
    Acts (.readyAgeExpiry k e) (fun s => e < 8 ∧ (s.warp k).trapMode = false ∧ splitReady s k e = true)
      (fun s => s.modWarp k (fun w => w.modSplit e (fun x => { x with aged := true }))) ∧
    Acts (.readyAgeExpiry k 8)
      (fun s => (s.warp k).trapMode = true ∧ splitReady s k (s.warp k).trapEntry = true)
      (fun s => s.modWarp k (fun w => { w with trapSplit := w.trapSplit.map (fun x => { x with aged := true }) })) ∧
    Acts (.yieldTimeout k e) (fun s => e < 8 ∧ (tget s.warps k).isSome = true)
      (fun s => s.modWarp k (fun w => w.modSplit e (fun x => { x with yielded := false }))) ∧
    Acts (.yieldTimeout k 8) (fun s => (tget s.warps k).isSome = true)
      (fun s => s.modWarp k (fun w => { w with
        trapSplit := w.trapSplit.map (fun x => { x with yielded := false }) })) ∧
    Acts (.registerScrub k i) (fun _ => i < 4)
      (fun s => (List.range 12).foldl (fun u j =>
        match tget u.warps (48 * k + (12 * i + j)) with
        | none => u
        | some w => resolveMainFile (48 * k + (12 * i + j)) (w.vregs.map (·.1)) u) s) ∧
    Acts (.accumScrub k) (fun _ => True) (fun s => (s.core k).accumFlips.foldl (fun u x => resolveAcc k x.1 u) s) ∧
    Acts (.residencySweep p d) (fun s => d < 2 ∧ (tget (s.pkg p).sweepDue d).getD false = true)
      (fun s => (((s.pkg p).segLines.filter (fun x => x.1 / (16 * 16384) / 288 == d)).map (·.1)).foldl
        (fun u w => sweepLine p d w u) (onPkg p (fun _ x => { x with sweepDue := tdel x.sweepDue d }) s)) ∧
    Acts (.clockCycle c)
      (fun _ => match c with | .core _ => True | .mesh _ d => d < 2 | .link _ d => d < 2 | .complex _ d => d < 2)
      (fun s => match c with
        | .core g => onCore g (fun x => { x with cycle := x.cycle + 1#64 })
          (((List.range 48).filter (fun j => !(s.warp (48 * g + j)).frozen.isEmpty)).foldl
            (fun u j => countWarp 0x02 1 (48 * g + j) u) s)
        | .mesh p d => onPkg p (fun _ x => { x with meshCycles := bump x.meshCycles d 1 }) s
        | .link p d => onPkg p (fun _ x => { x with linkCycles := bump x.linkCycles d 1 }) s
        | .complex p d => onPkg p (fun _ x => { x with
            firmware := tput x.firmware d { x.fw d with cycles := (x.fw d).cycles + 1#64 } }) s) ∧
    Acts (.turnaroundStart p) (fun s => (s.pkg p).turnActive = none ∧ (s.pkg p).turnQueue = n :: ns)
      (fun s => endTurn p (s.setPkg p ((s.pkg p).beginTurn n false))) ∧
    Acts (.moduleDrained p i)
      (fun s => ((s.pkg p).module i).taken = true ∧ ((s.pkg p).module i).drained = false)
      (fun s => onPkg p (fun s x => { x with
        modules := tput x.modules i { (s.pkg p).module i with drained := true } }) s) ∧
    Acts (.moduleDeadTimeExpiry p i)
      (fun s => ((s.pkg p).module i).taken = true ∧ ((s.pkg p).module i).drained = true)
      (fun s =>
        let turned : Module := { toward1 := !((s.pkg p).module i).toward1, taken := false, drained := false }
        endTurn p (onPkg p (fun _ x => { x with modules := tput x.modules i turned }) s)) ∧
    Acts (.starvationGuard p d)
      (fun s => ((s.pkg p).carrying (d = 1)).length < 8 ∧ decide (d = 1) ∉ (s.pkg p).guards)
      (fun s => countDie 0x42 1 p 0 (s.setPkg p
        (if (s.pkg p).turnActive.isSome then { s.pkg p with guards := (s.pkg p).guards ++ [decide (d = 1)] }
         else (s.pkg p).beginTurn (if d = 1 then 8 else 24) true)))

/-! ## The front end -/

namespace Sys2Proof.Claims

open Sys2Proof Sys2Proof.Machine

/-- A ready run of a slot with the copy of its record, the one it holds or one read now, of a kind that starts now
(R299, R300, R306). -/
def starts (p ring slot kind i : Nat) (g : Ring) (d : List Byte) (t s : State) : Prop :=
  findRun s p ring slot (· == .ready) = some i ∧ s.ringOf p ring = some g ∧
  (∃ r, s.runAt p i = some r ∧ t = if r.record.isSome then s else fetchCopy p i s) ∧
  (∃ r, t.runAt p i = some r ∧ r.phase = .ready ∧ r.record = some d) ∧
  (nodeOf d).kind = kind ∧ (kind = 1 → untriedAhead s p i (nodeOf d) = false)

end Sys2Proof.Claims

/-- R302, R307: a node of each kind acts: NOP completes; COPY moves its bytes; COND chooses by its word; WHILE loops
or exits; SIGNAL stores; WAIT completes when its word has reached VALUE; KERNEL, with a good launch record, is
placed. -/
def Obligations.NodesAct : Prop :=
  ∀ (p ring slot i : Nat) (g : Ring) (d : List Byte) (t u v : State) (bs os : List (Byte × Bool)) (r : NodeRun),
    let x := nodeOf d
    let at' (kind : Nat) (s : State) : Prop := starts p ring slot kind i g d t s
    let word : Nat := leValue (bs.map (·.1))
    let l := launchRecOf (bs.map (·.1))
    let waits (s : State) : Prop :=
      findRun s p ring slot (· == .waitWord) = some i ∧ s.ringOf p ring = some g ∧ s.runAt p i = some r
    Acts (.nopNode p ring slot) (at' 0) (fun _ => succeed p i x.succ t) ∧
    Acts (.kernelNode p ring slot)
      (fun s => at' 1 s ∧ feRead p g x.lrec 512 t = (.bytes bs, u) ∧ l.coll = (x.part == 0#32) ∧
        launchCode x.lrec (bs.map (·.1)) = 0 ∧ feasible u p l x.part = true ∧
        (∀ y, t.runAt p i = some y → y.replays = 0) ∧
        (if x.nout = 0 then os = [] ∧ v = u else feRead p g x.outlist (16 * x.nout) u = (.bytes os, v)))
      (fun _ => tryPlace p i (modRun p i (fun r => { r with
        lrec := some l, outputs := outputsOf (os.map (·.1)) x.nout }) v)) ∧
    Acts (.copyNode p ring slot)
      (fun s => at' 2 s ∧
        copyPieces p g (piecesOf x.lrec x.value) x.args (loadPhase p g.tkey x.phase t) = (.bytes bs, u))
      (fun _ => succeed p i x.succ u) ∧
    Acts (.condNode p ring slot) (fun s => at' 3 s ∧ feAcquire p g x.cond 4 t = (.bytes bs, u))
      (fun _ => succeed p i ((lget x.succ (if word = 0 then 1 else 0)).toList ++ x.succ.drop 2) u) ∧
    Acts (.whileNode p ring slot) (fun s => at' 4 s ∧ feAcquire p g x.cond 4 t = (.bytes bs, u) ∧ word = 0)
      (fun _ => succeed p i (x.succ.drop 1) u) ∧
    Acts (.whileNode p ring slot) (fun s => at' 4 s ∧ feAcquire p g x.cond 4 t = (.bytes bs, u) ∧ word ≠ 0 ∧
        t.runAt p i = some r)
      (fun _ => ((lget x.succ 0).toList).foldl (fun s y => releaseOne p y s)
        (setLive p r.ring r.slot x.loopPreds (dropRun p i u))) ∧
    Acts (.signalNode p ring slot)
      (fun s => at' 5 s ∧ feWrite p g x.cond ((leBytes 8 x.value).map (fun b => (b, false))) t = (.bytes bs, u))
      (fun _ => succeed p i x.succ u) ∧
    Acts (.waitNode p ring slot) (fun s => at' 6 s ∧ feAcquire p g x.cond 8 t = (.bytes bs, u) ∧ x.value ≤ word)
      (fun _ => succeed p i x.succ u) ∧
    Acts (.waitNode p ring slot) (fun s => at' 6 s ∧ feAcquire p g x.cond 8 t = (.bytes bs, u) ∧ word < x.value)
      (fun _ => modRun p i (fun r => { r with phase := .waitWord }) u) ∧
    Acts (.waitNodeReread p ring slot)
      (fun s => waits s ∧ feAcquire p g r.node.cond 8 s = (.bytes bs, u) ∧ r.node.value ≤ word)
      (fun _ => succeed p i r.node.succ u) ∧
    Acts (.waitNodeReread p ring slot)
      (fun s => waits s ∧ feAcquire p g r.node.cond 8 s = (.bytes bs, u) ∧ word < r.node.value)
      (fun _ => modRun p i (fun r => { r with phase := .waitWord }) u)

/-- R24, R296, R299, R300, R303, R306: a doorbell that names a bound ring and a slot of it drops the prefetched copies
and makes the slot ready as its bits say, any other is counted; an 8-byte store of the package to offset 0 of
a doorbell page of its own BAR0 is a doorbell on its way; a record is prefetched where the ring has room; a torn copy is
read again, for a run that starts, for a live count or for a prefetch, up to 1,024 mismatches, with which the node fails
with status 0x11. A launch that waits is tried again: it commits once no node ahead holds it back and its teams have
seats; after 1 ms it blocks. A node that is done reads its overflow list, writes its completion word and releases its
successors, or none with a status other than 0. -/
def Obligations.DoorbellsRecordsAndCompletions : Prop :=
  ∀ (p ring slot i n m : Nat) (v : BitVec 64) (r : Ring) (d : List Byte) (t u : State) (z : NodeRun) (l : LaunchRec)
    (seats : List TeamSeat) (bs os : List (Byte × Bool)),
    let slotNo := (v.extractLsb' 0 16).toNat
    let good (s : State) : Prop := s.ringOf p ring = some r ∧ v.extractLsb' 18 46 = 0#46 ∧ slotNo < 2 ^ r.logSlots
    let bad (s : State) : Prop :=
      s.ringOf p ring = none ∨ ∃ r, s.ringOf p ring = some r ∧ (v.extractLsb' 18 46 ≠ 0#46 ∨ 2 ^ r.logSlots ≤ slotNo)
    let rung (s : State) : State :=
      let s1 := if v.getLsbD 17 then modRing p ring (fun x => { x with prefetched := [], torn := [] }) s else s
      if v.getLsbD 16 then addRun p (freshRun ring slotNo .ready) s1 else s1
    let room (s : State) : Prop := s.ringOf p ring = some r ∧ slot < 2 ^ r.logSlots ∧
      (r.prefetched.length < 32 ∨ (tget r.prefetched slot).isSome = true)
    let rereads : NodePhase → Bool := fun ph => match ph with | .reread _ | .loading _ => true | _ => false
    let here (s : State) : State := s.modPkg p (fun x => { x with bells := x.bells.erase (ring, v) })
    let again (ph : NodePhase) (s : State) : Prop := findRun s p ring slot rereads = some i ∧ s.runAt p i = some z ∧
      z.phase = ph ∧ z.ring = ring ∧ z.slot = slot
    let counts (k : Nat) (s : State) : State :=
      let left := (k + 65535) % 65536
      let s1 := setLive p ring slot left s
      if left = 0 then addRun p (freshRun ring slot .ready) s1 else s1
    let unloaded (s : State) : Prop := s.ringOf p ring = some r ∧ tget r.live slot = none
    let waits (s : State) : Prop := findRun s p ring slot (· == .waitPlace) = some i ∧ s.runAt p i = some z ∧
      z.lrec = some l ∧ s.ringOf p z.ring = some r
    let fits (s : State) : Prop := heldBack s p i z = false ∧ placeNow s p l z.node.part = some seats ∧
      seatsStalled s l seats = false
    let ends (s : State) : Prop := findRun s p ring slot (· == .done) = some i ∧ s.runAt p i = some z ∧
      s.ringOf p z.ring = some r
    let writes (y : NodeRun) (s t : State) : Prop := y.written = false ∧ t.runAt p i = some y ∧
      feWrite p r y.node.compl ((leBytes 16 (completionWord y)).map (fun b => (b, false))) s = (.bytes bs, t)
    let settled (y : NodeRun) (t : State) : State :=
      y.release.foldl (fun s ref => releaseOne p ref s) (dropRun p i (setRun p i { y with written := true } t))
    let none' : NodeRun := { z with listed := true, release := [] }
    let listed : NodeRun := { z with
      listed := true
      release := (if z.node.kind = 1 then z.node.succ else z.release) ++ refsOf (os.map (·.1)) z.node.novfl }
    Acts (.doorbellStart p ring v) good (fun s => rung (here s)) ∧
    Acts (.doorbellRefetch p ring v) good (fun s => rung (here s)) ∧
    (∀ (s : State) (pl : Place) (bs : List Byte), ring < 64 → bs.length = 8 →
      busTarget s p (keyAddr pl.key) = some (p, false, 0x80000 + 4096 * ring) →
      busPost p pl bs s =
        s.modPkg p (fun x => { x with bells := x.bells ++ [(ring, BitVec.ofNat 64 (leValue bs))] })) ∧
    Acts (.doorbellStart p ring v) bad (fun s => countDie 0x43 1 p 0 (here s)) ∧
    Acts (.doorbellRefetch p ring v) bad (fun s => countDie 0x43 1 p 0 (here s)) ∧
    Acts (.recordPrefetch p ring slot)
      (fun s => room s ∧ readRecord p ring slot s = (.copy d, t))
      (fun _ => modRing p ring (fun x => { x with
        torn := tdel x.torn slot, prefetched := tput x.prefetched slot d }) t) ∧
    Acts (.recordPrefetch p ring slot) (fun s => room s ∧ readRecord p ring slot s = (.torn d, t))
      (fun _ => modRing p ring (fun x => { x with torn := tput (tdel x.torn slot) slot 1 }) t) ∧
    Acts (.recordReread p ring slot)
      (fun s => again (.reread n) s ∧ readRecord p ring slot s = (.copy d, t) ∧ t.runAt p i = some z ∧ nodeOk d = true)
      (fun _ => setLive p ring slot (nodeOf d).preds (setRun p i { z with record := some d, phase := .ready } t)) ∧
    Acts (.recordReread p ring slot)
      (fun s => again (.reread n) s ∧ readRecord p ring slot s = (.torn d, t) ∧ n < 1023)
      (fun _ => setRun p i { z with phase := .reread (n + 1) } t) ∧
    Acts (.recordReread p ring slot)
      (fun s => again (.reread n) s ∧ readRecord p ring slot s = (.torn d, t) ∧ 1023 ≤ n)
      (fun _ => failRun p i 0x11#8 0#8 (setRun p i { z with record := some d } t)) ∧
    Acts (.recordReread p ring slot)
      (fun s => again (.loading n) s ∧ unloaded s ∧ readRecord p ring slot s = (.copy d, t))
      (fun _ => counts (nodeOf d).preds (dropRun p i t)) ∧
    Acts (.recordReread p ring slot)
      (fun s => again (.loading n) s ∧ unloaded s ∧ readRecord p ring slot s = (.torn d, t) ∧ n < 1023)
      (fun _ => modRun p i (fun y => { y with phase := .loading (n + 1) }) t) ∧
    Acts (.recordReread p ring slot)
      (fun s => again (.loading n) s ∧ unloaded s ∧ readRecord p ring slot s = (.torn d, t) ∧ 1023 ≤ n)
      (fun _ => addRun p { ((freshRun ring slot .ready).finish 0x11#8 0#8 0#32 0) with
        record := some d, listed := true } (dropRun p i t)) ∧
    Acts (.recordReread p ring slot)
      (fun s => again (.loading n) s ∧ s.ringOf p ring = some r ∧ tget r.live slot = some m)
      (fun s => counts m (dropRun p i s)) ∧
    Acts (.recordReread p ring slot)
      (fun s => findRun s p ring slot rereads = none ∧ room s ∧ tget r.torn slot = some n ∧
        readRecord p ring slot s = (.copy d, t))
      (fun _ => modRing p ring (fun x => { x with
        torn := tdel x.torn slot, prefetched := tput x.prefetched slot d }) t) ∧
    Acts (.launchRetry p ring slot)
      (fun s => waits s ∧ (heldBack s p i z = true ∨ placeNow s p l z.node.part = none ∨
        placeNow s p l z.node.part = some seats ∧ seatsStalled s l seats = true))
      (setRun p i { z with phase := .waitPlace }) ∧
    Acts (.launchRetry p ring slot) (fun s => waits s ∧ fits s)
      (fun s => setRun p i { z with phase := .running s.nextId, blocking := false }
        (commitLaunch s.nextId (launchOfRun s p z r l) seats
          (loadPhase p r.tkey z.node.phase { s with nextId := s.nextId + 1 }))) ∧
    Acts (.launchWaitExpiry p ring slot) (fun s => findRun s p ring slot (· == .waitPlace) = some i)
      (modRun p i (fun y => { y with blocking := true })) ∧
    Acts (.nodeComplete p ring slot) (fun s => ends s ∧ z.listed = true ∧ writes z s t) (fun _ => settled z t) ∧
    Acts (.nodeComplete p ring slot) (fun s => ends s ∧ z.listed = true ∧ z.written = true)
      (fun s => z.release.foldl (fun s ref => releaseOne p ref s) (dropRun p i s)) ∧
    Acts (.nodeComplete p ring slot)
      (fun s => ends s ∧ z.listed = false ∧ z.status ≠ 0#8 ∧ writes none' (setRun p i none' s) t)
      (fun _ => settled none' t) ∧
    Acts (.nodeComplete p ring slot)
      (fun s => ends s ∧ z.listed = false ∧ z.status = 0#8 ∧
        (if z.node.novfl = 0 then os = [] ∧ u = s
         else feRead p r z.node.ovfl (4 * z.node.novfl) s = (.bytes os, u)) ∧
        u.runAt p i = some z ∧ u.ringOf p z.ring = some r ∧ writes listed (setRun p i listed u) t)
      (fun _ => settled listed t)

/-! ## Commands -/

namespace Sys2Proof.Claims

open Sys2Proof Sys2Proof.Machine

/-- A completion with a status, its phase free, and its result a free function of the two firmware counts (R316, R488;
log 27). -/
def answered (p tag status : Nat) (s : State) : State :=
  s.modPkg p (fun x => { x with
    completions := x.completions ++ [{ tag := tag, status := status, phase := Config.completionPhase x.done,
                                       result := Config.completionResult x.done (x.fw 0).cycles.toNat
                                         (x.fw 1).cycles.toNat }]
    done := x.done + 1 })

/-- A command whose parameters are good is done, and changes its package. -/
def Done (i : Instr) (p tag : Nat) (pre : State → Prop) (g : State → Package → Package) : Prop :=
  Acts i pre (fun s => answered p tag 0 (onPkg p g s))

end Sys2Proof.Claims

/-- R287, R290, R291, R295, R308, R316: the commands on rings, translations, partitions, tables and grants are done
when their parameters are good, RING_BIND, RING_UNBIND and PARTITION refused with status 3 where a ring or a core is in
use; RING_BIND ends with status 2 otherwise. A window's lines whose home it changes are promoted and leave the old slice
and segment. The model's choices among these (log 27): RING_BIND is refused while a node of the ring runs, which R316
names for RING_UNBIND alone; COLL_SIZE is done while a COLL launch runs; PARTITION takes the cores it names from the other
parts; a CXL window's lines are promoted and dropped. The completion's phase and result are free (log 27). -/
def Obligations.TableCommands : Prop :=
  ∀ (p tag ring k asn die part n entry window base size tkey lo hi : Nat) (ba : A80) (root : BitVec 56) (tk : BitVec 8)
    (mask : BitVec 160) (value : BitVec 128) (ports : BitVec 4) (grant all : Bool),
    let busy (s : State) : Prop := ∃ r ∈ (s.pkg p).runs, r.ring = ring
    let goodRing : Prop := ring < 64 ∧ 4 ≤ k ∧ k ≤ 16 ∧ ba.toNat % 256 = 0 ∧ root.toNat % 2 ^ 16 = 0 ∧
      root.toNat < 2 ^ 39
    let resident (s : State) : Prop := ∃ t ∈ s.teams, t.2.run = .running ∧ t.2.core / 160 = 2 * p + die ∧
      (mask &&& ~~~(s.pkg p).userPart die part).getLsbD (t.2.core % 160) = true
    let v := value &&& ~~~(0x7FFFE#128)
    let framed (x : Package) : Package := { x with
      cxlWindows := tput x.cxlWindows (16 * die + window) { base := base, size := size, ports := ports } }
    let rehomed (s : State) (line : Nat) : Bool := keyKind (128 * line) == 2 && keyPkg (128 * line) == p &&
      homeOf s (128 * line) != homeOf (s.modPkg p framed) (128 * line)
    Done (.ringBind p tag ring ba k root asn tk) p tag (fun s => goodRing ∧ ¬busy s) (fun _ x => { x with
      rings := tput x.rings ring
        { base := ba, logSlots := k, root := root.toNat, asn := asn, tkey := tk, live := [], prefetched := [], torn := [] } }) ∧
    Acts (.ringBind p tag ring ba k root asn tk) (fun s => goodRing ∧ busy s) (answered p tag 3) ∧
    Acts (.ringBind p tag ring ba k root asn tk) (fun _ => ¬goodRing) (answered p tag 2) ∧
    Done (.ringUnbind p tag ring) p tag (fun s => (tget (s.pkg p).rings ring).isSome = true ∧ ¬busy s)
      (fun _ x => { x with rings := tdel x.rings ring }) ∧
    Acts (.ringUnbind p tag ring) (fun s => (tget (s.pkg p).rings ring).isSome = true ∧ busy s) (answered p tag 3) ∧
    Acts (.invalidate p tag asn all lo hi) (fun _ => True) (fun s =>
      answered p tag 0 (({ s with
        cores := s.cores.map (fun (c : Nat × Core) =>
          if pkgOf c.1 = p then (c.1, { c.2 with tlb := c.2.tlb.filter (keepTlb asn all lo hi) }) else c)
        warps := s.warps.map (fun (w : Nat × Warp) =>
          if pkgOf (coreOf w.1) = p && (s.launchOf w.2.team).asn = asn then (w.1, w.2.forgetWalks) else w) }).modPkg p
        (fun x => { x with clusterTlb := x.clusterTlb.map (fun (c : Nat × List TlbEntry) =>
          (c.1, c.2.filter (keepTlb asn all lo hi))) }))) ∧
    Done (.partition p tag die part mask) p tag (fun s => die < 2 ∧ part < 15 ∧ ¬resident s) (fun s x => { x with
      partitions := (List.range 15).foldl (fun t q => tput t (16 * die + q)
        (if q = part then (s.pkg p).userPart die q ||| mask else (s.pkg p).userPart die q &&& ~~~mask)) x.partitions }) ∧
    Acts (.partition p tag die part mask) (fun s => die < 2 ∧ part < 15 ∧ resident s) (answered p tag 3) ∧
    Done (.collSize p tag n) p tag (fun _ => n ≤ 16) (fun _ x => { x with collSize := n }) ∧
    Done (.residencyWrite p tag die entry value) p tag
      (fun _ => die < 2 ∧ entry < 1024 ∧ (v.extractLsb' 45 3).toNat ≤ 2)
      (fun _ x => { x with residency := tput x.residency (1024 * die + entry) v, sweepDue := tput x.sweepDue die true }) ∧
    Acts (.cxlWindow p tag die window base size ports)
      (fun _ => die < 2 ∧ window < 16 ∧ base % 2 ^ 29 = 0 ∧ size % 2 ^ 29 = 0 ∧ base + size ≤ 2 ^ 55 ∧
        portCount ports ∈ [1, 2, 4])
      (fun s => answered p tag 0 ((dropLinesWhere p (rehomed s)
        (promoteWhere p (fun _ e => rehomed s e.line) s)).modPkg p framed)) ∧
    Done (.steerGrant p tag tkey grant) p tag (fun _ => tkey < 256)
      (fun _ x => { x with grants := setBit x.grants tkey grant })

/-- R310 to R312, R314, R316, R485, R490: firmware images are verified and taken over at a Lull point, reports are
written, a broken warp resumes, BAR2's windows move and its requests read and write memory at the home slices of their
lines, or wait, with those behind them, while a byte of theirs lies in a MIGRATING region (R289); an undefined opcode ends
with status 1; a write to the capability list or to the vectors changes nothing, one elsewhere in BAR0 is held by the
register, and one to the doorbell pages that is no doorbell is counted. The model's choices: that a WBASE which no longer
fits returns to 0 on a resize (log 16), that BAR2's requests go under key 0 (log 26), which registers hold what is written
to them (log 40). -/
def Obligations.FirmwareAndBarCommands : Prop :=
  ∀ (p tag addr len team warpid base size w0 w1 logSize offset k image version : Nat) (nonce : BitVec 256)
    (opcode : BitVec 16) (value : BitVec 64) (data : List Byte),
    let b (s : State) : Nat := (s.pkg p).bar2Size
    let fits (s : State) (w : Nat) : Prop := w % (b s / 2) = 0 ∧ w + b s / 2 ≤ 2 ^ 38
    let pieces (s : State) : List (Nat × Nat) :=
      (piecesOf (BitVec.ofNat 80 offset) data.length).map (fun q => (bar2Key (s.pkg p) p q.1.toNat, q.2))
    let good (s : State) : Prop := offset + data.length ≤ b s
    let stalls (s : State) (qs : List (Nat × Nat)) : Prop := ∃ q ∈ qs, regionIs s q.1 .migrating = true
    let reads (s : State) : Prop := good s ∧ (s.pkg p).inbound = [] ∧ ¬stalls s (pieces s)
    let held (write : Bool) (s : State) : Prop := good s ∧
      ∃ x xs, (s.pkg p).inbound ++ [(write, pieces s, data)] = x :: xs ∧ stalls s x.2.1
    let waits (write : Bool) (s : State) : State :=
      onPkg p (fun _ x => { x with inbound := x.inbound ++ [(write, pieces s, data)] }) s
    let taken2 (s : State) : State := onPkg p (fun _ x => { x with inbound := [] }) s
    let taken (s : State) : List (Byte × Bool) × State := busTake p (busPlace addr) len s
    let bytes (s : State) : List Byte := (taken s).1.map (·.1)
    let accepts (s : State) : Prop := Config.minVersion ≤ Config.imageVersion (bytes s) ∧
      Config.imageAccepts (bytes s) = true ∧ ((taken s).2.pkg p).fwPending = none
    Acts (.fwUpdate p tag addr len) (fun s => Config.imageVerifies (bytes s) = true ∧ accepts s)
      (fun s => onPkg p (fun _ x => { x with
        fwPending := some (tag, leValue (bytes s), Config.imageVersion (bytes s)) }) (taken s).2) ∧
    Acts (.fwUpdate p tag addr len) (fun s => Config.imageVerifies (bytes s) = true ∧ ¬accepts s)
      (fun s => answered p tag 3 (taken s).2) ∧
    Acts (.fwUpdate p tag addr len) (fun s => Config.imageVerifies (bytes s) = false)
      (fun s => answered p tag 4 (taken s).2) ∧
    Done (.lullTakeover p) p tag
      (fun s => (s.pkg p).fwPending = some (tag, image, version) ∧ lullPoint s p = true)
      (fun _ x => { x with
        firmware := tput x.firmware (1 - x.activeFw) { x.fw (1 - x.activeFw) with image := image, secVersion := version }
        activeFw := 1 - x.activeFw, fwPending := none }) ∧
    Acts (.attest p tag nonce addr) (fun _ => True)
      (fun s => answered p tag 0 (busPost p (busPlace addr)
        (Config.attestReport ((s.pkg p).fw (s.pkg p).activeFw).image ((s.pkg p).fw (s.pkg p).activeFw).secVersion nonce)
        s)) ∧
    Acts (.breakResume p tag team warpid)
      (fun s => (s.teamWarps team).find? (fun k => (s.warp k).warpid == warpid) = some k ∧ pkgOf (coreOf k) = p ∧
        (s.warp k).park = .breakpoint)
      (fun s => answered p tag 0 (settle k (s.modWarp k (fun w =>
        { w.resumeAfter w.trapEntry (w.trapPc.extractLsb' 0 32) with park := .no })))) ∧
    Done (.notifyQueue p tag base size) p tag (fun _ => True) (fun _ x => { x with notifyQueue := some (base, size) }) ∧
    Done (.bar2Window p tag w0 w1) p tag (fun s => fits s w0 ∧ fits s w1)
      (fun _ x => { x with wbase0 := w0, wbase1 := w1 }) ∧
    Acts (.bar2Window p tag w0 w1) (fun s => ¬(fits s w0 ∧ fits s w1)) (answered p tag 3) ∧
    Acts (.resizableBarSizeWrite p logSize) (fun _ => 34 ≤ logSize ∧ logSize ≤ 39)
      (onPkg p (fun _ x => { x with
        bar2Size := 2 ^ logSize
        wbase0 := if x.wbase0 % (2 ^ logSize / 2) = 0 ∧ x.wbase0 + 2 ^ logSize / 2 ≤ 2 ^ 38 then x.wbase0 else 0
        wbase1 := if x.wbase1 % (2 ^ logSize / 2) = 0 ∧ x.wbase1 + 2 ^ logSize / 2 ≤ 2 ^ 38 then x.wbase1 else 0 })) ∧
    Acts (.commandBadOpcode p tag opcode) (fun _ => opcode = 0#16 ∨ 0x0E ≤ opcode.toNat) (answered p tag 1) ∧
    Acts (.registerWriteIgnored p offset value)
      (fun _ => (0x40 ≤ offset ∧ offset < 0x100) ∨ (0x10000 ≤ offset ∧ offset < 0x39000)) (fun s => s) ∧
    Acts (.registerWriteIgnored p offset value)
      (fun _ => offset < 0x40 ∨ (0x100 ≤ offset ∧ offset < 0x10000) ∨ (0x39000 ≤ offset ∧ offset < 0x80000) ∨
        0xC0000 ≤ offset)
      (onPkg p (fun _ x => { x with queueRegs := (List.range 8).foldl (fun t i =>
        tput t (offset + i) ((lget (leBytes 8 value.toNat) i).getD 0#8)) x.queueRegs })) ∧
    Acts (.registerWriteIgnored p offset value) (fun _ => 0x80000 ≤ offset ∧ offset < 0xC0000)
      (countDie 0x43 1 p 0) ∧
    Acts (.bar2Request p true offset data) reads
      (fun s => taken2 ((pieces s).foldl (fun (a : State × List Byte) q =>
        (homeStore q.1 (a.2.take q.2) (touchHome q.1 0#8 a.1), a.2.drop q.2)) (s, data)).1) ∧
    Acts (.bar2Request p false offset data) reads
      (fun s =>
        let r := (pieces s).foldl (fun (a : List (Byte × Bool) × State) q =>
          let u := (List.range ((q.1 % 4 + q.2 + 3) / 4)).foldl
            (fun t i => resolveMem (q.1 / 4 * 4 + 4 * i) t) (touchHome q.1 0#8 a.2)
          (a.1 ++ homeRead q.1 q.2 u, u)) ([], s)
        taken2 (onPkg p (fun _ x => { x with reads := x.reads ++ [(r.1.map (·.1), r.1.any (·.2))] }) r.2)) ∧
    Acts (.bar2Request p true offset data) (held true) (waits true) ∧
    Acts (.bar2Request p false offset data) (held false) (waits false)

/-- R4, R289, R290, R310, R487: links go down and up, a core without a team is withdrawn and the capacity record
rewritten, slices of HBM and CXL are withdrawn step by step, and a device reset leaves its package as after reset,
without cores or warps, its launches finished. That the package's registers take the values of Package.reset is the
model's choice where the spec gives none (log 7), and that the reset leaves memory as it was is the model's choice (log
1). -/
def Obligations.CapacityLinksAndReset : Prop :=
  ∀ (p d g slice port q : Nat),
    let m (s : State) : DieMap := (s.pkg p).dieMap d
    let n (s : State) : Nat := (m s).list.length
    Acts (.pcieLinkDown p d) (fun _ => d < 2) (onPkg p (fun _ x => { x with linksDown := tput x.linksDown d true })) ∧
    Acts (.pcieLinkUp p d) (fun _ => d < 2) (onPkg p (fun _ x => { x with linksDown := tdel x.linksDown d })) ∧
    Acts (.coreDrain g)
      (fun s => (∀ t ∈ s.teams, t.2.run = .running → t.2.core ≠ g) ∧ (s.core g).withdrawn = false)
      (fun s => rewriteCapacity (pkgOf g) (dieOf g) (onCore g (fun c => { c with withdrawn := true }) s)) ∧
    Acts (.hbmSliceWithdraw p d slice)
      (fun s => d < 2 ∧ slice < 256 ∧ (m s).withdrawing = none ∧ slice ∈ (m s).list ∧ 2 ≤ n s)
      (fun s => notify p (.vacate d (2 * n s - 1)) (notify p (.vacate d (2 * n s - 2))
        (modDie p d (fun m => { m with withdrawing := some slice }) s))) ∧
    Acts (.hbmSliceWithdraw p d slice)
      (fun s => d < 2 ∧ slice < 256 ∧ (m s).withdrawing = some slice ∧ (m s).current = some q ∧ q + 3 < 2 * n s)
      (fun s => modDie p d (fun m => { m with regions := tput m.regions (q + 1) .migrating }) (finishRegion p d q s)) ∧
    Acts (.hbmSliceWithdraw p d slice)
      (fun s => d < 2 ∧ slice < 256 ∧ (m s).withdrawing = some slice ∧ (m s).current = some q ∧ 2 * n s ≤ q + 3)
      (fun s => finishWithdrawal p d slice (finishRegion p d q s)) ∧
    Acts (.vacateComplete p d) (fun s => d < 2 ∧ (m s).withdrawing = some slice ∧ (m s).current = none)
      (modDie p d (fun m =>
        { (m.other (m.list.filter (· != slice))) with regions := tput m.regions 0 .migrating })) ∧
    Acts (.cxlSliceWithdraw p d port slice)
      (fun s => d < 2 ∧ port < 4 ∧ slice ∈ (m s).cxlList port)
      (fun s =>
        let ours (home : Nat) : Bool := home / 8 == (288 * d + 256) / 8 + port
        modDie p d (fun x => { x with cxlSlices := tput x.cxlSlices port ((x.cxlList port).filter (· != slice)) })
          (dropLinesWhere p (fun tag =>
            match homeOf s (128 * tag) with | some h => keyKind (128 * tag) == 2 && ours h | none => false)
            (promoteWhere p (fun h _ => ours h) s))) ∧
    ∀ s : State, ∃ t, exec (.deviceReset p) s = .next t ∧ t.pkg p = Package.reset ∧
      (∀ c ∈ t.cores, pkgOf c.1 ≠ p) ∧ (∀ w ∈ t.warps, pkgOf (coreOf w.1) ≠ p) ∧
      (∀ l ∈ t.launches, l.2.pkg = p → l.2.finished = true) ∧ t.mem = s.mem

/-! ## Encodings and steps -/

/-- R43, R50 to R59, R70: for every well-formed instruction of machine code, with every operand at every value its
encoding admits, the decoder reads the encoder's word as that instruction; every instruction of machine code has a
word; and the encoder gives back every word that the decoder reads. -/
def Obligations.DecodeAndEncodeAgree : Prop :=
  (∀ (budget planes : Nat) (i : Instr) (w : BitVec 96),
    i.wf budget planes = true → encode i = some w → decode w = i) ∧
  (∀ i : Instr, i.opNum ≤ 255 → (encode i).isSome = true) ∧
  ∀ w : BitVec 96, encode (decode w) = some w

/-- The header that the sample words hold: predicate 15 or another, FMT. -/
def Sys2Proof.Claims.plainHdr (pred fmt : BitVec 4) : Hdr :=
  { pred := pred, pneg := 0#1, feb := 0#3, holdSrc := 0#2, holdEnt := 0#2, fmt := fmt }

/-- R43, R50, R54, R55, R56: words written out from the encoding tables decode to what they stand for: VADD i32 v1, v0,
v0; PLANE 1 under p2; FENCE.rel.sys; a BRA under p1; a TALLOC of e4m3x4; an undefined opcode. -/
def Obligations.SampleWordsDecode : Prop :=
  (∃ f : FV, decode 0x43F000004000028300000400#96 = .vadd (plainHdr 15#4 0#4) f ∧
    f.d = 1#10 ∧ f.a = 0#10 ∧ f.b = 0#10 ∧ f.c = 643#10 ∧ f.rnd = 4#3 ∧ f.scale = 0#4 ∧ f.clamp = 0#2) ∧
  (∃ f : FX, decode 0x0A200EA0E83A0E8300000001#96 = .plane (plainHdr 2#4 14#4) f ∧
    f.e0 = 643#10 ∧ f.e1 = 643#10 ∧ f.e2 = 643#10 ∧ f.e3 = 643#10 ∧ f.ctl = 1#32) ∧
  (∃ f : FM, decode 0xE0F00EA0E83A0C0050000000#96 = .fence (plainHdr 15#4 14#4) f ∧
    f.d = 643#10 ∧ f.a = 643#10 ∧ f.x = 643#10 ∧ f.ord = 2#3 ∧ f.scope = 4#3 ∧ f.offset = 0#24) ∧
  (∃ f : FC, decode 0x02100E000000006000000200#96 = .bra (plainHdr 1#4 14#4) f ∧
    f.tline = 0#32 ∧ f.tslot = 3#3 ∧ f.rline = 0#27 ∧ f.rslot = 4#3 ∧ f.tag = 0#7) ∧
  (∃ f : FX, decode 0xE1F009C5315C5A8300000005#96 = .talloc (plainHdr 15#4 9#4) f ∧
    f.e0 = 788#10 ∧ f.e1 = 789#10 ∧ f.e2 = 790#10 ∧ f.e3 = 643#10 ∧ f.ctl = 5#32) ∧
  decode 0x15F00E000000000000000000#96 = .undefinedMajorOpcode 0x15F00E000000000000000000#96

/-- R43, R58, R237, R263, R316: a step that issues a ready split runs exec of the instruction decoded from the line of the
pass's plane, at the offset's slot, or its repetition under a REP, and goes on with the passes to come; the lines are
those that the instruction cache holds at the offset; a step that takes an event runs exec of it, one that takes a
command of the host runs the command's event or completes it with its error, one in which a soft error strikes answers
what strikeAt leaves, and one in which the host gives BAR0 an address, or BAR2 one that its size divides, holds it. -/
def Obligations.StepRunsDecoded : Prop :=
  ∀ (s t : State),
    (∀ i, nextMove s = (some (.event i), t) → step s = exec i t) ∧
    (nextMove s = (none, t) → step s = .next t) ∧
    (∀ p, nextMove s = (some (.strike p), t) → step s = .next (strikeAt p t)) ∧
    (∀ p bs i, nextMove s = (some (.command p bs), t) → commandOf p bs = .ok i → step s = exec i t) ∧
    (∀ p bs e, nextMove s = (some (.command p bs), t) → commandOf p bs = .error e →
      step s = .next (answered p (leAt bs 2 2) e t)) ∧
    (∀ p b, nextMove s = (some (.bar0 p b), t) → step s = .next (t.modPkg p (fun x => { x with bar0 := b }))) ∧
    (∀ p b, nextMove s = (some (.bar2 p b), t) → (∀ a, b = some a → a % (t.pkg p).bar2Size = 0) →
      step s = .next (t.modPkg p (fun x => { x with bar2 := b }))) ∧
    (∀ p a, nextMove s = (some (.bar2 p (some a)), t) → a % (t.pkg p).bar2Size ≠ 0 → step s = .next t) ∧
    ∀ k e, nextMove s = (some (.issue k e), t) →
      (splitReady t k e = false → step s = .next t) ∧
      ∀ q, splitReady t k e = true → (beginIssue k e t).cur = some q → q.status = .running → q.todo ≠ [] →
        (∀ x ∈ q.lines, getLine t k x.1 q.offset = .line x.2) ∧
        (q.rep = none → passInstr q = decode (slotWord (q.line (q.todo.headD 0)) (slotNum q.offset))) ∧
        (∀ j h f, q.rep = some j →
          decode (slotWord (q.line (q.todo.headD 0)) (slotNum q.offset - 1)) = .rep h f →
          passInstr q = ((decode (slotWord (q.line (q.todo.headD 0)) (slotNum q.offset))).stepped f j).getD
            (decode (slotWord (q.line (q.todo.headD 0)) (slotNum q.offset)))) ∧
        step s = match exec (passInstr q) (beginIssue k e t) with
          | .next v => runPasses 19 v
          | .fault f => .fault f
          | .refused r => .refused r

/-! ## Invariants and frames -/

/-- From every state whose memory, poison and upsets are in canonical form, every step that answers a next state
leaves them so. -/
def Obligations.StepKeepsMemoryCanonical : Prop :=
  ∀ s t : State, s.memoryWf = true → step s = .next t → t.memoryWf = true

/-- R288, R310, R430: at reset map A of every die lists slices 0 to 255, modules 0 to 15 carry traffic toward die 1,
complex 0 is active, the line of R288's walk is homed on slice 161 of die 1, and memory is canonical. What a byte
of memory that nothing has written reads as is the model's choice (log 1). -/
def Obligations.ResetState : Prop :=
  (∀ p d, ((State.reset.pkg p).dieMap d).list = List.range 256) ∧
  (∀ p m, m < 32 → ((State.reset.pkg p).module m).toward1 = decide (m < 16)) ∧
  (∀ p, (State.reset.pkg p).activeFw = 0) ∧
  homeOf State.reset (gkey 0 1 0x1234501234) = some (288 + 161) ∧
  State.reset.memoryWf = true ∧ State.reset.launches = [] ∧ ∀ a, mget State.reset.mem a = 0#8

namespace Sys2Proof.Claims

open Sys2Proof Sys2Proof.Machine

/-- Everything that holds data outside the registers is as it was: global memory with its poison, and each core's
shared and accumulator memory, tiles and barriers. -/
def sameMemories (s t : State) : Prop :=
  t.mem = s.mem ∧ t.memPoison = s.memPoison ∧ t.memUpset = s.memUpset ∧ t.posted = s.posted ∧
  ∀ g, (t.core g).shared = (s.core g).shared ∧ (t.core g).sharedPoison = (s.core g).sharedPoison ∧
    (t.core g).accum = (s.core g).accum ∧ (t.core g).accumPoison = (s.core g).accumPoison ∧
    (t.core g).tiles = (s.core g).tiles ∧ (t.core g).barriers = (s.core g).barriers

/-- The registers of two warps agree, but for those of some codes: vectors and kv by their codes, scalars from 768 on,
addresses from 704 on, predicates from 2000 on. -/
def sameRegisters (but : List Nat) (w u : Warp) : Prop :=
  (∀ r, r ∉ but → u.vreg r = w.vreg r) ∧ (∀ n, 3 ≤ n → 768 + n ∉ but → u.sreg n = w.sreg n) ∧
  (∀ n, 704 + n ∉ but → tget u.aregs n = tget w.aregs n) ∧ (∀ n, 2000 + n ∉ but → u.preg n = w.preg n) ∧
  u.mcols = w.mcols ∧ u.save = w.save ∧ u.gang = w.gang ∧ u.batches = w.batches ∧ u.kregs = w.kregs

/-- A warp of which no more than registers, FXA and counters have changed: the registers of some codes, and of its splits
and its trap split the execution mask alone, where s0 to s2 are among the codes (R189). -/
def keepsWarp (but : List Nat) (w u : Warp) : Prop :=
  sameRegisters but w u ∧
  u = { w with
    vregs := u.vregs, fast := u.fast, kvregs := u.kvregs, areuse := u.areuse, sregs := u.sregs, aregs := u.aregs
    pregs := u.pregs, upsets := u.upsets, fxa := u.fxa, evcnt := u.evcnt, splits := u.splits
    trapSplit := u.trapSplit } ∧
  (∀ e, u.split e = { w.split e with active := (u.split e).active }) ∧
  u.trapSplit.map (fun x => { x with mask := 0#96 }) = w.trapSplit.map (fun x => { x with mask := 0#96 }) ∧
  ((∀ d ∈ but, d < 768 ∨ 770 < d) → u.splits = w.splits ∧ u.trapSplit = w.trapSplit)

/-- How a pass ends: the instruction ends, waits, or traps with some fault. -/
def endsPass (i : Instr) (c : Ctx) (all : Bool) (v t : State) : Prop :=
  t = completePass c i all v ∨ t = waitPass v ∨ ∃ d f, t = trapAt c d f v

end Sys2Proof.Claims

/-- R97, R99, R238: the end of a pass counts, ages and captures latches and moves lanes; it changes no memory and no
register of any warp. -/
def Obligations.PassEndKeepsData : Prop :=
  ∀ (c : Ctx) (i : Instr) (all : Bool) (t : State),
    let u := passEnd c i all t
    sameMemories t u ∧ u.teams = t.teams ∧ u.launches = t.launches ∧ u.insts = t.insts ∧ u.pkgs = t.pkgs ∧
    ∀ k, sameRegisters [] (t.warp k) (u.warp k) ∧ (u.warp k).fxa = (t.warp k).fxa ∧
      (u.warp k).trapMode = (t.warp k).trapMode ∧ (u.warp k).trapCause = (t.warp k).trapCause ∧
      (k ≠ c.k → k ≠ (t.cur.map (fun q => q.warp)).getD c.k → u.warp k = t.warp k)

/-- R104, R112, R182 to R186, R189, R207, R238, R255: in every state, an instruction of the scalar, predicate, address and
vector arithmetic families that answers a next state, one that traps included, changes no memory, no other warp, and of
its own warp no register but the destinations it names, when no word it reads is in error (R88); below opcode 0x5C, and
outside the floating-point classes, FXA stays as it was. What it does before the pass ends, waits or traps leaves the rest
of the warp as it is, the k registers and the trap registers among it, and of the splits at most the execution masks,
where s0 to s2 are destinations. A transfer, PAD, NOP, JOIN, YIELD, PLANE, REP, TRAP, BRK or SYSC that answers a next state
changes no memory, no other warp and no register but a63, which CALL and CALLX write. -/
def Obligations.RegisterInstructionsKeepTheRest : Prop :=
  (∀ (i : Instr) (s t : State) (q : Issue), s.cur = some q →
    ((0x20 ≤ i.opNum ∧ i.opNum ≤ 0x35) ∨ i.opNum = 0x3B ∨ i.opNum = 0x3C ∨ (0x40 ≤ i.opNum ∧ i.opNum ≤ 0x73)) →
    undefinedOp i = false → readState i s q = s → exec i s = .next t →
    sameMemories s t ∧ (∀ k, k ≠ q.warp → t.warp k = s.warp k) ∧
    sameRegisters (destCodes i) (s.warp q.warp) (t.warp q.warp) ∧
    (i.opNum < 0x5C → (t.warp q.warp).fxa = (s.warp q.warp).fxa) ∧
    ∃ kind v, endsPass i (passCtx s q i kind) (kind == .once) v t ∧ sameMemories s v ∧
      (∀ k, k ≠ q.warp → v.warp k = s.warp k) ∧ v.teams = s.teams ∧ v.launches = s.launches ∧ v.pkgs = s.pkgs ∧
      v.cores = s.cores ∧ v.cur = s.cur ∧ keepsWarp (destCodes i) (s.warp q.warp) (v.warp q.warp)) ∧
  ∀ (i : Instr) (s t : State) (q : Issue), s.cur = some q →
    i.opNum ∈ [0x00, 0x01, 0x02, 0x03, 0x04, 0x05, 0x06, 0x08, 0x09, 0x0A, 0x0E, 0x0F, 0x11, 0x12] →
    undefinedOp i = false → readState i s q = s → exec i s = .next t →
    sameMemories s t ∧ (∀ k, k ≠ q.warp → t.warp k = s.warp k) ∧
    sameRegisters (if i.opNum = 0x04 ∨ i.opNum = 0x05 then [767] else []) (s.warp q.warp) (t.warp q.warp)

/-- R340: bytes stored at the home slice of a backed place read back, every other byte of memory reads as before, and
the words covered whole lose their poison; in an unbacked region nothing is stored. A plain VST, VSTF or SST that
bypasses L1 (CACHE 3), in every state in which its accesses are granted, changes only the bytes of memory its lanes store
to. Under every CACHE and ORD the three change, beside those, at most bytes that some L1 holds dirty, since lines are
evicted, written back by a release and promoted; the loads change at most bytes that some L1 holds dirty. The stores
change no register, the loads none of another warp. Of a store with a lane that reaches a BAR2 over the bus, and so
any byte of its window (R313, R490), the statement says nothing of memory. -/
def Obligations.StoresChangeTheirBytesOnly : Prop :=
  (∀ (k : Nat) (bs : List Byte) (s : State), s.memoryWf = true → regionIs s k .unbacked = false →
    let t := homeStore k bs s
    (∀ n b, bs[n]? = some b → mget t.mem (k + n) = b) ∧
    (∀ a, (a < k ∨ k + bs.length ≤ a) → mget t.mem a = mget s.mem a) ∧
    ∀ w, k ≤ 4 * w → 4 * w + 4 ≤ k + bs.length → wordPoisoned t (4 * w) = false) ∧
  (∀ (k : Nat) (bs : List Byte) (s : State), regionIs s k .unbacked = true →
    (homeStore k bs s).mem = s.mem ∧ (homeStore k bs s).memPoison = s.memPoison) ∧
  ∀ (h : Hdr) (f : FM) (tr : A80 → LaneTrans) (s : State) (q : Issue), s.cur = some q → s.memoryWf = true →
    let off := f.offset.toInt
    let bypasses : Prop := f.cache = 3#2 ∧ f.ord = 0#3
    let clean (a : Nat) : Prop :=
      ∀ g, ∀ x ∈ (s.core g).l1, x.2.tag = a / 128 → x.2.dirty.getLsbD (a % 128) = false
    let spared (xs : List (Nat × A80)) (a : Nat) : Prop := ∀ x ∈ xs, ∀ p, tr x.2 = .go p →
      (keyKind p.key ≤ 2 → a < p.key ∨ p.key + 2 ^ f.width.toNat ≤ a) ∧
      (3 ≤ keyKind p.key → ∀ r o, busTarget s (pkgOf (coreOf q.warp)) (keyAddr p.key) ≠ some (r, true, o))
    let kept (xs : List (Nat × A80)) (t : State) : Prop :=
      (∀ a, (clean a ∨ bypasses) → spared xs a → mget t.mem a = mget s.mem a) ∧
      ∀ k, sameRegisters [] (s.warp k) (t.warp k)
    let stores (i : Instr) (kind : PassKind) (xs : Ctx → List (Nat × A80)) : Prop :=
      clears i kind s q = true → readState i s q = s →
      granted (passCtx s q i kind) f .write true (xs (passCtx s q i kind)) tr s →
      ∃ t, exec i s = .next t ∧ kept (xs (passCtx s q i kind)) t
    let loads (i : Instr) (kind : PassKind) (xs : Ctx → List (Nat × A80)) : Prop :=
      clears i kind s q = true → readState i s q = s →
      granted (passCtx s q i kind) f .read true (xs (passCtx s q i kind)) tr s →
      ∃ t, exec i s = .next t ∧ (∀ a, clean a → mget t.mem a = mget s.mem a) ∧
        ∀ k, k ≠ q.warp → sameRegisters [] (s.warp k) (t.warp k)
    stores (.vst h f) .vec (fun c => byLane c f false off) ∧ stores (.vstf h f) .vec (fun c => byLane c f true off) ∧
    stores (.sst h f) .scal (fun c => byScalar c f off) ∧
    loads (.vld h f) .vec (fun c => byLane c f false off) ∧ loads (.vldf h f) .vec (fun c => byLane c f true off) ∧
    loads (.sld h f) .scal (fun c => byScalar c f off)

/-- R22, R340: bytes stored into the shared memory of a resident team lie where its block map puts them, each core's
other bytes and all of global memory read as before; a VSTSH that completes changes no register and no global
memory, and of its core's shared memory only the bytes its lanes name. -/
def Obligations.SharedStoresChangeTheirBytesOnly : Prop :=
  (∀ (tk o : Nat) (bs : List Byte) (s : State), (s.team tk).image = none →
    (∀ g, swf (s.core g).shared = true) →
    let t := sharedStore tk o bs s
    let at' (n : Nat) : Nat := sharedPhys (s.team tk) (o + n)
    t.mem = s.mem ∧ t.warps = s.warps ∧
    (∀ n b, bs[n]? = some b → (∀ m, n < m → m < bs.length → at' m ≠ at' n) →
      mget (t.core (s.team tk).core).shared (at' n) = b) ∧
    ∀ g a, (g ≠ (s.team tk).core ∨ ∀ n, n < bs.length → a ≠ at' n) →
      mget (t.core g).shared a = mget (s.core g).shared a) ∧
  ∀ (h : Hdr) (f : FM) (s : State) (q : Issue), s.cur = some q → clears (.vstsh h f) .vec s q = true →
    readState (.vstsh h f) s q = s → (s.warpTeam q.warp).image = none →
    (∀ g, swf (s.core g).shared = true) →
    let c := passCtx s q (.vstsh h f) .vec
    let off := f.offset.toInt
    sharedFree c f off (s.warpLaunch c.k).info.shared s → (c.live = 0#96 ∨ xdecOut s c.k = false) →
    ∃ t, exec (.vstsh h f) s = .next t ∧ t.mem = s.mem ∧
      (∀ k, sameRegisters [] (s.warp k) (t.warp k)) ∧
      ∀ g a, (g ≠ (s.warpTeam c.k).core ∨ ∀ l n, c.live.getLsbD l = true → n < 2 ^ f.width.toNat →
          a ≠ sharedPhys (s.warpTeam c.k) ((sharedAt c f off l).toNat + n)) →
        mget (t.core g).shared a = mget (s.core g).shared a

/-- R323 to R325, R338, R340: a load through L1 after a store through L1 by the same core to the same bytes of one
line returns the bytes stored, and no poison in the words that the store covered whole. -/
def Obligations.LoadAfterCachedStore : Prop :=
  ∀ (g : Nat) (fuse : Bool) (p : Place) (bs : List Byte) (h1 h2 : BitVec 2) (t1 t2 : BitVec 8) (s : State),
    keyKind p.key ≤ 2 → p.poa = false → bs ≠ [] → p.key % 128 + bs.length ≤ 128 →
    let r := (globalRead g fuse p bs.length (.cached h2) t2 (globalWrite g fuse p bs (.cached h1) t1 s)).1
    r.map (·.1) = bs ∧
    (p.key % 4 = 0 → bs.length % 4 = 0 → ∀ b ∈ r, b.2 = false)

/-- R268: the row layout is one to one: two bytes of a tile at one place are one byte, and every byte lies in the
tile's rows of whole 128 bytes. -/
def Obligations.TileLayoutIsOneToOne : Prop :=
  ∀ (x : Tile) (a b : Nat), (x.place a = x.place b → a = b) ∧
    x.base + 128 * (a / 128) ≤ x.place a ∧ x.place a < x.base + 128 * (a / 128) + 128
end

