-- ==== Sys2Proof/Laws/Tables.lean ====
section
/-!
SUPPORT. Laws/Tables.lean: reading after writing in sparse tables, and the canonical form that every
write keeps.
-/

namespace Sys2Proof.Machine

open Sys2Proof

variable {α : Type}

theorem tget_tput (t : Tbl α) (k j : Nat) (v : α) :
    tget (tput t k v) j = if j = k then some v else tget t j := by
  induction t with
  | nil => simp [tput, tget, eq_comm]
  | cons c r ih =>
    obtain ⟨a, x⟩ := c
    by_cases h1 : k < a
    · simp only [tput, h1, if_true, tget]
      by_cases h : j = k <;> simp [h, Ne.symm, @eq_comm _ k j]
    · by_cases h2 : k = a
      · subst h2
        simp only [tput, Nat.lt_irrefl, if_false, if_true, tget]
        by_cases h : j = k <;> simp [h, @eq_comm _ k j]
      · simp only [tput, h1, h2, if_false, tget, ih]
        by_cases h : j = k
        · subst h; simp [Ne.symm h2]
        · simp [h]

@[simp] theorem tget_tput_self (t : Tbl α) (k : Nat) (v : α) : tget (tput t k v) k = some v := by
  simp [tget_tput]

theorem tget_tput_ne (t : Tbl α) {k j : Nat} (v : α) (h : j ≠ k) : tget (tput t k v) j = tget t j := by
  simp [tget_tput, h]

/-! ## The canonical form -/

theorem twfFrom_mono {t : Tbl α} {a b : Nat} (hab : a ≤ b) (h : twfFrom b t = true) : twfFrom a t = true := by
  cases t with
  | nil => rfl
  | cons c r => simp only [twfFrom, Bool.and_eq_true, decide_eq_true_eq] at h ⊢; exact ⟨by omega, h.2⟩

theorem twfFrom_tput {t : Tbl α} {b k : Nat} (v : α) (hk : b ≤ k) (h : twfFrom b t = true) :
    twfFrom b (tput t k v) = true := by
  induction t generalizing b with
  | nil => simp [tput, twfFrom, hk]
  | cons c r ih =>
    obtain ⟨a, x⟩ := c
    simp only [twfFrom, Bool.and_eq_true, decide_eq_true_eq] at h
    by_cases h1 : k < a
    · simp only [tput, h1, if_true, twfFrom, Bool.and_eq_true, decide_eq_true_eq]
      exact ⟨hk, by omega, h.2⟩
    · by_cases h2 : k = a
      · subst h2
        simp only [tput, Nat.lt_irrefl, if_false, if_true, twfFrom, Bool.and_eq_true, decide_eq_true_eq]
        exact ⟨hk, h.2⟩
      · simp only [tput, h1, h2, if_false, twfFrom, Bool.and_eq_true, decide_eq_true_eq]
        exact ⟨h.1, ih (by omega) h.2⟩

theorem twfFrom_tdel {t : Tbl α} {b k : Nat} (h : twfFrom b t = true) : twfFrom b (tdel t k) = true := by
  induction t generalizing b with
  | nil => rfl
  | cons c r ih =>
    obtain ⟨a, x⟩ := c
    simp only [twfFrom, Bool.and_eq_true, decide_eq_true_eq] at h
    by_cases h1 : a = k
    · simp only [tdel, h1, if_true]; exact twfFrom_mono (by omega) h.2
    · simp only [tdel, h1, if_false, twfFrom, Bool.and_eq_true, decide_eq_true_eq]; exact ⟨h.1, ih h.2⟩

theorem mem_tput {t : Tbl α} {k : Nat} {v : α} {c : Nat × α} (h : c ∈ tput t k v) : c = (k, v) ∨ c ∈ t := by
  induction t with
  | nil => simpa [tput] using h
  | cons d r ih =>
    obtain ⟨a, x⟩ := d
    by_cases h1 : k < a
    · simpa [tput, h1] using h
    · by_cases h2 : k = a
      · subst h2
        simp only [tput, Nat.lt_irrefl, if_false, if_true, List.mem_cons] at h
        rcases h with h | h
        · exact .inl h
        · exact .inr (List.mem_cons_of_mem _ h)
      · simp only [tput, h1, h2, if_false, List.mem_cons] at h
        rcases h with h | h
        · exact .inr (by simp [h])
        · rcases ih h with h | h
          · exact .inl h
          · exact .inr (List.mem_cons_of_mem _ h)

theorem mem_tdel {t : Tbl α} {k : Nat} {c : Nat × α} (h : c ∈ tdel t k) : c ∈ t := by
  induction t with
  | nil => simp [tdel] at h
  | cons d r ih =>
    obtain ⟨a, x⟩ := d
    by_cases h1 : a = k
    · simp only [tdel, h1, if_true] at h; exact List.mem_cons_of_mem _ h
    · simp only [tdel, h1, if_false, List.mem_cons] at h
      rcases h with h | h
      · simp [h]
      · exact List.mem_cons_of_mem _ (ih h)

/-- A word set in a sparse map keeps its canonical form. -/
theorem swf_sput {w : Nat} {t : Sparse w} {k : Nat} {v : BitVec w} (h : swf t = true) :
    swf (sput t k v) = true := by
  simp only [swf, twf, Bool.and_eq_true, List.all_eq_true] at h ⊢
  by_cases hv : v = 0#w
  · simp only [sput, hv, if_true]
    exact ⟨twfFrom_tdel h.1, fun c hc => h.2 c (mem_tdel hc)⟩
  · simp only [sput, hv, if_false]
    refine ⟨twfFrom_tput v (Nat.zero_le _) h.1, fun c hc => ?_⟩
    rcases mem_tput hc with rfl | hc
    · simpa using hv
    · exact h.2 c hc

theorem tget_none_of_lt {t : Tbl α} {b k : Nat} (h : twfFrom b t = true) (hk : k < b) : tget t k = none := by
  induction t generalizing b with
  | nil => rfl
  | cons c r ih =>
    obtain ⟨a, x⟩ := c
    simp only [twfFrom, Bool.and_eq_true, decide_eq_true_eq] at h
    have : a ≠ k := by omega
    simp only [tget, this, if_false]
    exact ih h.2 (by omega)

theorem tget_tdel_ne (t : Tbl α) {k j : Nat} (h : j ≠ k) : tget (tdel t k) j = tget t j := by
  induction t with
  | nil => rfl
  | cons c r ih =>
    obtain ⟨a, x⟩ := c
    by_cases h1 : a = k
    · have : a ≠ j := by omega
      simp [tdel, tget, h1, show k ≠ j by omega]
    · simp only [tdel, h1, if_false, tget, ih]

theorem tget_tdel_self {t : Tbl α} {b k : Nat} (h : twfFrom b t = true) : tget (tdel t k) k = none := by
  induction t generalizing b with
  | nil => rfl
  | cons c r ih =>
    obtain ⟨a, x⟩ := c
    simp only [twfFrom, Bool.and_eq_true, decide_eq_true_eq] at h
    by_cases h1 : a = k
    · simp only [tdel, h1, if_true]; exact tget_none_of_lt h.2 (by omega)
    · simp only [tdel, h1, if_false, tget]; exact ih h.2

/-- A word of a canonical sparse map read after a write. -/
theorem sget_sput {w : Nat} {t : Sparse w} (h : swf t = true) (k j : Nat) (v : BitVec w) :
    sget (sput t k v) j = if j = k then v else sget t j := by
  simp only [swf, twf, Bool.and_eq_true] at h
  by_cases hv : v = 0#w
  · by_cases hj : j = k
    · subst hj; simp [sget, sput, hv, tget_tdel_self h.1]
    · simp [sget, sput, hv, hj, tget_tdel_ne t hj]
  · by_cases hj : j = k
    · simp [sget, sput, hv, hj]
    · simp [sget, sput, hv, hj, tget_tput_ne t v hj]

/-- A byte set keeps memory's canonical form. -/
theorem wf_mput {m : Memory} {a : Nat} {b : Byte} (h : Memory.wf m = true) : Memory.wf (mput m a b) = true :=
  swf_sput (w := 8) h

/-- Bytes set keep memory's canonical form. -/
theorem wf_mputs {m : Memory} {a : Nat} {bs : List Byte} (h : Memory.wf m = true) :
    Memory.wf (mputs m a bs) = true := by
  induction bs generalizing m a with
  | nil => exact h
  | cons b bs ih => exact ih (wf_mput h)

/-- A byte read after bytes were set. -/
theorem mget_mputs {m : Memory} (h : Memory.wf m = true) (a x : Nat) (bs : List Byte) :
    mget (mputs m a bs) x = if a ≤ x ∧ x < a + bs.length then bs.getD (x - a) 0#8 else mget m x := by
  induction bs generalizing m a with
  | nil => simp [mputs]
  | cons b bs ih =>
    rw [mputs, ih (wf_mput h)]
    have hp : mget (mput m a b) x = if x = a then b else mget m x := sget_sput (w := 8) h a x b
    by_cases hx : x = a
    · subst hx; simp [hp, show ¬(x + 1 ≤ x) by omega]
    · rw [hp, if_neg hx]
      by_cases h2 : a ≤ x ∧ x < a + (b :: bs).length
      · have h3 : a + 1 ≤ x ∧ x < a + 1 + bs.length := by simp at h2; omega
        rw [if_pos h2, if_pos h3]
        obtain ⟨n, hn⟩ : ∃ n, x - a = n + 1 := ⟨x - a - 1, by omega⟩
        have : x - (a + 1) = n := by omega
        rw [this, hn]; rfl
      · have h3 : ¬(a + 1 ≤ x ∧ x < a + 1 + bs.length) := by simp at h2; omega
        rw [if_neg h2, if_neg h3]

end Sys2Proof.Machine
end

