-- ==== Sys2Proof/Laws/State.lean ====
section
/-!
SUPPORT. Laws/State.lean: what each update of the State leaves of every field, and reads after it.
-/

namespace Sys2Proof.Machine

open Sys2Proof

/-! ## setWarp -/

@[simp] theorem setWarp_pkgs (s : State) (k : Nat) (x : Warp) : (s.setWarp k x).pkgs = s.pkgs := rfl
@[simp] theorem setWarp_cores (s : State) (k : Nat) (x : Warp) : (s.setWarp k x).cores = s.cores := rfl
@[simp] theorem setWarp_warps (s : State) (k : Nat) (x : Warp) : (s.setWarp k x).warps = tput s.warps k x := rfl
@[simp] theorem setWarp_teams (s : State) (k : Nat) (x : Warp) : (s.setWarp k x).teams = s.teams := rfl
@[simp] theorem setWarp_launches (s : State) (k : Nat) (x : Warp) : (s.setWarp k x).launches = s.launches := rfl
@[simp] theorem setWarp_mem (s : State) (k : Nat) (x : Warp) : (s.setWarp k x).mem = s.mem := rfl
@[simp] theorem setWarp_memPoison (s : State) (k : Nat) (x : Warp) : (s.setWarp k x).memPoison = s.memPoison := rfl
@[simp] theorem setWarp_memUpset (s : State) (k : Nat) (x : Warp) : (s.setWarp k x).memUpset = s.memUpset := rfl
@[simp] theorem setWarp_posted (s : State) (k : Nat) (x : Warp) : (s.setWarp k x).posted = s.posted := rfl
@[simp] theorem setWarp_insts (s : State) (k : Nat) (x : Warp) : (s.setWarp k x).insts = s.insts := rfl
@[simp] theorem setWarp_cur (s : State) (k : Nat) (x : Warp) : (s.setWarp k x).cur = s.cur := rfl
@[simp] theorem setWarp_oracle (s : State) (k : Nat) (x : Warp) : (s.setWarp k x).oracle = s.oracle := rfl
@[simp] theorem setWarp_waited (s : State) (k : Nat) (x : Warp) : (s.setWarp k x).waited = s.waited := rfl
@[simp] theorem setWarp_readyAt (s : State) (k : Nat) (x : Warp) : (s.setWarp k x).readyAt = s.readyAt := rfl
@[simp] theorem setWarp_turn (s : State) (k : Nat) (x : Warp) : (s.setWarp k x).turn = s.turn := rfl
@[simp] theorem setWarp_fresh (s : State) (k : Nat) (x : Warp) : (s.setWarp k x).fresh = s.fresh := rfl
@[simp] theorem setWarp_nextId (s : State) (k : Nat) (x : Warp) : (s.setWarp k x).nextId = s.nextId := rfl

/-! ## setCore -/

@[simp] theorem setCore_pkgs (s : State) (k : Nat) (x : Core) : (s.setCore k x).pkgs = s.pkgs := rfl
@[simp] theorem setCore_cores (s : State) (k : Nat) (x : Core) : (s.setCore k x).cores = tput s.cores k x := rfl
@[simp] theorem setCore_warps (s : State) (k : Nat) (x : Core) : (s.setCore k x).warps = s.warps := rfl
@[simp] theorem setCore_teams (s : State) (k : Nat) (x : Core) : (s.setCore k x).teams = s.teams := rfl
@[simp] theorem setCore_launches (s : State) (k : Nat) (x : Core) : (s.setCore k x).launches = s.launches := rfl
@[simp] theorem setCore_mem (s : State) (k : Nat) (x : Core) : (s.setCore k x).mem = s.mem := rfl
@[simp] theorem setCore_memPoison (s : State) (k : Nat) (x : Core) : (s.setCore k x).memPoison = s.memPoison := rfl
@[simp] theorem setCore_memUpset (s : State) (k : Nat) (x : Core) : (s.setCore k x).memUpset = s.memUpset := rfl
@[simp] theorem setCore_posted (s : State) (k : Nat) (x : Core) : (s.setCore k x).posted = s.posted := rfl
@[simp] theorem setCore_insts (s : State) (k : Nat) (x : Core) : (s.setCore k x).insts = s.insts := rfl
@[simp] theorem setCore_cur (s : State) (k : Nat) (x : Core) : (s.setCore k x).cur = s.cur := rfl
@[simp] theorem setCore_oracle (s : State) (k : Nat) (x : Core) : (s.setCore k x).oracle = s.oracle := rfl
@[simp] theorem setCore_waited (s : State) (k : Nat) (x : Core) : (s.setCore k x).waited = s.waited := rfl
@[simp] theorem setCore_readyAt (s : State) (k : Nat) (x : Core) : (s.setCore k x).readyAt = s.readyAt := rfl
@[simp] theorem setCore_turn (s : State) (k : Nat) (x : Core) : (s.setCore k x).turn = s.turn := rfl
@[simp] theorem setCore_fresh (s : State) (k : Nat) (x : Core) : (s.setCore k x).fresh = s.fresh := rfl
@[simp] theorem setCore_nextId (s : State) (k : Nat) (x : Core) : (s.setCore k x).nextId = s.nextId := rfl

/-! ## setPkg -/

@[simp] theorem setPkg_pkgs (s : State) (k : Nat) (x : Package) : (s.setPkg k x).pkgs = tput s.pkgs k x := rfl
@[simp] theorem setPkg_cores (s : State) (k : Nat) (x : Package) : (s.setPkg k x).cores = s.cores := rfl
@[simp] theorem setPkg_warps (s : State) (k : Nat) (x : Package) : (s.setPkg k x).warps = s.warps := rfl
@[simp] theorem setPkg_teams (s : State) (k : Nat) (x : Package) : (s.setPkg k x).teams = s.teams := rfl
@[simp] theorem setPkg_launches (s : State) (k : Nat) (x : Package) : (s.setPkg k x).launches = s.launches := rfl
@[simp] theorem setPkg_mem (s : State) (k : Nat) (x : Package) : (s.setPkg k x).mem = s.mem := rfl
@[simp] theorem setPkg_memPoison (s : State) (k : Nat) (x : Package) : (s.setPkg k x).memPoison = s.memPoison := rfl
@[simp] theorem setPkg_memUpset (s : State) (k : Nat) (x : Package) : (s.setPkg k x).memUpset = s.memUpset := rfl
@[simp] theorem setPkg_posted (s : State) (k : Nat) (x : Package) : (s.setPkg k x).posted = s.posted := rfl
@[simp] theorem setPkg_insts (s : State) (k : Nat) (x : Package) : (s.setPkg k x).insts = s.insts := rfl
@[simp] theorem setPkg_cur (s : State) (k : Nat) (x : Package) : (s.setPkg k x).cur = s.cur := rfl
@[simp] theorem setPkg_oracle (s : State) (k : Nat) (x : Package) : (s.setPkg k x).oracle = s.oracle := rfl
@[simp] theorem setPkg_waited (s : State) (k : Nat) (x : Package) : (s.setPkg k x).waited = s.waited := rfl
@[simp] theorem setPkg_readyAt (s : State) (k : Nat) (x : Package) : (s.setPkg k x).readyAt = s.readyAt := rfl
@[simp] theorem setPkg_turn (s : State) (k : Nat) (x : Package) : (s.setPkg k x).turn = s.turn := rfl
@[simp] theorem setPkg_fresh (s : State) (k : Nat) (x : Package) : (s.setPkg k x).fresh = s.fresh := rfl
@[simp] theorem setPkg_nextId (s : State) (k : Nat) (x : Package) : (s.setPkg k x).nextId = s.nextId := rfl

/-! ## setTeam -/

@[simp] theorem setTeam_pkgs (s : State) (k : Nat) (x : Team) : (s.setTeam k x).pkgs = s.pkgs := rfl
@[simp] theorem setTeam_cores (s : State) (k : Nat) (x : Team) : (s.setTeam k x).cores = s.cores := rfl
@[simp] theorem setTeam_warps (s : State) (k : Nat) (x : Team) : (s.setTeam k x).warps = s.warps := rfl
@[simp] theorem setTeam_teams (s : State) (k : Nat) (x : Team) : (s.setTeam k x).teams = tput s.teams k x := rfl
@[simp] theorem setTeam_launches (s : State) (k : Nat) (x : Team) : (s.setTeam k x).launches = s.launches := rfl
@[simp] theorem setTeam_mem (s : State) (k : Nat) (x : Team) : (s.setTeam k x).mem = s.mem := rfl
@[simp] theorem setTeam_memPoison (s : State) (k : Nat) (x : Team) : (s.setTeam k x).memPoison = s.memPoison := rfl
@[simp] theorem setTeam_memUpset (s : State) (k : Nat) (x : Team) : (s.setTeam k x).memUpset = s.memUpset := rfl
@[simp] theorem setTeam_posted (s : State) (k : Nat) (x : Team) : (s.setTeam k x).posted = s.posted := rfl
@[simp] theorem setTeam_insts (s : State) (k : Nat) (x : Team) : (s.setTeam k x).insts = s.insts := rfl
@[simp] theorem setTeam_cur (s : State) (k : Nat) (x : Team) : (s.setTeam k x).cur = s.cur := rfl
@[simp] theorem setTeam_oracle (s : State) (k : Nat) (x : Team) : (s.setTeam k x).oracle = s.oracle := rfl
@[simp] theorem setTeam_waited (s : State) (k : Nat) (x : Team) : (s.setTeam k x).waited = s.waited := rfl
@[simp] theorem setTeam_readyAt (s : State) (k : Nat) (x : Team) : (s.setTeam k x).readyAt = s.readyAt := rfl
@[simp] theorem setTeam_turn (s : State) (k : Nat) (x : Team) : (s.setTeam k x).turn = s.turn := rfl
@[simp] theorem setTeam_fresh (s : State) (k : Nat) (x : Team) : (s.setTeam k x).fresh = s.fresh := rfl
@[simp] theorem setTeam_nextId (s : State) (k : Nat) (x : Team) : (s.setTeam k x).nextId = s.nextId := rfl

/-! ## setLaunch -/

@[simp] theorem setLaunch_pkgs (s : State) (k : Nat) (x : Launch) : (s.setLaunch k x).pkgs = s.pkgs := rfl
@[simp] theorem setLaunch_cores (s : State) (k : Nat) (x : Launch) : (s.setLaunch k x).cores = s.cores := rfl
@[simp] theorem setLaunch_warps (s : State) (k : Nat) (x : Launch) : (s.setLaunch k x).warps = s.warps := rfl
@[simp] theorem setLaunch_teams (s : State) (k : Nat) (x : Launch) : (s.setLaunch k x).teams = s.teams := rfl
@[simp] theorem setLaunch_launches (s : State) (k : Nat) (x : Launch) : (s.setLaunch k x).launches = tput s.launches k x := rfl
@[simp] theorem setLaunch_mem (s : State) (k : Nat) (x : Launch) : (s.setLaunch k x).mem = s.mem := rfl
@[simp] theorem setLaunch_memPoison (s : State) (k : Nat) (x : Launch) : (s.setLaunch k x).memPoison = s.memPoison := rfl
@[simp] theorem setLaunch_memUpset (s : State) (k : Nat) (x : Launch) : (s.setLaunch k x).memUpset = s.memUpset := rfl
@[simp] theorem setLaunch_posted (s : State) (k : Nat) (x : Launch) : (s.setLaunch k x).posted = s.posted := rfl
@[simp] theorem setLaunch_insts (s : State) (k : Nat) (x : Launch) : (s.setLaunch k x).insts = s.insts := rfl
@[simp] theorem setLaunch_cur (s : State) (k : Nat) (x : Launch) : (s.setLaunch k x).cur = s.cur := rfl
@[simp] theorem setLaunch_oracle (s : State) (k : Nat) (x : Launch) : (s.setLaunch k x).oracle = s.oracle := rfl
@[simp] theorem setLaunch_waited (s : State) (k : Nat) (x : Launch) : (s.setLaunch k x).waited = s.waited := rfl
@[simp] theorem setLaunch_readyAt (s : State) (k : Nat) (x : Launch) : (s.setLaunch k x).readyAt = s.readyAt := rfl
@[simp] theorem setLaunch_turn (s : State) (k : Nat) (x : Launch) : (s.setLaunch k x).turn = s.turn := rfl
@[simp] theorem setLaunch_fresh (s : State) (k : Nat) (x : Launch) : (s.setLaunch k x).fresh = s.fresh := rfl
@[simp] theorem setLaunch_nextId (s : State) (k : Nat) (x : Launch) : (s.setLaunch k x).nextId = s.nextId := rfl

/-! ## modWarp -/

@[simp] theorem modWarp_pkgs (s : State) (k : Nat) (f : Warp → Warp) : (s.modWarp k f).pkgs = s.pkgs := rfl
@[simp] theorem modWarp_cores (s : State) (k : Nat) (f : Warp → Warp) : (s.modWarp k f).cores = s.cores := rfl
@[simp] theorem modWarp_teams (s : State) (k : Nat) (f : Warp → Warp) : (s.modWarp k f).teams = s.teams := rfl
@[simp] theorem modWarp_launches (s : State) (k : Nat) (f : Warp → Warp) : (s.modWarp k f).launches = s.launches := rfl
@[simp] theorem modWarp_mem (s : State) (k : Nat) (f : Warp → Warp) : (s.modWarp k f).mem = s.mem := rfl
@[simp] theorem modWarp_memPoison (s : State) (k : Nat) (f : Warp → Warp) : (s.modWarp k f).memPoison = s.memPoison := rfl
@[simp] theorem modWarp_memUpset (s : State) (k : Nat) (f : Warp → Warp) : (s.modWarp k f).memUpset = s.memUpset := rfl
@[simp] theorem modWarp_posted (s : State) (k : Nat) (f : Warp → Warp) : (s.modWarp k f).posted = s.posted := rfl
@[simp] theorem modWarp_insts (s : State) (k : Nat) (f : Warp → Warp) : (s.modWarp k f).insts = s.insts := rfl
@[simp] theorem modWarp_cur (s : State) (k : Nat) (f : Warp → Warp) : (s.modWarp k f).cur = s.cur := rfl
@[simp] theorem modWarp_oracle (s : State) (k : Nat) (f : Warp → Warp) : (s.modWarp k f).oracle = s.oracle := rfl
@[simp] theorem modWarp_waited (s : State) (k : Nat) (f : Warp → Warp) : (s.modWarp k f).waited = s.waited := rfl
@[simp] theorem modWarp_readyAt (s : State) (k : Nat) (f : Warp → Warp) : (s.modWarp k f).readyAt = s.readyAt := rfl
@[simp] theorem modWarp_turn (s : State) (k : Nat) (f : Warp → Warp) : (s.modWarp k f).turn = s.turn := rfl
@[simp] theorem modWarp_fresh (s : State) (k : Nat) (f : Warp → Warp) : (s.modWarp k f).fresh = s.fresh := rfl
@[simp] theorem modWarp_nextId (s : State) (k : Nat) (f : Warp → Warp) : (s.modWarp k f).nextId = s.nextId := rfl
theorem modWarp_eq (s : State) (k : Nat) (f : Warp → Warp) : s.modWarp k f = s.setWarp k (f (s.warp k)) := rfl

/-! ## modCore -/

@[simp] theorem modCore_pkgs (s : State) (k : Nat) (f : Core → Core) : (s.modCore k f).pkgs = s.pkgs := rfl
@[simp] theorem modCore_warps (s : State) (k : Nat) (f : Core → Core) : (s.modCore k f).warps = s.warps := rfl
@[simp] theorem modCore_teams (s : State) (k : Nat) (f : Core → Core) : (s.modCore k f).teams = s.teams := rfl
@[simp] theorem modCore_launches (s : State) (k : Nat) (f : Core → Core) : (s.modCore k f).launches = s.launches := rfl
@[simp] theorem modCore_mem (s : State) (k : Nat) (f : Core → Core) : (s.modCore k f).mem = s.mem := rfl
@[simp] theorem modCore_memPoison (s : State) (k : Nat) (f : Core → Core) : (s.modCore k f).memPoison = s.memPoison := rfl
@[simp] theorem modCore_memUpset (s : State) (k : Nat) (f : Core → Core) : (s.modCore k f).memUpset = s.memUpset := rfl
@[simp] theorem modCore_posted (s : State) (k : Nat) (f : Core → Core) : (s.modCore k f).posted = s.posted := rfl
@[simp] theorem modCore_insts (s : State) (k : Nat) (f : Core → Core) : (s.modCore k f).insts = s.insts := rfl
@[simp] theorem modCore_cur (s : State) (k : Nat) (f : Core → Core) : (s.modCore k f).cur = s.cur := rfl
@[simp] theorem modCore_oracle (s : State) (k : Nat) (f : Core → Core) : (s.modCore k f).oracle = s.oracle := rfl
@[simp] theorem modCore_waited (s : State) (k : Nat) (f : Core → Core) : (s.modCore k f).waited = s.waited := rfl
@[simp] theorem modCore_readyAt (s : State) (k : Nat) (f : Core → Core) : (s.modCore k f).readyAt = s.readyAt := rfl
@[simp] theorem modCore_turn (s : State) (k : Nat) (f : Core → Core) : (s.modCore k f).turn = s.turn := rfl
@[simp] theorem modCore_fresh (s : State) (k : Nat) (f : Core → Core) : (s.modCore k f).fresh = s.fresh := rfl
@[simp] theorem modCore_nextId (s : State) (k : Nat) (f : Core → Core) : (s.modCore k f).nextId = s.nextId := rfl
theorem modCore_eq (s : State) (k : Nat) (f : Core → Core) : s.modCore k f = s.setCore k (f (s.core k)) := rfl

/-! ## modPkg -/

@[simp] theorem modPkg_cores (s : State) (k : Nat) (f : Package → Package) : (s.modPkg k f).cores = s.cores := rfl
@[simp] theorem modPkg_warps (s : State) (k : Nat) (f : Package → Package) : (s.modPkg k f).warps = s.warps := rfl
@[simp] theorem modPkg_teams (s : State) (k : Nat) (f : Package → Package) : (s.modPkg k f).teams = s.teams := rfl
@[simp] theorem modPkg_launches (s : State) (k : Nat) (f : Package → Package) : (s.modPkg k f).launches = s.launches := rfl
@[simp] theorem modPkg_mem (s : State) (k : Nat) (f : Package → Package) : (s.modPkg k f).mem = s.mem := rfl
@[simp] theorem modPkg_memPoison (s : State) (k : Nat) (f : Package → Package) : (s.modPkg k f).memPoison = s.memPoison := rfl
@[simp] theorem modPkg_memUpset (s : State) (k : Nat) (f : Package → Package) : (s.modPkg k f).memUpset = s.memUpset := rfl
@[simp] theorem modPkg_posted (s : State) (k : Nat) (f : Package → Package) : (s.modPkg k f).posted = s.posted := rfl
@[simp] theorem modPkg_insts (s : State) (k : Nat) (f : Package → Package) : (s.modPkg k f).insts = s.insts := rfl
@[simp] theorem modPkg_cur (s : State) (k : Nat) (f : Package → Package) : (s.modPkg k f).cur = s.cur := rfl
@[simp] theorem modPkg_oracle (s : State) (k : Nat) (f : Package → Package) : (s.modPkg k f).oracle = s.oracle := rfl
@[simp] theorem modPkg_waited (s : State) (k : Nat) (f : Package → Package) : (s.modPkg k f).waited = s.waited := rfl
@[simp] theorem modPkg_readyAt (s : State) (k : Nat) (f : Package → Package) : (s.modPkg k f).readyAt = s.readyAt := rfl
@[simp] theorem modPkg_turn (s : State) (k : Nat) (f : Package → Package) : (s.modPkg k f).turn = s.turn := rfl
@[simp] theorem modPkg_fresh (s : State) (k : Nat) (f : Package → Package) : (s.modPkg k f).fresh = s.fresh := rfl
@[simp] theorem modPkg_nextId (s : State) (k : Nat) (f : Package → Package) : (s.modPkg k f).nextId = s.nextId := rfl
theorem modPkg_eq (s : State) (k : Nat) (f : Package → Package) : s.modPkg k f = s.setPkg k (f (s.pkg k)) := rfl

/-! ## modTeam -/

@[simp] theorem modTeam_pkgs (s : State) (k : Nat) (f : Team → Team) : (s.modTeam k f).pkgs = s.pkgs := rfl
@[simp] theorem modTeam_cores (s : State) (k : Nat) (f : Team → Team) : (s.modTeam k f).cores = s.cores := rfl
@[simp] theorem modTeam_warps (s : State) (k : Nat) (f : Team → Team) : (s.modTeam k f).warps = s.warps := rfl
@[simp] theorem modTeam_launches (s : State) (k : Nat) (f : Team → Team) : (s.modTeam k f).launches = s.launches := rfl
@[simp] theorem modTeam_mem (s : State) (k : Nat) (f : Team → Team) : (s.modTeam k f).mem = s.mem := rfl
@[simp] theorem modTeam_memPoison (s : State) (k : Nat) (f : Team → Team) : (s.modTeam k f).memPoison = s.memPoison := rfl
@[simp] theorem modTeam_memUpset (s : State) (k : Nat) (f : Team → Team) : (s.modTeam k f).memUpset = s.memUpset := rfl
@[simp] theorem modTeam_posted (s : State) (k : Nat) (f : Team → Team) : (s.modTeam k f).posted = s.posted := rfl
@[simp] theorem modTeam_insts (s : State) (k : Nat) (f : Team → Team) : (s.modTeam k f).insts = s.insts := rfl
@[simp] theorem modTeam_cur (s : State) (k : Nat) (f : Team → Team) : (s.modTeam k f).cur = s.cur := rfl
@[simp] theorem modTeam_oracle (s : State) (k : Nat) (f : Team → Team) : (s.modTeam k f).oracle = s.oracle := rfl
@[simp] theorem modTeam_waited (s : State) (k : Nat) (f : Team → Team) : (s.modTeam k f).waited = s.waited := rfl
@[simp] theorem modTeam_readyAt (s : State) (k : Nat) (f : Team → Team) : (s.modTeam k f).readyAt = s.readyAt := rfl
@[simp] theorem modTeam_turn (s : State) (k : Nat) (f : Team → Team) : (s.modTeam k f).turn = s.turn := rfl
@[simp] theorem modTeam_fresh (s : State) (k : Nat) (f : Team → Team) : (s.modTeam k f).fresh = s.fresh := rfl
@[simp] theorem modTeam_nextId (s : State) (k : Nat) (f : Team → Team) : (s.modTeam k f).nextId = s.nextId := rfl
theorem modTeam_eq (s : State) (k : Nat) (f : Team → Team) : s.modTeam k f = s.setTeam k (f (s.team k)) := rfl

/-! ## modLaunch -/

@[simp] theorem modLaunch_pkgs (s : State) (k : Nat) (f : Launch → Launch) : (s.modLaunch k f).pkgs = s.pkgs := rfl
@[simp] theorem modLaunch_cores (s : State) (k : Nat) (f : Launch → Launch) : (s.modLaunch k f).cores = s.cores := rfl
@[simp] theorem modLaunch_warps (s : State) (k : Nat) (f : Launch → Launch) : (s.modLaunch k f).warps = s.warps := rfl
@[simp] theorem modLaunch_teams (s : State) (k : Nat) (f : Launch → Launch) : (s.modLaunch k f).teams = s.teams := rfl
@[simp] theorem modLaunch_mem (s : State) (k : Nat) (f : Launch → Launch) : (s.modLaunch k f).mem = s.mem := rfl
@[simp] theorem modLaunch_memPoison (s : State) (k : Nat) (f : Launch → Launch) : (s.modLaunch k f).memPoison = s.memPoison := rfl
@[simp] theorem modLaunch_memUpset (s : State) (k : Nat) (f : Launch → Launch) : (s.modLaunch k f).memUpset = s.memUpset := rfl
@[simp] theorem modLaunch_posted (s : State) (k : Nat) (f : Launch → Launch) : (s.modLaunch k f).posted = s.posted := rfl
@[simp] theorem modLaunch_insts (s : State) (k : Nat) (f : Launch → Launch) : (s.modLaunch k f).insts = s.insts := rfl
@[simp] theorem modLaunch_cur (s : State) (k : Nat) (f : Launch → Launch) : (s.modLaunch k f).cur = s.cur := rfl
@[simp] theorem modLaunch_oracle (s : State) (k : Nat) (f : Launch → Launch) : (s.modLaunch k f).oracle = s.oracle := rfl
@[simp] theorem modLaunch_waited (s : State) (k : Nat) (f : Launch → Launch) : (s.modLaunch k f).waited = s.waited := rfl
@[simp] theorem modLaunch_readyAt (s : State) (k : Nat) (f : Launch → Launch) : (s.modLaunch k f).readyAt = s.readyAt := rfl
@[simp] theorem modLaunch_turn (s : State) (k : Nat) (f : Launch → Launch) : (s.modLaunch k f).turn = s.turn := rfl
@[simp] theorem modLaunch_fresh (s : State) (k : Nat) (f : Launch → Launch) : (s.modLaunch k f).fresh = s.fresh := rfl
@[simp] theorem modLaunch_nextId (s : State) (k : Nat) (f : Launch → Launch) : (s.modLaunch k f).nextId = s.nextId := rfl
theorem modLaunch_eq (s : State) (k : Nat) (f : Launch → Launch) : s.modLaunch k f = s.setLaunch k (f (s.launch k)) := rfl

/-! ## modCur and takeId -/

@[simp] theorem modCur_pkgs (s : State) (f : Issue → Issue) : (s.modCur f).pkgs = s.pkgs := rfl
@[simp] theorem modCur_cores (s : State) (f : Issue → Issue) : (s.modCur f).cores = s.cores := rfl
@[simp] theorem modCur_warps (s : State) (f : Issue → Issue) : (s.modCur f).warps = s.warps := rfl
@[simp] theorem modCur_teams (s : State) (f : Issue → Issue) : (s.modCur f).teams = s.teams := rfl
@[simp] theorem modCur_launches (s : State) (f : Issue → Issue) : (s.modCur f).launches = s.launches := rfl
@[simp] theorem modCur_mem (s : State) (f : Issue → Issue) : (s.modCur f).mem = s.mem := rfl
@[simp] theorem modCur_memPoison (s : State) (f : Issue → Issue) : (s.modCur f).memPoison = s.memPoison := rfl
@[simp] theorem modCur_memUpset (s : State) (f : Issue → Issue) : (s.modCur f).memUpset = s.memUpset := rfl
@[simp] theorem modCur_posted (s : State) (f : Issue → Issue) : (s.modCur f).posted = s.posted := rfl
@[simp] theorem modCur_insts (s : State) (f : Issue → Issue) : (s.modCur f).insts = s.insts := rfl
@[simp] theorem modCur_cur (s : State) (f : Issue → Issue) : (s.modCur f).cur = s.cur.map f := rfl
@[simp] theorem modCur_oracle (s : State) (f : Issue → Issue) : (s.modCur f).oracle = s.oracle := rfl
@[simp] theorem modCur_waited (s : State) (f : Issue → Issue) : (s.modCur f).waited = s.waited := rfl
@[simp] theorem modCur_readyAt (s : State) (f : Issue → Issue) : (s.modCur f).readyAt = s.readyAt := rfl
@[simp] theorem modCur_turn (s : State) (f : Issue → Issue) : (s.modCur f).turn = s.turn := rfl
@[simp] theorem modCur_fresh (s : State) (f : Issue → Issue) : (s.modCur f).fresh = s.fresh := rfl
@[simp] theorem modCur_nextId (s : State) (f : Issue → Issue) : (s.modCur f).nextId = s.nextId := rfl
@[simp] theorem takeId_pkgs (s : State) : s.takeId.2.pkgs = s.pkgs := rfl
@[simp] theorem takeId_cores (s : State) : s.takeId.2.cores = s.cores := rfl
@[simp] theorem takeId_warps (s : State) : s.takeId.2.warps = s.warps := rfl
@[simp] theorem takeId_teams (s : State) : s.takeId.2.teams = s.teams := rfl
@[simp] theorem takeId_launches (s : State) : s.takeId.2.launches = s.launches := rfl
@[simp] theorem takeId_mem (s : State) : s.takeId.2.mem = s.mem := rfl
@[simp] theorem takeId_memPoison (s : State) : s.takeId.2.memPoison = s.memPoison := rfl
@[simp] theorem takeId_memUpset (s : State) : s.takeId.2.memUpset = s.memUpset := rfl
@[simp] theorem takeId_posted (s : State) : s.takeId.2.posted = s.posted := rfl
@[simp] theorem takeId_insts (s : State) : s.takeId.2.insts = s.insts := rfl
@[simp] theorem takeId_cur (s : State) : s.takeId.2.cur = s.cur := rfl
@[simp] theorem takeId_oracle (s : State) : s.takeId.2.oracle = s.oracle := rfl
@[simp] theorem takeId_waited (s : State) : s.takeId.2.waited = s.waited := rfl
@[simp] theorem takeId_readyAt (s : State) : s.takeId.2.readyAt = s.readyAt := rfl
@[simp] theorem takeId_turn (s : State) : s.takeId.2.turn = s.turn := rfl
@[simp] theorem takeId_fresh (s : State) : s.takeId.2.fresh = s.fresh := rfl
@[simp] theorem takeId_fst (s : State) : s.takeId.1 = s.nextId := rfl
@[simp] theorem takeId_nextId (s : State) : s.takeId.2.nextId = s.nextId + 1 := rfl

/-! ## Reads after writes -/

theorem warp_setWarp (s : State) (k j : Nat) (x : Warp) : (s.setWarp k x).warp j = if j = k then x else s.warp j := by
  simp only [State.warp, State.setWarp, tget_tput]; split <;> rfl

@[simp] theorem warp_setWarp_self (s : State) (k : Nat) (x : Warp) : (s.setWarp k x).warp k = x := by
  simp [warp_setWarp]

@[simp] theorem warp_modWarp_self (s : State) (k : Nat) (f : Warp → Warp) : (s.modWarp k f).warp k = f (s.warp k) := by
  simp [modWarp_eq]

theorem warp_modWarp (s : State) (k j : Nat) (f : Warp → Warp) :
    (s.modWarp k f).warp j = if j = k then f (s.warp k) else s.warp j := by
  rw [modWarp_eq, warp_setWarp]

theorem core_setCore (s : State) (k j : Nat) (x : Core) : (s.setCore k x).core j = if j = k then x else s.core j := by
  simp only [State.core, State.setCore, tget_tput]; split <;> rfl

@[simp] theorem core_setCore_self (s : State) (k : Nat) (x : Core) : (s.setCore k x).core k = x := by
  simp [core_setCore]

@[simp] theorem core_modCore_self (s : State) (k : Nat) (f : Core → Core) : (s.modCore k f).core k = f (s.core k) := by
  simp [modCore_eq]

theorem core_modCore (s : State) (k j : Nat) (f : Core → Core) :
    (s.modCore k f).core j = if j = k then f (s.core k) else s.core j := by
  rw [modCore_eq, core_setCore]

theorem pkg_setPkg (s : State) (k j : Nat) (x : Package) : (s.setPkg k x).pkg j = if j = k then x else s.pkg j := by
  simp only [State.pkg, State.setPkg, tget_tput]; split <;> rfl

@[simp] theorem pkg_setPkg_self (s : State) (k : Nat) (x : Package) : (s.setPkg k x).pkg k = x := by
  simp [pkg_setPkg]

@[simp] theorem pkg_modPkg_self (s : State) (k : Nat) (f : Package → Package) : (s.modPkg k f).pkg k = f (s.pkg k) := by
  simp [modPkg_eq]

theorem pkg_modPkg (s : State) (k j : Nat) (f : Package → Package) :
    (s.modPkg k f).pkg j = if j = k then f (s.pkg k) else s.pkg j := by
  rw [modPkg_eq, pkg_setPkg]

theorem team_setTeam (s : State) (k j : Nat) (x : Team) : (s.setTeam k x).team j = if j = k then x else s.team j := by
  simp only [State.team, State.setTeam, tget_tput]; split <;> rfl

@[simp] theorem team_setTeam_self (s : State) (k : Nat) (x : Team) : (s.setTeam k x).team k = x := by
  simp [team_setTeam]

@[simp] theorem team_modTeam_self (s : State) (k : Nat) (f : Team → Team) : (s.modTeam k f).team k = f (s.team k) := by
  simp [modTeam_eq]

theorem team_modTeam (s : State) (k j : Nat) (f : Team → Team) :
    (s.modTeam k f).team j = if j = k then f (s.team k) else s.team j := by
  rw [modTeam_eq, team_setTeam]

theorem launch_setLaunch (s : State) (k j : Nat) (x : Launch) : (s.setLaunch k x).launch j = if j = k then x else s.launch j := by
  simp only [State.launch, State.setLaunch, tget_tput]; split <;> rfl

@[simp] theorem launch_setLaunch_self (s : State) (k : Nat) (x : Launch) : (s.setLaunch k x).launch k = x := by
  simp [launch_setLaunch]

@[simp] theorem launch_modLaunch_self (s : State) (k : Nat) (f : Launch → Launch) : (s.modLaunch k f).launch k = f (s.launch k) := by
  simp [modLaunch_eq]

theorem launch_modLaunch (s : State) (k j : Nat) (f : Launch → Launch) :
    (s.modLaunch k f).launch j = if j = k then f (s.launch k) else s.launch j := by
  rw [modLaunch_eq, launch_setLaunch]

@[simp] theorem core_setWarp (s : State) (k j : Nat) (x : Warp) : (s.setWarp k x).core j = s.core j := rfl
@[simp] theorem core_modWarp (s : State) (k j : Nat) (f : Warp → Warp) : (s.modWarp k f).core j = s.core j := rfl
@[simp] theorem pkg_setWarp (s : State) (k j : Nat) (x : Warp) : (s.setWarp k x).pkg j = s.pkg j := rfl
@[simp] theorem pkg_modWarp (s : State) (k j : Nat) (f : Warp → Warp) : (s.modWarp k f).pkg j = s.pkg j := rfl
@[simp] theorem team_setWarp (s : State) (k j : Nat) (x : Warp) : (s.setWarp k x).team j = s.team j := rfl
@[simp] theorem team_modWarp (s : State) (k j : Nat) (f : Warp → Warp) : (s.modWarp k f).team j = s.team j := rfl
@[simp] theorem launch_setWarp (s : State) (k j : Nat) (x : Warp) : (s.setWarp k x).launch j = s.launch j := rfl
@[simp] theorem launch_modWarp (s : State) (k j : Nat) (f : Warp → Warp) : (s.modWarp k f).launch j = s.launch j := rfl
@[simp] theorem warp_setCore (s : State) (k j : Nat) (x : Core) : (s.setCore k x).warp j = s.warp j := rfl
@[simp] theorem warp_modCore (s : State) (k j : Nat) (f : Core → Core) : (s.modCore k f).warp j = s.warp j := rfl
@[simp] theorem pkg_setCore (s : State) (k j : Nat) (x : Core) : (s.setCore k x).pkg j = s.pkg j := rfl
@[simp] theorem pkg_modCore (s : State) (k j : Nat) (f : Core → Core) : (s.modCore k f).pkg j = s.pkg j := rfl
@[simp] theorem team_setCore (s : State) (k j : Nat) (x : Core) : (s.setCore k x).team j = s.team j := rfl
@[simp] theorem team_modCore (s : State) (k j : Nat) (f : Core → Core) : (s.modCore k f).team j = s.team j := rfl
@[simp] theorem launch_setCore (s : State) (k j : Nat) (x : Core) : (s.setCore k x).launch j = s.launch j := rfl
@[simp] theorem launch_modCore (s : State) (k j : Nat) (f : Core → Core) : (s.modCore k f).launch j = s.launch j := rfl
@[simp] theorem warp_setPkg (s : State) (k j : Nat) (x : Package) : (s.setPkg k x).warp j = s.warp j := rfl
@[simp] theorem warp_modPkg (s : State) (k j : Nat) (f : Package → Package) : (s.modPkg k f).warp j = s.warp j := rfl
@[simp] theorem core_setPkg (s : State) (k j : Nat) (x : Package) : (s.setPkg k x).core j = s.core j := rfl
@[simp] theorem core_modPkg (s : State) (k j : Nat) (f : Package → Package) : (s.modPkg k f).core j = s.core j := rfl
@[simp] theorem team_setPkg (s : State) (k j : Nat) (x : Package) : (s.setPkg k x).team j = s.team j := rfl
@[simp] theorem team_modPkg (s : State) (k j : Nat) (f : Package → Package) : (s.modPkg k f).team j = s.team j := rfl
@[simp] theorem launch_setPkg (s : State) (k j : Nat) (x : Package) : (s.setPkg k x).launch j = s.launch j := rfl
@[simp] theorem launch_modPkg (s : State) (k j : Nat) (f : Package → Package) : (s.modPkg k f).launch j = s.launch j := rfl
@[simp] theorem warp_setTeam (s : State) (k j : Nat) (x : Team) : (s.setTeam k x).warp j = s.warp j := rfl
@[simp] theorem warp_modTeam (s : State) (k j : Nat) (f : Team → Team) : (s.modTeam k f).warp j = s.warp j := rfl
@[simp] theorem core_setTeam (s : State) (k j : Nat) (x : Team) : (s.setTeam k x).core j = s.core j := rfl
@[simp] theorem core_modTeam (s : State) (k j : Nat) (f : Team → Team) : (s.modTeam k f).core j = s.core j := rfl
@[simp] theorem pkg_setTeam (s : State) (k j : Nat) (x : Team) : (s.setTeam k x).pkg j = s.pkg j := rfl
@[simp] theorem pkg_modTeam (s : State) (k j : Nat) (f : Team → Team) : (s.modTeam k f).pkg j = s.pkg j := rfl
@[simp] theorem launch_setTeam (s : State) (k j : Nat) (x : Team) : (s.setTeam k x).launch j = s.launch j := rfl
@[simp] theorem launch_modTeam (s : State) (k j : Nat) (f : Team → Team) : (s.modTeam k f).launch j = s.launch j := rfl
@[simp] theorem warp_setLaunch (s : State) (k j : Nat) (x : Launch) : (s.setLaunch k x).warp j = s.warp j := rfl
@[simp] theorem warp_modLaunch (s : State) (k j : Nat) (f : Launch → Launch) : (s.modLaunch k f).warp j = s.warp j := rfl
@[simp] theorem core_setLaunch (s : State) (k j : Nat) (x : Launch) : (s.setLaunch k x).core j = s.core j := rfl
@[simp] theorem core_modLaunch (s : State) (k j : Nat) (f : Launch → Launch) : (s.modLaunch k f).core j = s.core j := rfl
@[simp] theorem pkg_setLaunch (s : State) (k j : Nat) (x : Launch) : (s.setLaunch k x).pkg j = s.pkg j := rfl
@[simp] theorem pkg_modLaunch (s : State) (k j : Nat) (f : Launch → Launch) : (s.modLaunch k f).pkg j = s.pkg j := rfl
@[simp] theorem team_setLaunch (s : State) (k j : Nat) (x : Launch) : (s.setLaunch k x).team j = s.team j := rfl
@[simp] theorem team_modLaunch (s : State) (k j : Nat) (f : Launch → Launch) : (s.modLaunch k f).team j = s.team j := rfl
@[simp] theorem warp_modCur (s : State) (j : Nat) (f : Issue → Issue) : (s.modCur f).warp j = s.warp j := rfl
@[simp] theorem core_modCur (s : State) (j : Nat) (f : Issue → Issue) : (s.modCur f).core j = s.core j := rfl
@[simp] theorem pkg_modCur (s : State) (j : Nat) (f : Issue → Issue) : (s.modCur f).pkg j = s.pkg j := rfl
@[simp] theorem team_modCur (s : State) (j : Nat) (f : Issue → Issue) : (s.modCur f).team j = s.team j := rfl
@[simp] theorem launch_modCur (s : State) (j : Nat) (f : Issue → Issue) : (s.modCur f).launch j = s.launch j := rfl

end Sys2Proof.Machine
end

