-- ==== Sys2Proof/Laws/Memory.lean ====
section
/-!
SUPPORT. Laws/Memory.lean: every operation over global memory, its poison and its upsets keeps their
canonical forms; what a stored run reads as.
-/

namespace Sys2Proof.Machine

open Sys2Proof

/-! ## The canonical form of a state -/

theorem memoryWf_iff (s : State) : s.memoryWf = true ↔
    Memory.wf s.mem = true ∧ swf s.memPoison = true ∧ swf s.memUpset = true := by
  simp [State.memoryWf, and_assoc]

/-- Two states with the same memory, poison and upsets are canonical together. -/
theorem memoryWf_of_eq {s t : State} (hm : t.mem = s.mem) (hp : t.memPoison = s.memPoison)
    (hu : t.memUpset = s.memUpset) (h : s.memoryWf = true) : t.memoryWf = true := by
  rw [memoryWf_iff] at h ⊢; rw [hm, hp, hu]; exact h

/-- The reset state is canonical. -/
theorem memoryWf_reset : State.reset.memoryWf = true := by decide

/-- A fold of operations that keep the form keeps it. -/
theorem memoryWf_foldl {α : Type} (f : State → α → State) (hf : ∀ s a, s.memoryWf = true → (f s a).memoryWf = true)
    (xs : List α) : ∀ s : State, s.memoryWf = true → (xs.foldl f s).memoryWf = true := by
  induction xs with
  | nil => exact fun _ h => h
  | cons x xs ih => exact fun s h => ih _ (hf s x h)

@[simp] theorem setWarp_memoryWf (s : State) (k : Nat) (x : Warp) : (s.setWarp k x).memoryWf = s.memoryWf := rfl
@[simp] theorem setCore_memoryWf (s : State) (k : Nat) (x : Core) : (s.setCore k x).memoryWf = s.memoryWf := rfl
@[simp] theorem setPkg_memoryWf (s : State) (k : Nat) (x : Package) : (s.setPkg k x).memoryWf = s.memoryWf := rfl
@[simp] theorem setTeam_memoryWf (s : State) (k : Nat) (x : Team) : (s.setTeam k x).memoryWf = s.memoryWf := rfl
@[simp] theorem setLaunch_memoryWf (s : State) (k : Nat) (x : Launch) : (s.setLaunch k x).memoryWf = s.memoryWf := rfl
@[simp] theorem modWarp_memoryWf (s : State) (k : Nat) (f : Warp → Warp) : (s.modWarp k f).memoryWf = s.memoryWf := rfl
@[simp] theorem modCore_memoryWf (s : State) (k : Nat) (f : Core → Core) : (s.modCore k f).memoryWf = s.memoryWf := rfl
@[simp] theorem modPkg_memoryWf (s : State) (k : Nat) (f : Package → Package) : (s.modPkg k f).memoryWf = s.memoryWf := rfl
@[simp] theorem modTeam_memoryWf (s : State) (k : Nat) (f : Team → Team) : (s.modTeam k f).memoryWf = s.memoryWf := rfl
@[simp] theorem modLaunch_memoryWf (s : State) (k : Nat) (f : Launch → Launch) : (s.modLaunch k f).memoryWf = s.memoryWf := rfl
@[simp] theorem modCur_memoryWf (s : State) (f : Issue → Issue) : (s.modCur f).memoryWf = s.memoryWf := rfl
@[simp] theorem takeId_memoryWf (s : State) : s.takeId.2.memoryWf = s.memoryWf := rfl

/-! ## Counters -/

@[simp] theorem countCore_memoryWf (code n g : Nat) (s : State) : (countCore code n g s).memoryWf = s.memoryWf := by
  unfold countCore; split <;> rfl
@[simp] theorem countWarp_memoryWf (code n w : Nat) (s : State) : (countWarp code n w s).memoryWf = s.memoryWf := by
  unfold countWarp; split <;> simp
@[simp] theorem countDie_memoryWf (code n p d : Nat) (s : State) : (countDie code n p d s).memoryWf = s.memoryWf := rfl
@[simp] theorem countError_memoryWf (i n p d : Nat) (s : State) : (countError i n p d s).memoryWf = s.memoryWf := by
  unfold countError; split <;> rfl

/-! ## Bytes at the home slice -/

@[simp] theorem countMem_memoryWf (two k : Nat) (s : State) : (countMem two k s).memoryWf = s.memoryWf := by
  unfold countMem
  repeat' split
  all_goals simp

/-- What the caches hold of a line is no part of memory's canonical form. -/
@[simp] theorem dirtyHome_memoryWf (k : Nat) (s : State) : (dirtyHome k s).memoryWf = s.memoryWf := by
  unfold dirtyHome
  dsimp only
  repeat' split
  all_goals rfl

@[simp] theorem dirtyHome_mem (k : Nat) (s : State) : (dirtyHome k s).mem = s.mem := by
  unfold dirtyHome
  dsimp only
  repeat' split
  all_goals rfl

theorem resolveMem_memoryWf (k : Nat) {s : State} (h : s.memoryWf = true) : (resolveMem k s).memoryWf = true := by
  obtain ⟨hm, hp, hu⟩ := (memoryWf_iff s).1 h
  have hu0 : swf (sput s.memUpset (k / 4) 0#2) = true := swf_sput hu
  have hp1 : swf (sput s.memPoison (k / 4) 1#1) = true := swf_sput hp
  unfold resolveMem
  dsimp only
  split
  · exact h
  · split
    · split
      · exact (memoryWf_iff _).2 ⟨hm, hp, hu0⟩
      · rw [countMem_memoryWf]; exact (memoryWf_iff _).2 ⟨hm, hp1, hu0⟩
    · rw [countMem_memoryWf]; exact (memoryWf_iff _).2 ⟨hm, hp, hu0⟩

theorem setWordPoison_memoryWf (k : Nat) (b : Bool) {s : State} (h : s.memoryWf = true) :
    (setWordPoison k b s).memoryWf = true := by
  obtain ⟨hm, hp, hu⟩ := (memoryWf_iff s).1 h
  have hp1 : swf (sput s.memPoison (k / 4) (if b then 1#1 else 0#1)) = true := swf_sput hp
  have hu0 : swf (sput s.memUpset (k / 4) 0#2) = true := swf_sput hu
  exact (memoryWf_iff _).2 ⟨hm, hp1, hu0⟩

/-- Bytes put into the memory of a canonical state keep it canonical. -/
theorem putMem_memoryWf (k : Nat) (bs : List Byte) {s : State} (h : s.memoryWf = true) :
    ({ s with mem := mputs s.mem k bs } : State).memoryWf = true := by
  obtain ⟨hm, hp, hu⟩ := (memoryWf_iff s).1 h
  exact (memoryWf_iff _).2 ⟨wf_mputs hm, hp, hu⟩

theorem homeWrite_memoryWf (k : Nat) (bs : List Byte) {s : State} (h : s.memoryWf = true) :
    (homeWrite k bs s).memoryWf = true := by
  unfold homeWrite
  split
  · simpa using h
  · have h1 := (dirtyHome_memoryWf k s).trans h
    refine putMem_memoryWf k bs ?_
    split
    · exact h1
    · exact (dirtyHome_memoryWf _ _).trans h1

theorem homeStore_memoryWf (k : Nat) (bs : List Byte) {s : State} (h : s.memoryWf = true) :
    (homeStore k bs s).memoryWf = true := by
  unfold homeStore
  split
  · exact homeWrite_memoryWf k bs h
  · exact memoryWf_foldl _ (fun _ a ht => setWordPoison_memoryWf a false ht) _ _ (homeWrite_memoryWf k bs h)

theorem homeMove_memoryWf (k : Nat) (bs : List (Byte × Bool)) {s : State} (h : s.memoryWf = true) :
    (homeMove k bs s).memoryWf = true := by
  unfold homeMove
  split
  · exact homeWrite_memoryWf k _ h
  · exact memoryWf_foldl _ (fun _ i ht => setWordPoison_memoryWf (k + i) true ht) _ _ (homeStore_memoryWf k _ h)

theorem setWordPoison_fold_mem (as : List Nat) : ∀ s : State,
    (as.foldl (fun t a => setWordPoison a false t) s).mem = s.mem := by
  induction as with
  | nil => exact fun _ => rfl
  | cons a as ih => exact fun s => ih _

/-- A store to backed memory sets its bytes; a store to an unbacked region sets none. -/
theorem homeStore_mem (k : Nat) (bs : List Byte) (s : State) :
    (homeStore k bs s).mem = if regionIs s k .unbacked then s.mem else mputs s.mem k bs := by
  unfold homeStore homeWrite
  split
  · simp [countError]
  · rw [setWordPoison_fold_mem]
    dsimp only
    split <;> simp

/-- A soft error keeps memory canonical. -/
theorem strikeAt_memoryWf (p : Strike) {s : State} (h : s.memoryWf = true) :
    (strikeAt p s).memoryWf = true := by
  unfold strikeAt
  split
  case h_6 k two =>
    obtain ⟨hm, hp, hu⟩ := (memoryWf_iff s).1 h
    have hu1 : swf (sput s.memUpset (k / 4) (struckWord two (sget s.memUpset (k / 4)))) = true := swf_sput hu
    exact (memoryWf_iff _).2 ⟨hm, hp, hu1⟩
  all_goals split
  all_goals simpa using h

/-- A soft error changes no byte of memory. -/
@[simp] theorem strikeAt_mem (p : Strike) (s : State) : (strikeAt p s).mem = s.mem := by
  unfold strikeAt
  split
  case h_6 k two => rfl
  all_goals split
  all_goals rfl

/-! ## Caches -/

@[simp] theorem segPlace_memoryWf (k cls : Nat) (pin : Bool) (owner : Nat) (tkey : BitVec 8) (s : State) :
    (segPlace k cls pin owner tkey s).memoryWf = s.memoryWf := by
  unfold segPlace
  dsimp only
  repeat' split
  all_goals simp

@[simp] theorem spillL2_memoryWf (v : CacheLine) (s : State) : (spillL2 v s).memoryWf = s.memoryWf := by
  unfold spillL2
  dsimp only
  repeat' split
  all_goals simp

@[simp] theorem l2Place_memoryWf (k : Nat) (tkey : BitVec 8) (s : State) : (l2Place k tkey s).memoryWf = s.memoryWf := by
  unfold l2Place
  dsimp only
  repeat' split
  all_goals simp

theorem resolveLine_memoryWf (k : Nat) {s : State} (h : s.memoryWf = true) : (resolveLine k s).memoryWf = true := by
  unfold resolveLine
  exact memoryWf_foldl _ (fun _ e ht => resolveMem_memoryWf (4 * e.1) ht) _ _ h

theorem touchHome_memoryWf (k : Nat) (tkey : BitVec 8) {s : State} (h : s.memoryWf = true) :
    (touchHome k tkey s).memoryWf = true := by
  unfold touchHome
  dsimp only
  split
  · rw [segPlace_memoryWf, l2Place_memoryWf]
    split
    · exact h
    · exact resolveLine_memoryWf k h
  · exact h

theorem writeBack_memoryWf (g : Nat) (x : L1Line) {s : State} (h : s.memoryWf = true) :
    (writeBack g x s).memoryWf = true := by
  unfold writeBack
  dsimp only
  split
  · exact h
  split
  · simpa using h
  refine memoryWf_foldl _ (fun t j ht => ?_) _ _ (touchHome_memoryWf _ _ h)
  have hw : ((List.filter (fun b => x.dirty.getLsbD b) (span (4 * j) 4)).foldl
      (fun u b => homeWrite (128 * x.tag + b) [x.byte b] u) t).memoryWf = true :=
    memoryWf_foldl _ (fun _ b hu => homeWrite_memoryWf _ _ hu) _ _ ht
  split
  · exact ht
  · split
    · exact setWordPoison_memoryWf _ _ hw
    · exact hw

theorem cleanLine_memoryWf (g k : Nat) {s : State} (h : s.memoryWf = true) : (cleanLine g k s).memoryWf = true := by
  unfold cleanLine
  repeat' split
  all_goals first
    | exact h
    | (rw [modCore_memoryWf]; exact writeBack_memoryWf _ _ h)

theorem dropLine_memoryWf (g k : Nat) {s : State} (h : s.memoryWf = true) : (dropLine g k s).memoryWf = true := by
  unfold dropLine
  dsimp only
  split
  · exact cleanLine_memoryWf g k h
  · rw [modCore_memoryWf]; exact cleanLine_memoryWf g k h

theorem l1Alloc_memoryWf (g : Nat) (fuse : Bool) (k : Nat) (hint : BitVec 2) {s : State} (h : s.memoryWf = true) :
    (l1Alloc g fuse k hint s).2.memoryWf = true := by
  unfold l1Alloc
  dsimp only
  rw [modCore_memoryWf]
  split
  · exact writeBack_memoryWf _ _ h
  · exact h

theorem l1Load_memoryWf (g : Nat) (fuse : Bool) (k n : Nat) (hint : BitVec 2) (tkey : BitVec 8) {s : State} (h : s.memoryWf = true) :
    (l1Load g fuse k n hint tkey s).2.memoryWf = true := by
  have ha := l1Alloc_memoryWf g fuse k hint h
  unfold l1Load
  cases l1Find (s.core g) k <;> dsimp only <;> repeat' split
  all_goals first
    | exact h
    | exact ha
    | (rw [modCore_memoryWf]
       exact resolveLine_memoryWf k (touchHome_memoryWf k tkey (by assumption)))

theorem l1Store_memoryWf (g : Nat) (fuse : Bool) (k : Nat) (bs : List Byte) (hint : BitVec 2) {s : State} (h : s.memoryWf = true) :
    (l1Store g fuse k bs hint s).memoryWf = true := by
  have ha := l1Alloc_memoryWf g fuse k hint h
  unfold l1Store
  cases l1Find (s.core g) k <;> dsimp only <;> split
  all_goals first | exact h | exact ha

@[simp] theorem l1TakeClean_memoryWf (g k : Nat) (bs : List (Byte × Bool)) (s : State) :
    (l1TakeClean g k bs s).memoryWf = s.memoryWf := by
  unfold l1TakeClean
  repeat' split
  all_goals rfl

theorem l1CleanAll_memoryWf (g : Nat) (fuse : Bool) {s : State} (h : s.memoryWf = true) :
    (l1CleanAll g fuse s).memoryWf = true := by
  have one : ∀ (h : Nat) (s : State), s.memoryWf = true →
      ((s.core h).l1.foldl (fun t e =>
        if e.2.dirty = 0#128 then t
        else (writeBack h e.2 t).modCore h (fun c => { c with l1 := tput c.l1 e.1 { e.2 with dirty := 0#128 } })) s).memoryWf
        = true := by
    intro h s hs
    refine memoryWf_foldl _ (fun t e ht => ?_) _ _ hs
    dsimp only
    split
    · exact ht
    · rw [modCore_memoryWf]; exact writeBack_memoryWf _ _ ht
  unfold l1CleanAll
  dsimp only
  split
  · exact memoryWf_foldl _ (fun t h ht => one h t ht) _ _ h
  · exact one g s h

theorem l1CleanEpoch_memoryWf (g : Nat) (e : Word) {s : State} (h : s.memoryWf = true) :
    (l1CleanEpoch g e s).memoryWf = true := by
  refine memoryWf_foldl _ (fun t x ht => ?_) _ _ h
  dsimp only
  split
  · exact ht
  · rw [modCore_memoryWf]; exact writeBack_memoryWf _ _ ht

@[simp] theorem l1Invalidate_memoryWf (g : Nat) (fuse : Bool) (s : State) :
    (l1Invalidate g fuse s).memoryWf = s.memoryWf := by
  unfold l1Invalidate
  dsimp only
  split
  · generalize span (g / 4 * 4) 4 = xs
    induction xs generalizing s with
    | nil => rfl
    | cons x xs ih => rw [List.foldl_cons, ih]; rfl
  · rfl

theorem promote_memoryWf (p slice : Nat) (e : Promo) {s : State} (h : s.memoryWf = true) :
    (promote p slice e s).memoryWf = true := by
  unfold promote
  simp only [countCore_memoryWf, modPkg_memoryWf]
  exact memoryWf_foldl _ (fun t g ht => l1CleanEpoch_memoryWf g e.epoch ht) _ _ h

theorem promoRecord_memoryWf (k g : Nat) (fuse : Bool) (epoch : Word) {s : State} (h : s.memoryWf = true) :
    (promoRecord k g fuse epoch s).memoryWf = true := by
  unfold promoRecord
  cases homeOf s k with
  | none => exact h
  | some home =>
    dsimp only
    rw [modPkg_memoryWf]
    generalize ((s.pkg (keyPkg k)).promoOf home).find? _ = old
    have h1 : ∀ s1 : State, s1.memoryWf = true → ∀ t : List Promo,
        (match t with
          | e :: _ => if t.length ≥ 256 then promote (keyPkg k) home e s1 else s1
          | [] => s1).memoryWf = true := by
      intro s1 hs t
      cases t with
      | nil => exact hs
      | cons e es =>
        dsimp only
        split
        · exact promote_memoryWf _ _ _ hs
        · exact hs
    cases old with
    | none => exact h1 s h _
    | some e => exact h1 _ (promote_memoryWf _ _ e h) _

theorem releaseL1_memoryWf (g : Nat) (fuse : Bool) (scope : Nat) {s : State} (h : s.memoryWf = true) :
    (releaseL1 g fuse scope s).memoryWf = true := by
  unfold releaseL1
  split
  · exact l1CleanAll_memoryWf g fuse h
  · exact h

@[simp] theorem acquireL1_memoryWf (g : Nat) (fuse : Bool) (scope : Nat) (s : State) :
    (acquireL1 g fuse scope s).memoryWf = s.memoryWf := by
  unfold acquireL1
  split <;> simp

/-! ## Reads and writes of global memory -/

theorem bar2Write_memoryWf (q o : Nat) (bs : List Byte) {s : State} (h : s.memoryWf = true) :
    (bar2Write q o bs s).memoryWf = true := homeStore_memoryWf _ _ (touchHome_memoryWf _ _ h)

@[simp] theorem bar0Write_memoryWf (q o : Nat) (bs : List Byte) (s : State) :
    (bar0Write q o bs s).memoryWf = s.memoryWf := by
  unfold bar0Write
  split <;> rfl

theorem busPost_memoryWf (p : Nat) (pl : Place) (bs : List Byte) {s : State} (h : s.memoryWf = true) :
    (busPost p pl bs s).memoryWf = true := by
  unfold busPost
  repeat' split
  all_goals first
    | exact h
    | exact bar2Write_memoryWf _ _ _ h
    | (rw [bar0Write_memoryWf]; exact h)

/-- A write on the bus that meets no BAR2 changes no byte of global memory. -/
theorem busPost_mem (p : Nat) (pl : Place) (bs : List Byte) (s : State)
    (h : ∀ q o, busTarget s p (keyAddr pl.key) ≠ some (q, true, o)) : (busPost p pl bs s).mem = s.mem := by
  unfold busPost
  split
  · rfl
  · rename_i q o hq
    exact absurd hq (h q o)
  · unfold bar0Write
    repeat' split
    all_goals rfl

theorem keyRead_memoryWf (k n : Nat) {s : State} (h : s.memoryWf = true) : (keyRead k n s).2.memoryWf = true :=
  memoryWf_foldl (fun t i => resolveMem (k / 4 * 4 + 4 * i) t)
    (fun _ i ht => resolveMem_memoryWf (k / 4 * 4 + 4 * i) ht) _ _ (touchHome_memoryWf _ _ h)

theorem busTake_memoryWf (p : Nat) (pl : Place) (n : Nat) {s : State} (h : s.memoryWf = true) :
    (busTake p pl n s).2.memoryWf = true := by
  unfold busTake
  dsimp only
  split
  · exact keyRead_memoryWf _ _ h
  · exact h
  · exact h

theorem globalRead_memoryWf (g : Nat) (fuse : Bool) (pl : Place) (n : Nat) (v : Serve) (tkey : BitVec 8)
    {s : State} (h : s.memoryWf = true) : (globalRead g fuse pl n v tkey s).2.memoryWf = true := by
  unfold globalRead
  dsimp only
  split
  · exact busTake_memoryWf _ _ _ h
  · cases v with
    | cached hint => exact l1Load_memoryWf _ _ _ _ _ _ h
    | atSlice =>
      exact memoryWf_foldl (fun t i => resolveMem (pl.key + 4 * i) t)
        (fun _ i ht => resolveMem_memoryWf (pl.key + 4 * i) ht) (List.range ((n + 3) / 4)) _
        (touchHome_memoryWf _ _ (cleanLine_memoryWf _ _ h))

theorem globalWrite_memoryWf (g : Nat) (fuse : Bool) (pl : Place) (bs : List Byte) (v : Serve) (tkey : BitVec 8)
    {s : State} (h : s.memoryWf = true) : (globalWrite g fuse pl bs v tkey s).memoryWf = true := by
  unfold globalWrite
  dsimp only
  split
  · exact busPost_memoryWf _ _ _ h
  · cases v with
    | cached hint => exact l1Store_memoryWf _ _ _ _ _ h
    | atSlice =>
      dsimp only
      rw [l1TakeClean_memoryWf]
      exact homeStore_memoryWf _ _ (touchHome_memoryWf _ _ h)

end Sys2Proof.Machine
end

