-- ==== Sys2Proof/Laws/Pass.lean ====
section
/-!
SUPPORT. Laws/Pass.lean: what one pass answers: every outcome is a next state, and a pass that clears its
checks has its effect.
-/

namespace Sys2Proof.Machine

open Sys2Proof

/-- An issue in progress always answers a next state. -/
theorem runChecked_next (i : Instr) (kind : PassKind) (own : Ctx → State → PreCheck) (eff : Ctx → State → PassResult)
    (s : State) (q : Issue) (hq : s.cur = some q) : ∃ t, runChecked i kind own eff s = .next t := by
  unfold runChecked
  rw [hq]
  dsimp only
  repeat' split
  all_goals exact ⟨_, rfl⟩

theorem runPass_next (i : Instr) (kind : PassKind) (eff : Ctx → State → PassResult) (s : State) (q : Issue)
    (hq : s.cur = some q) : ∃ t, runPass i kind eff s = .next t := runChecked_next i kind _ eff s q hq

/-- Without an issue in progress the only answer is a refusal. -/
theorem runChecked_none (i : Instr) (kind : PassKind) (own : Ctx → State → PreCheck) (eff : Ctx → State → PassResult)
    (s : State) (hq : s.cur = none) : runChecked i kind own eff s = .refused .noIssue := by
  unfold runChecked
  rw [hq]

theorem runPass_none (i : Instr) (kind : PassKind) (eff : Ctx → State → PassResult) (s : State)
    (hq : s.cur = none) : runPass i kind eff s = .refused .noIssue := runChecked_none i kind _ eff s hq

/-- How a pass that has cleared its checks ends, by what its effect answers. -/
def endOf (c : Ctx) (i : Instr) (all : Bool) : PassResult → State
  | .ok t => passEnd c i all t
  | .moved t => t.modCur (fun q => { q with todo := [], status := .finished })
  | .held t => t.modCur (fun q => { q with status := .held })
  | .wait t => waitPass t
  | .part t m => partPass c i m t
  | .fault t f => trapPass c f (countReads c i t)
  | .pageFault t f => pageFaultPass c f (countReads c i t)
  | .double t => (doubleFault c.k t).modCur (fun q => { q with status := .trapped })

/-- A pass that clears its checks, and its own, answers what its effect makes. -/
theorem runChecked_clears (i : Instr) (kind : PassKind) (own : Ctx → State → PreCheck) (eff : Ctx → State → PassResult)
    (s : State) (q : Issue) (hq : s.cur = some q) (hc : clears i kind s q = true)
    (ho : own (passCtx s q i kind) s = .pass) :
    runChecked i kind own eff s =
      .next (endOf (passCtx s q i kind) i (kind == .once) (eff (passCtx s q i kind) (readState i s q))) := by
  simp only [clears, Bool.and_eq_true, Bool.not_eq_true', Option.isNone_iff_eq_none, beq_iff_eq] at hc
  obtain ⟨⟨⟨h1, h2⟩, h3⟩, h4⟩ := hc
  unfold runChecked
  rw [hq]
  dsimp only
  rw [h1]
  dsimp only
  simp only [h2, h3, h4, ho, Bool.not_not, Bool.false_eq_true, if_false]
  change (match eff (passCtx s q i kind) (readState i s q) with
    | .ok t => _ | .moved t => _ | .held t => _ | .wait t => _ | .part t m => _ | .fault t f => _
    | .pageFault t f => _ | .double t => _) = _
  cases eff (passCtx s q i kind) (readState i s q) <;> rfl

theorem runPass_clears (i : Instr) (kind : PassKind) (eff : Ctx → State → PassResult) (s : State) (q : Issue)
    (hq : s.cur = some q) (hc : clears i kind s q = true) :
    runPass i kind eff s =
      .next (endOf (passCtx s q i kind) i (kind == .once) (eff (passCtx s q i kind) (readState i s q))) :=
  runChecked_clears i kind _ eff s q hq hc rfl

/-- What gives an instruction its completion statement. -/
theorem takesIf_of {i : Instr} {kind : PassKind} {pre : Ctx → State → Prop} {g : Ctx → State → State}
    {eff : Ctx → State → PassResult} (hx : ∀ s, exec i s = runPass i kind eff s)
    (he : ∀ c s, pre c s → eff c s = .ok (g c s)) : TakesIf i kind pre g := by
  intro s q hq hc hp
  rw [hx, runPass_clears i kind eff s q hq hc, he _ _ hp]
  rfl

/-- The same of an instruction with a check of its own. -/
theorem takesOwn_of {i : Instr} {kind : PassKind} {own : Ctx → State → PreCheck} {pre : Ctx → State → Prop}
    {g : Ctx → State → State} {eff : Ctx → State → PassResult} (hx : ∀ s, exec i s = runChecked i kind own eff s)
    (he : ∀ c s, pre c s → eff c s = .ok (g c s)) : TakesOwn i kind own pre g := by
  intro s q hq hc ho hp
  rw [hx, runChecked_clears i kind own eff s q hq hc ho, he _ _ hp]
  rfl

/-- The first without a further condition. -/
theorem takes_of {i : Instr} {kind : PassKind} {g : Ctx → State → State} {eff : Ctx → State → PassResult}
    (hx : ∀ s, exec i s = runPass i kind eff s) (he : ∀ c s, eff c s = .ok (g c s)) : Takes i kind g :=
  takesIf_of hx (fun c s _ => he c s)

end Sys2Proof.Machine
end

