-- ==== Sys2Proof/Laws/Runs.lean ====
section
/-!
SUPPORT. Laws/Runs.lean: every instruction of machine code is one pass of runChecked, with a kind, a check of its own
and an effect; and what follows for all of them at once.
-/

namespace Sys2Proof.Machine

open Sys2Proof

/-- An instruction is one pass: of a kind, with a check of its own and an effect. -/
def Runs (i : Instr) : Prop := ∃ kind own eff, ∀ s, exec i s = runChecked i kind own eff s

theorem runs_of {i : Instr} {kind : PassKind} {eff : Ctx → State → PassResult}
    (hx : ∀ s, exec i s = runPass i kind eff s) : Runs i := ⟨kind, _, eff, hx⟩

theorem runs_of_checked {i : Instr} {kind : PassKind} {own : Ctx → State → PreCheck} {eff : Ctx → State → PassResult}
    (hx : ∀ s, exec i s = runChecked i kind own eff s) : Runs i := ⟨kind, own, eff, hx⟩

/-- Every instruction of machine code is one pass. -/
theorem exec_runs (i : Instr) (hop : i.opNum < 256) : Runs i := by
  cases i with
  | nop h bits => exact runs_of (fun s => (rfl : execNop h bits s = _))
  | pad h f => exact runs_of (fun s => (rfl : execPad h f s = _))
  | bra h f => exact runs_of (fun s => (rfl : execBra h f s = _))
  | brx h f => exact runs_of (fun s => (rfl : execBrx h f s = _))
  | call h f => exact runs_of (fun s => (rfl : execCall h f s = _))
  | callx h f => exact runs_of (fun s => (rfl : execCallx h f s = _))
  | ret h f => exact runs_of (fun s => (rfl : execRet h f s = _))
  | exit h f => exact runs_of (fun s => (rfl : execExit h f s = _))
  | join h f => exact runs_of (fun s => (rfl : execJoin h f s = _))
  | yield h f => exact runs_of (fun s => (rfl : execYield h f s = _))
  | plane h f => exact runs_of (fun s => (rfl : execPlane h f s = _))
  | regroup h f => exact runs_of (fun s => (rfl : execRegroup h f s = _))
  | ipref h f => exact runs_of (fun s => (rfl : execIpref h f s = _))
  | wset h f => exact runs_of (fun s => (rfl : execWset h f s = _))
  | rep h f => exact runs_of (fun s => (rfl : execRep h f s = _))
  | trap h f => exact runs_of (fun s => (rfl : execTrap h f s = _))
  | eret h f => exact runs_of (fun s => (rfl : execEret h f s = _))
  | brk h f => exact runs_of (fun s => (rfl : execBrk h f s = _))
  | sysc h f => exact runs_of (fun s => (rfl : execSysc h f s = _))
  | ksave h f => exact runs_of (fun s => (rfl : execKsave h f s = _))
  | kload h f => exact runs_of (fun s => (rfl : execKload h f s = _))
  | smov h f => exact runs_of (fun s => (rfl : execSmov h f s = _))
  | smovi h f => exact runs_of (fun s => (rfl : execSmovi h f s = _))
  | sadd h f => exact runs_of (fun s => (rfl : execSadd h f s = _))
  | ssub h f => exact runs_of (fun s => (rfl : execSsub h f s = _))
  | smul h f => exact runs_of (fun s => (rfl : execSmul h f s = _))
  | smulh h f => exact runs_of (fun s => (rfl : execSmulh h f s = _))
  | sand h f => exact runs_of (fun s => (rfl : execSand h f s = _))
  | sor h f => exact runs_of (fun s => (rfl : execSor h f s = _))
  | sxor h f => exact runs_of (fun s => (rfl : execSxor h f s = _))
  | sshl h f => exact runs_of (fun s => (rfl : execSshl h f s = _))
  | sshr h f => exact runs_of (fun s => (rfl : execSshr h f s = _))
  | ssar h f => exact runs_of (fun s => (rfl : execSsar h f s = _))
  | smin h f => exact runs_of (fun s => (rfl : execSmin h f s = _))
  | smax h f => exact runs_of (fun s => (rfl : execSmax h f s = _))
  | scmp h f => exact runs_of (fun s => (rfl : execScmp h f s = _))
  | ssel h f => exact runs_of (fun s => (rfl : execSsel h f s = _))
  | spopc h f => exact runs_of (fun s => (rfl : execSpopc h f s = _))
  | sclz h f => exact runs_of (fun s => (rfl : execSclz h f s = _))
  | alea h f => exact runs_of (fun s => (rfl : execAlea h f s = _))
  | amov h f => exact runs_of (fun s => (rfl : execAmov h f s = _))
  | amovi h f => exact runs_of (fun s => (rfl : execAmovi h f s = _))
  | ahi h f => exact runs_of (fun s => (rfl : execAhi h f s = _))
  | sld h f => exact runs_of (fun s => (rfl : execSld h f s = _))
  | sst h f => exact runs_of (fun s => (rfl : execSst h f s = _))
  | satom h f => exact runs_of (fun s => (rfl : execSatom h f s = _))
  | srd h f => exact runs_of (fun s => (rfl : execSrd h f s = _))
  | swr h f => exact runs_of (fun s => (rfl : execSwr h f s = _))
  | pmov h f => exact runs_of (fun s => (rfl : execPmov h f s = _))
  | plog h f => exact runs_of (fun s => (rfl : execPlog h f s = _))
  | vmov h f => exact runs_of (fun s => (rfl : execVmov h f s = _))
  | vmovi h f => exact runs_of (fun s => (rfl : execVmovi h f s = _))
  | vtag h f => exact runs_of (fun s => (rfl : execVtag h f s = _))
  | vadd h f => exact runs_of (fun s => (rfl : execVadd h f s = _))
  | vsub h f => exact runs_of (fun s => (rfl : execVsub h f s = _))
  | vmul h f => exact runs_of (fun s => (rfl : execVmul h f s = _))
  | vmulh h f => exact runs_of (fun s => (rfl : execVmulh h f s = _))
  | vmad h f => exact runs_of (fun s => (rfl : execVmad h f s = _))
  | vabsd h f => exact runs_of (fun s => (rfl : execVabsd h f s = _))
  | vmin h f => exact runs_of (fun s => (rfl : execVmin h f s = _))
  | vmax h f => exact runs_of (fun s => (rfl : execVmax h f s = _))
  | vand h f => exact runs_of (fun s => (rfl : execVand h f s = _))
  | vor h f => exact runs_of (fun s => (rfl : execVor h f s = _))
  | vxor h f => exact runs_of (fun s => (rfl : execVxor h f s = _))
  | vbool h f => exact runs_of (fun s => (rfl : execVbool h f s = _))
  | vshl h f => exact runs_of (fun s => (rfl : execVshl h f s = _))
  | vshr h f => exact runs_of (fun s => (rfl : execVshr h f s = _))
  | vsar h f => exact runs_of (fun s => (rfl : execVsar h f s = _))
  | vpopc h f => exact runs_of (fun s => (rfl : execVpopc h f s = _))
  | vclz h f => exact runs_of (fun s => (rfl : execVclz h f s = _))
  | vbrev h f => exact runs_of (fun s => (rfl : execVbrev h f s = _))
  | vbfx h f => exact runs_of (fun s => (rfl : execVbfx h f s = _))
  | vbfi h f => exact runs_of (fun s => (rfl : execVbfi h f s = _))
  | vcmpReg h f => exact runs_of (fun s => (rfl : execVcmpReg h f s = _))
  | vcmpImm h f => exact runs_of (fun s => (rfl : execVcmpImm h f s = _))
  | vsel h f => exact runs_of (fun s => (rfl : execVsel h f s = _))
  | vlane h f => exact runs_of (fun s => (rfl : execVlane h f s = _))
  | vperm h f => exact runs_of (fun s => (rfl : execVperm h f s = _))
  | qxch h f => exact runs_of (fun s => (rfl : execQxch h f s = _))
  | vred h f => exact runs_of (fun s => (rfl : execVred h f s = _))
  | vscan h f => exact runs_of (fun s => (rfl : execVscan h f s = _))
  | vvote h f => exact runs_of (fun s => (rfl : execVvote h f s = _))
  | fadd h f => exact runs_of (fun s => (rfl : execFadd h f s = _))
  | fsub h f => exact runs_of (fun s => (rfl : execFsub h f s = _))
  | fmul h f => exact runs_of (fun s => (rfl : execFmul h f s = _))
  | ffma h f => exact runs_of (fun s => (rfl : execFfma h f s = _))
  | fmin h f => exact runs_of (fun s => (rfl : execFmin h f s = _))
  | fmax h f => exact runs_of (fun s => (rfl : execFmax h f s = _))
  | fcmp h f => exact runs_of (fun s => (rfl : execFcmp h f s = _))
  | fclass h f => exact runs_of (fun s => (rfl : execFclass h f s = _))
  | frcp h f => exact runs_of (fun s => (rfl : execFrcp h f s = _))
  | frsq h f => exact runs_of (fun s => (rfl : execFrsq h f s = _))
  | fsqrt h f => exact runs_of (fun s => (rfl : execFsqrt h f s = _))
  | fexp2 h f => exact runs_of (fun s => (rfl : execFexp2 h f s = _))
  | flog2 h f => exact runs_of (fun s => (rfl : execFlog2 h f s = _))
  | fsin h f => exact runs_of (fun s => (rfl : execFsin h f s = _))
  | fcos h f => exact runs_of (fun s => (rfl : execFcos h f s = _))
  | frnd h f => exact runs_of (fun s => (rfl : execFrnd h f s = _))
  | fdot2 h f => exact runs_of (fun s => (rfl : execFdot2 h f s = _))
  | vcvt h f => exact runs_of (fun s => (rfl : execVcvt h f s = _))
  | vpack h f => exact runs_of (fun s => (rfl : execVpack h f s = _))
  | vunpk h f => exact runs_of (fun s => (rfl : execVunpk h f s = _))
  | xdec h f => exact runs_of (fun s => (rfl : execXdec h f s = _))
  | xscan h f => exact runs_of (fun s => (rfl : execXscan h f s = _))
  | xsort h f => exact runs_of (fun s => (rfl : execXsort h f s = _))
  | xtopk h f => exact runs_of (fun s => (rfl : execXtopk h f s = _))
  | xplane h f => exact runs_of (fun s => (rfl : execXplane h f s = _))
  | vld h f => exact runs_of (fun s => (rfl : execVld h f s = _))
  | vst h f => exact runs_of (fun s => (rfl : execVst h f s = _))
  | vldf h f => exact runs_of (fun s => (rfl : execVldf h f s = _))
  | vstf h f => exact runs_of (fun s => (rfl : execVstf h f s = _))
  | vatom h f => exact runs_of (fun s => (rfl : execVatom h f s = _))
  | vldsh h f => exact runs_of (fun s => (rfl : execVldsh h f s = _))
  | vstsh h f => exact runs_of (fun s => (rfl : execVstsh h f s = _))
  | vatomsh h f => exact runs_of (fun s => (rfl : execVatomsh h f s = _))
  | ldacc h f => exact runs_of (fun s => (rfl : execLdacc h f s = _))
  | stacc h f => exact runs_of (fun s => (rfl : execStacc h f s = _))
  | vpref h f => exact runs_of (fun s => (rfl : execVpref h f s = _))
  | clred h f => exact runs_of (fun s => (rfl : execClred h f s = _))
  | clput h f => exact runs_of (fun s => (rfl : execClput h f s = _))
  | clget h f => exact runs_of (fun s => (rfl : execClget h f s = _))
  | mma h f => exact runs_of (fun s => (rfl : execMma h f s = _))
  | mmap h f => exact runs_of (fun s => (rfl : execMmap h f s = _))
  | mlda h f => exact runs_of (fun s => (rfl : execMlda h f s = _))
  | mzero h f => exact runs_of (fun s => (rfl : execMzero h f s = _))
  | mgang h f => exact runs_of (fun s => (rfl : execMgang h f s = _))
  | mbatch h f => exact runs_of (fun s => (rfl : execMbatch h f s = _))
  | mwait h f => exact runs_of (fun s => (rfl : execMwait h f s = _))
  | mcolm h f => exact runs_of (fun s => (rfl : execMcolm h f s = _))
  | tcopy h f => exact runs_of (fun s => (rfl : execTcopy h f s = _))
  | tstore h f => exact runs_of (fun s => (rfl : execTstore h f s = _))
  | tgather h f => exact runs_of (fun s => (rfl : execTgather h f s = _))
  | tmcast h f => exact runs_of (fun s => (rfl : execTmcast h f s = _))
  | tpref h f => exact runs_of (fun s => (rfl : execTpref h f s = _))
  | repart h f => exact runs_of (fun s => (rfl : execRepart h f s = _))
  | veer h f => exact runs_of (fun s => (rfl : execVeer h f s = _))
  | fence h f => exact runs_of_checked (fun s => (rfl : execFence h f s = _))
  | talloc h f => exact runs_of (fun s => (rfl : execTalloc h f s = _))
  | tfree h f => exact runs_of (fun s => (rfl : execTfree h f s = _))
  | trel h f => exact runs_of (fun s => (rfl : execTrel h f s = _))
  | tstat h f => exact runs_of (fun s => (rfl : execTstat h f s = _))
  | hqpush h f => exact runs_of_checked (fun s => (rfl : execHqpush h f s = _))
  | hqpop h f => exact runs_of_checked (fun s => (rfl : execHqpop h f s = _))
  | hqtry h f => exact runs_of_checked (fun s => (rfl : execHqtry h f s = _))
  | csend h f => exact runs_of_checked (fun s => (rfl : execCsend h f s = _))
  | crecv h f => exact runs_of_checked (fun s => (rfl : execCrecv h f s = _))
  | cpoll h f => exact runs_of_checked (fun s => (rfl : execCpoll h f s = _))
  | binit h f => exact runs_of (fun s => (rfl : execBinit h f s = _))
  | barv h f => exact runs_of_checked (fun s => (rfl : execBarv h f s = _))
  | bwait h f => exact runs_of_checked (fun s => (rfl : execBwait h f s = _))
  | bsync h f => exact runs_of_checked (fun s => (rfl : execBsync h f s = _))
  | bexp h f => exact runs_of (fun s => (rfl : execBexp h f s = _))
  | undefinedMajorOpcode word => exact runs_of (fun s => (rfl : execUndefinedMajorOpcode word s = _))
  | _ => exact absurd hop (Nat.lt_irrefl 256)

/-- What holds of the word of a slot with the slot that it prefixes. -/
theorem slotAll_some (f : Instr → Bool) (line : BitVec 512) (slot : Nat) (i : Instr) :
    slotAll f line slot (some i) = (f i && (!isRep i || f (instrAt line (slot + 1)))) := by
  cases i <;> first | exact (Bool.and_true _).symm | rfl

/-- With an issue in progress an instruction of machine code always answers a next state. -/
theorem exec_next (i : Instr) (hop : i.opNum < 256) (s : State) (q : Issue) (hq : s.cur = some q) :
    ∃ t, exec i s = .next t := by
  obtain ⟨kind, own, eff, hx⟩ := exec_runs i hop
  rw [hx]
  exact runChecked_next i kind own eff s q hq

/-- The checks at decode come before anything that an instruction does: one that fails traps, whatever the kind of the
pass (R42). -/
theorem exec_issueFault (i : Instr) (hop : i.opNum < 256) (s : State) (q : Issue) (hq : s.cur = some q)
    (hc : q.checked = false) (cause : BitVec 8) (hd : cause ≠ causeDivergent)
    (hi : issueFault (s.warp q.warp) (s.warpLaunch q.warp).info.planeCount q (q.todo.headD 0) i = some cause) :
    exec i s = .next (trapAt (passCtx s q i .vec) false (plainFault cause) s) := by
  obtain ⟨kind, own, eff, hx⟩ := exec_runs i hop
  have hp : (passCtx s q i kind).p = q.todo.headD 0 := rfl
  have hb : (cause == causeDivergent) = false := by simpa using hd
  rw [hx]
  unfold runChecked
  rw [hq]
  dsimp only
  rw [hc, hp]
  simp only [Bool.false_eq_true, if_false, hi, hb]
  rfl

/-- A pass taken up again checks the parity of its lines alone, and traps where one fails (R41). -/
theorem exec_lineFault (i : Instr) (hop : i.opNum < 256) (s : State) (q : Issue) (hq : s.cur = some q)
    (hc : q.checked = true) (hi : lineFault q = some causeLineParity) :
    exec i s = .next (trapAt (passCtx s q i .vec) false (plainFault causeLineParity) s) := by
  obtain ⟨kind, own, eff, hx⟩ := exec_runs i hop
  have hb : (causeLineParity == causeDivergent) = false := by decide
  rw [hx]
  unfold runChecked
  rw [hq]
  dsimp only
  rw [hc]
  simp only [if_true, hi, hb]
  rfl

end Sys2Proof.Machine
end

