-- ==== Sys2Proof/Machine/Image.lean ====
section
/-!
DEFINITION. Machine/Image.lean: the bytes of a team's context image (R223 to R226, R234, R266, R415, R424,
R465). Firmware keeps them where no program can map (R227); the State holds the same content as data.
-/

namespace Sys2Proof.Machine

open Sys2Proof

/-- Bytes filled up with zeros to n. -/
def padTo (n : Nat) (bs : List Byte) : List Byte := bs ++ List.replicate (n - bs.length) 0#8

/-- Bytes filled up to the next 256-byte boundary. -/
def padSection (bs : List Byte) : List Byte := padTo ((bs.length + 255) / 256 * 256) bs

/-- n values, each in so many bytes. -/
def rowOf (n bytes : Nat) (f : Nat → Nat) : List Byte := (List.range n).flatMap (fun i => leBytes bytes (f i))

/-- A number with the bits that f gives. -/
def bitsOf (n : Nat) (f : Nat → Bool) : Nat := bitsNat f n

/-- A register record (R225). -/
def vregBytes (r : VReg) : List Byte :=
  rowOf 96 4 (fun l => (wordAt r.words l).toNat) ++ leBytes 12 r.poisonNow.toNat ++ leBytes 4 r.tagNow.toNat

/-- A split-table entry, with the token slot of its index (R234). -/
def splitBytes (x : Split) : List Byte :=
  let flag (b : Bool) (n : Nat) : Nat := if b then n else 0
  let stack := (List.range 4).foldl (fun n d => match tget x.stack (d + 1) with
    | some t => n + (8 + t) * 16 ^ d
    | none => n) 0
  let wph := match x.wph with | some p => 2 ^ 16 + p.toNat | none => 0
  padTo 64 (leBytes 4 x.offset.toNat ++
    leBytes 1 (flag x.valid 1 + flag x.atJoin 2 + flag x.rgWait 4 + flag x.inRep 8) ++
    leBytes 1 (if x.inRep then x.repJ else 0) ++ leBytes 2 stack ++ leBytes 12 x.members.toNat ++
    leBytes 12 x.active.toNat ++ leBytes 4 x.tpoint.toNat ++
    padTo 4 (leBytes 1 (flag x.tused 1 + 2 * x.tdepth)) ++ leBytes 12 x.tlanes.toNat ++ leBytes 4 wph)

/-- The program counter of a lane (R226); a lane that is not live, which the table does not mention, has zeros (DESIGN CHOICE; log 43). -/
def lanePcBytes (w : Warp) (l : Nat) : List Byte :=
  if !w.live.getLsbD l then List.replicate 8 0#8
  else
    let out := w.unseated.getLsbD l
    let o := if out then w.unseatedOffset l
      else match w.validEntries.find? (fun e => (w.split e).members.getLsbD l) with
        | some e => (w.split e).offset
        | none => 0#32
    let flags := (if out then 0 else 1) + (if out && !w.uactive.getLsbD l then 2 else 0)
    leBytes 4 o.toNat ++ leBytes 1 (w.planeOf l) ++ leBytes 3 flags

/-- A working set of at most five ranges. -/
def wsBytes (ws : List WsRange) : List Byte :=
  padTo 20 (ws.flatMap (fun r => leBytes 4 (r.base + 2 ^ 10 * (r.len - 1))))

/-- Latch entries, and their lives (R99, R226). -/
def latchBytes (t : Tbl Latch) : List Byte :=
  (List.range 3).flatMap (fun e => match tget t e with
    | some x => vregBytes x.reg
    | none => List.replicate 400 0#8)

def lifeBytes (t : Tbl Latch) : List Byte :=
  padTo 4 ((List.range 3).flatMap (fun e => match tget t e with
    | some x => leBytes 1 (128 + x.life % 4)
    | none => [0#8]))

/-- The number of the batch whose status stands in a slot of 64: the newest one with that remainder. -/
def newestBatch (w : Warp) (i : Nat) : BitVec 16 :=
  let last := w.batchNext - 1#16
  last - BitVec.ofNat 16 ((last.toNat + 64 - i) % 64)

/-- The status of a batch (R226, R480). -/
def batchBytes (w : Warp) (i : Nat) : List Byte :=
  match tget w.batches (newestBatch w i).toNat with
  | some b => leBytes 2 ((if b.returned then 2 ^ 15 else 0) + (if b.sat then 2 ^ 8 else 0) + b.flags.toNat)
  | none => [0#8, 0#8]

/-- The mode bits of R226: trap mode, parked and parked by a BREAKPOINT. A warp that waits for the reply of a SYSC
or stands at a BREAKPOINT counts as parked too, which the table does not say (DESIGN CHOICE; log 43). -/
def modeBits (w : Warp) : Nat :=
  (if w.trapMode then 1 else 0) + (if w.park == .no then 0 else 2) + (if w.park == .breakpoint then 4 else 0)

/-- A scalar register as an image holds it: s0 to s2 are the ACTIVE bits of the lowest valid entry (R226, R236). -/
def scalarWord (w : Warp) (n : Nat) : Nat :=
  if n < 3 then
    match w.validEntries.head? with
    | some e => (fieldOf (w.split e).active (32 * n) 32).toNat
    | none => 0
  else (w.sreg n).val.toNat

/-- TRAPCAUSE, TRAPPC, TRAPVA and TRAPLANES as an image holds them: those of a parked warp are its recorded fault (R221,
R226). -/
def trapFields (w : Warp) : Nat × Nat × Nat × Nat :=
  match w.park with
  | .pageFault f => (f.cause.toNat, f.pc.toNat, f.va.toNat, f.lanes.toNat)
  | _ => (w.trapCause.toNat, w.trapPc.toNat, w.trapVa.toNat, w.trapLanes.toNat)

/-- A warp record (R226). -/
def warpBytes (w : Warp) : List Byte :=
  let trap := trapFields w
  rowOf 256 4 (scalarWord w) ++
  leBytes 32 (bitsOf 256 (fun n => (w.sreg n).poison)) ++
  leBytes 8 (bitsOf 64 (fun n => (w.areg (704 + n)).poison)) ++
  leBytes 8 (bitsOf 45 (fun n => (w.preg (n / 3)).poison.getLsbD (n % 3))) ++
  padTo 8 (padTo 6 (w.gang.map (fun i => BitVec.ofNat 8 i)) ++ leBytes 1 w.gang.length) ++
  leBytes 4 (2 ^ 16 * w.batchDone.toNat + w.batchNext.toNat) ++ leBytes 4 w.fxa.toNat ++
  rowOf 64 16 (fun n => (w.areg (704 + n)).val.toNat) ++
  padTo 256 (rowOf 15 16 (fun n => (w.preg n).bits.toNat)) ++
  rowOf 4 32 (fun n => ((tget w.mcols n).getD 0#256).toNat) ++
  padTo 64 (leBytes 4 w.evsel.toNat ++ rowOf 4 4 (fun k => ((tget w.evcnt k).getD 0#32).toNat) ++
    rowOf 8 4 (fun k => ((tget w.kregs k).getD 0#32).toNat)) ++
  padTo 64 (leBytes 8 trap.1 ++ leBytes 8 trap.2.1 ++ leBytes 16 trap.2.2.1 ++ leBytes 16 trap.2.2.2 ++ leBytes 1 (modeBits w)) ++
  padTo 64 (wsBytes w.ws ++ wsBytes w.savedWs) ++
  (List.range 8).flatMap (fun e => splitBytes (w.split e)) ++
  (List.range 96).flatMap (lanePcBytes w) ++
  latchBytes w.hl ++ padTo 16 (lifeBytes w.hl) ++
  latchBytes w.savedHl ++ padTo 16 (lifeBytes w.savedHl) ++
  (List.range 4).flatMap (fun i => vregBytes ((tget w.kvregs i).getD VReg.zero)) ++
  padTo 64 (match w.trapSplit with
    | some t => leBytes 4 t.offset.toNat ++ leBytes 12 t.mask.toNat
    | none => []) ++
  (List.range 64).flatMap (batchBytes w) ++
  (List.range w.budget).flatMap (fun n => vregBytes (w.vreg n))

/-- A tile-table entry (R266). -/
def tileBytes (x : Tile) : List Byte :=
  let st := match x.state with | .empty => 0 | .filling => 1 | .ready => 2 | .draining => 3
  leBytes 32 (st + 2 ^ 2 * x.fmt.toNat + 2 ^ 6 * x.gen.toNat + (if x.sealed then 2 ^ 16 else 0) + 2 ^ 24 * x.readers +
    2 ^ 32 * x.base + 2 ^ 51 * x.pitch + 2 ^ 64 * x.dim0 + 2 ^ 80 * x.dim1 + 2 ^ 96 * x.bytes + 2 ^ 128 * x.filled +
    2 ^ 160 * x.owner)

/-- Handle queue q of a team (R415). -/
def queueBytes (t : Team) (q : Nat) : List Byte :=
  match tget t.hqs q with
  | some x => leBytes 8 (x.head + 2 ^ 8 * x.count + 2 ^ 16 * (x.size - 1) + (if x.decl then 2 ^ 21 else 0) + 2 ^ 32 * (x.ring / 128))
  | none => List.replicate 8 0#8

/-- A channel endpoint (R424). -/
def endpointBytes (e : Option Endpoint) : List Byte :=
  match e with
  | none => List.replicate 16 0#8
  | some x =>
    leBytes 16 ((if x.decl then 1 else 0) + (if x.closed then 2 else 0) + (if x.held then 4 else 0) + 2 ^ 37 * x.idx +
      2 ^ 43 * x.cnt + 2 ^ 50 * (x.size / 64 - 1) + 2 ^ 54 * (x.slots - 1) + 2 ^ 60 * x.peerEp + 2 ^ 64 * x.peer +
      2 ^ 80 * (x.base / 64))

/-- A barrier record (R465). -/
def barrierBytes (b : Barrier) : List Byte :=
  let lv := match b.level with | .team => 0 | .span => 1 | .grid => 2
  leBytes 16 (b.arr + 2 ^ 6 * b.initw + (if b.up then 2 ^ 13 else 0) + 2 ^ 14 * lv + 2 ^ 16 * b.ph.toNat + 2 ^ 32 * b.bytes +
    2 ^ 64 * b.initb + 2 ^ 96 * b.expb)

/-- The sections of an image behind its header: each starts on a 256-byte boundary (R223). -/
def imageSections (l : Launch) (t : Team) (im : Image) : List (List Byte) :=
  [ im.warps.flatMap (fun w => padSection (warpBytes w.2)),
    mgets im.shared 0 l.info.sarea,
    rowOf l.info.accum 4 (fun n => (sget im.accum n).toNat),
    im.tiles.flatMap tileBytes,
    (List.range 16).flatMap (queueBytes t),
    (List.range 16).flatMap (fun e => endpointBytes (tget t.sends e)) ++
      (List.range 16).flatMap (fun e => endpointBytes (tget t.recvs e)),
    im.barriers.flatMap barrierBytes ].map padSection

/-- Where each section of a list starts, from an offset. -/
def sectionOffsets : Nat → List (List Byte) → List Nat
  | _, [] => []
  | o, x :: xs => o :: sectionOffsets (o + x.length) xs

/-- The context image of a pre-empted team (R223, R224). -/
def imageBytes (l : Launch) (t : Team) (im : Image) : List Byte :=
  let ss := imageSections l t im
  let header := leBytes 2 1 ++ leBytes 2 im.warps.length ++ leBytes 4 t.number ++ padTo 12 (leBytes 10 l.recAddr.toNat) ++
    leBytes 4 (256 + ss.flatten.length) ++ ((sectionOffsets 256 ss).drop 1).flatMap (leBytes 4)
  padTo 256 header ++ ss.flatten

end Sys2Proof.Machine
end

