-- ==== Sys2Proof/Tests/Slice0.lean ====
section
/-!
SUPPORT. Tests/Slice0.lean: the author's tests: ill-formed terms that the checks refuse, words written out from
the encoding tables, a few results that the spec works out, and, for every statement with hypotheses, states and
operands that meet them.
-/

set_option maxRecDepth 100000
set_option exponentiation.threshold 2000

namespace Sys2Proof.Tests

open Sys2Proof Sys2Proof.Machine Sys2Proof.Claims

/-! ## Small states and words -/

/-- A header without a predicate or a latch. -/
def plain (fmt : BitVec 4) : Hdr :=
  { pred := 15#4, pneg := 0#1, feb := 0#3, holdSrc := 0#2, holdEnt := 0#2, fmt := fmt }

/-- The same under p0, which is clear in every lane. -/
def never (fmt : BitVec 4) : Hdr := { plain fmt with pred := 0#4 }

/-- Fields of format V with neutral modifiers (R52). -/
def fv (d a b c : RCode) (fn : BitVec 8 := 0#8) : FV :=
  { d := d, a := a, b := b, c := c, fn := fn, na := 0#1, aa := 0#1, nb := 0#1, ab := 0#1, nc := 0#1,
    ac := 0#1, clamp := 0#2, scale := 0#4, reuse := 0#1, rnd := 4#3, low := 0#8 }

/-- Fields of format I with neutral modifiers. -/
def fi (d a : RCode) (fn : BitVec 8) (imm : Word) : FI :=
  { d := d, a := a, fn := fn, na := 0#1, aa := 0#1, clamp := 0#2, scale := 0#4, rnd := 4#3, low := 0#1, imm := imm }

/-- Fields of format M. -/
def fm (d a x : RCode) (width : BitVec 3) (cache : BitVec 2 := 0#2) (offset : BitVec 24 := 0#24) : FM :=
  { d := d, a := a, x := x, fn := 0#4, width := width, ish := 0#3, ord := 0#3, scope := 0#3, cache := cache,
    offset := offset }

/-- Fields of format X. -/
def fx (e0 e1 e2 e3 : RCode) (ctl : Word) : FX := { e0 := e0, e1 := e1, e2 := e2, e3 := e3, ctl := ctl }

/-- Fields of format C without a reconvergence point. -/
def fc (tline : Word) (tslot : BitVec 3) (tag : BitVec 7 := 0#7) : FC :=
  { tline := tline, tslot := tslot, rline := 0#27, rslot := 7#3, tag := tag }

/-- Fields of format CX without a reconvergence point. -/
def fcx (a : RCode) (tag : BitVec 7) : FCX := { a := a, tag := tag, rline := 0#27, rslot := 7#3, low := 0#25 }

/-- The warp of loadWord with v0 to v15 in its working set, tagged. -/
def withV (tag : BitVec 4) (w : Warp) : Warp :=
  { w with
    ws := [{ base := 0, len := 16 }]
    vregs := (List.range 16).map (fun n => (n, { VReg.zero with tag := tag, tpar := parityOf tag })) }

/-- A warp with one scalar set. -/
def withS (n : Nat) (v : Word) (w : Warp) : Warp :=
  { w with sregs := tput w.sregs n { val := v, empty := false, poison := false } }

/-- The state in which the warp of loadWord is about to pass instruction i, its machine changed by g before the
issue begins. -/
def setUp (g : State → State) (i : Instr) : State :=
  match encode i with
  | some w => beginIssue 0 0 (g (loadWord State.reset w))
  | none => State.reset

/-- The same, with the warp alone changed. -/
def before (g : Warp → Warp) (i : Instr) : State := setUp (fun s => s.modWarp 0 g) i

/-- Instruction i of the issue of a state, decoded from its line, clears its checks, and a condition holds of
what it reads. -/
def Meets (kind : PassKind) (pre : Ctx → State → Prop) (i : Instr) (s : State) : Prop :=
  ∃ q, s.cur = some q ∧ passInstr q = i ∧ clears i kind s q = true ∧ pre (passCtx s q i kind) (readState i s q)

/-- The issue of a state, for states that have one. -/
def issueOf (s : State) : Issue := s.cur.getD (newIssue s 0 0)

theorem cur_of_isSome {s : State} (h : s.cur.isSome = true) : s.cur = some (issueOf s) := by
  unfold issueOf
  cases hc : s.cur with
  | none => simp [hc] at h
  | some q => rfl

theorem Meets.intro {kind : PassKind} {pre : Ctx → State → Prop} {i : Instr} {s : State}
    (h : (s.cur.isSome && passInstr (issueOf s) == i && clears i kind s (issueOf s)) = true)
    (hp : pre (passCtx s (issueOf s) i kind) (readState i s (issueOf s))) : Meets kind pre i s := by
  simp only [Bool.and_eq_true, beq_iff_eq] at h
  exact ⟨_, cur_of_isSome h.1.1, h.1.2, h.2, hp⟩

/-- Every instruction of a list clears its checks in a warp. -/
def allClear (kind : PassKind) (g : Warp → Warp) (is : List Instr) : Bool :=
  is.all (fun i => let s := before g i
    s.cur.isSome && passInstr (issueOf s) == i && clears i kind s (issueOf s))

/-- What a list that clears gives: each of its instructions meets the hypotheses of its statement. -/
theorem meets_of_allClear {kind : PassKind} {g : Warp → Warp} {is : List Instr} (h : allClear kind g is = true)
    (i : Instr) (hi : i ∈ is) : Meets kind (fun _ _ => True) i (before g i) :=
  Meets.intro (by simpa [allClear] using (List.all_eq_true.mp h) i hi) trivial


/-- Meets for an instruction with a check of its own before its waits, which passes. -/
def MeetsOwn (kind : PassKind) (own : Ctx → State → PreCheck) (pre : Ctx → State → Prop) (i : Instr) (s : State) : Prop :=
  ∃ q, s.cur = some q ∧ passInstr q = i ∧ clears i kind s q = true ∧ own (passCtx s q i kind) s = .pass ∧
    pre (passCtx s q i kind) (readState i s q)

/-- Whether an instruction's own check passes. -/
def ownPasses (kind : PassKind) (own : Ctx → State → PreCheck) (i : Instr) (s : State) : Bool :=
  match own (passCtx s (issueOf s) i kind) s with
  | .pass => true
  | _ => false

theorem MeetsOwn.intro {kind : PassKind} {own : Ctx → State → PreCheck} {pre : Ctx → State → Prop} {i : Instr} {s : State}
    (h : (s.cur.isSome && passInstr (issueOf s) == i && clears i kind s (issueOf s) && ownPasses kind own i s) = true)
    (hp : pre (passCtx s (issueOf s) i kind) (readState i s (issueOf s))) : MeetsOwn kind own pre i s := by
  simp only [Bool.and_eq_true, beq_iff_eq] at h
  refine ⟨_, cur_of_isSome h.1.1.1, h.1.1.2, h.1.2, ?_, hp⟩
  have := h.2
  unfold ownPasses at this
  revert this
  cases own (passCtx s (issueOf s) i kind) s <;> simp

/-- An instruction in a pass that only ends: no lane takes part, or an earlier pass has had its effect. -/
def idlesNow (kind : PassKind) (i : Instr) (s : State) : Bool :=
  let q := issueOf s
  let c := passCtx s q i kind
  s.cur.isSome && passInstr q == i &&
    (if q.checked then lineFault q
      else issueFault (s.warp q.warp) (s.warpLaunch q.warp).info.planeCount q c.p i).isNone &&
    (noLanes c.live || (kind == .first && q.acted (s.warp q.warp) i.opNum))
/-! ## Ill-formed terms -/

/-- R42, R48 to R53: a reserved FMT, a register past the budget, a reserved FN, a latch bit on a format that has
none, each refused. -/
theorem wf_refuses_fmt : (Instr.vadd (plain 15#4) (fv 1#10 2#10 3#10 643#10)).hdrOk = false := by decide
theorem wf_refuses_register : (Instr.vadd (plain 0#4) (fv 8#10 2#10 3#10 643#10)).fieldsOk 8 = false := by decide
theorem wf_refuses_kind : (Instr.vadd (plain 0#4) (fv 770#10 2#10 3#10 643#10)).fieldsOk 640 = false := by decide
theorem wf_refuses_form : (Instr.vcmpReg (plain 0#4) (fv 1#10 2#10 3#10 643#10 6#8)).formOk 640 1 = false := by decide
theorem wf_refuses_rounding :
    (Instr.vadd (plain 0#4) { fv 1#10 2#10 3#10 643#10 with rnd := 6#3 }).wf 640 1 = false := by decide
theorem wf_accepts : (Instr.vadd (plain 0#4) (fv 1#10 2#10 3#10 643#10)).wf 640 1 = true := by decide

/-- R36, R71: eleven bytes are no instruction; an undefined major opcode is read by its own name. -/
theorem decode_refuses_short : decodeBytes (List.replicate 11 0#8) = .error .truncated := by decide
theorem decode_names_undefined :
    decode 0x15F00E000000000000000000#96 = .undefinedMajorOpcode 0x15F00E000000000000000000#96 := by decide

/-! ## Words written out from the encoding tables

Each word is the spec's own worked encoding of the instruction, or its fields written out by hand. -/

/-- R50, R59: words of the control, scalar and vector families. -/
theorem test_decode_control :
    (decode 0x10F00EA0E83A0E8300000000#96 = .eret (plain 14#4) (fx 643#10 643#10 643#10 643#10 0#32)) ∧
    (decode 0x02100E000000006000000200#96 =
      .bra { plain 14#4 with pred := 1#4 } { tline := 0#32, tslot := 3#3, rline := 0#27, rslot := 4#3, tag := 0#7 }) ∧
    (decode 0x0A200EA0E83A0E8300000001#96 =
      .plane { plain 14#4 with pred := 2#4 } (fx 643#10 643#10 643#10 643#10 1#32)) ∧
    (decode 0x0BF00E00283A0E8300000080#96 = .regroup (plain 14#4) (fx 0#10 643#10 643#10 643#10 0x80#32)) := by
  decide
theorem test_decode_scalar :
    (decode 0x39F00EC7A83A0E8300000041#96 = .srd (plain 14#4) (fx 798#10 643#10 643#10 643#10 0x41#32)) ∧
    (decode 0x32F000B1EC6C300300FFFFF0#96 =
      .alea (plain 0#4) { fm 711#10 710#10 780#10 0#3 0#2 0xFFFFF0#24 with ish := 3#3 }) := by decide
theorem test_decode_vector :
    (decode 0x43F000004000028300000400#96 = .vadd (plain 0#4) (fv 1#10 0#10 0#10 643#10)) ∧
    (decode 0x51F00401C030168300000400#96 = .vsar (plain 4#4) (fv 7#10 3#10 5#10 643#10)) ∧
    (decode 0x72F00B0500C0341416000400#96 =
      .vpack (plain 11#4) (fv 20#10 12#10 13#10 20#10 0x16#8)) ∧
    (decode 0x632A56030040240600851100#96 = .ffma
      { pred := 2#4, pneg := 1#1, feb := 2#3, holdSrc := 1#2, holdEnt := 1#2, fmt := 6#4 }
      { fv 12#10 4#10 9#10 6#10 with na := 1#1, ac := 1#1, clamp := 1#2, scale := 1#4, rnd := 1#3 }) := by decide
/-- R43, R54, R55: words of the transform, memory, matrix, tile, copy and barrier families. -/
theorem test_decode_memory :
    (decode 0x36F001D1AC8A0C103000000C#96 = .sld (plain 1#4)
      { fm 838#10 712#10 643#10 2#3 0#2 12#24 with ord := 1#3, scope := 4#3 }) ∧
    (decode 0x37F00EC56C6A0C1000000000#96 = .sst (plain 14#4) (fm 789#10 710#10 643#10 2#3)) ∧
    (decode 0xE0F00EA0E83A0C0050000000#96 = .fence (plain 14#4)
      { fm 643#10 643#10 643#10 0#3 with ord := 2#3, scope := 4#3 }) := by decide
theorem test_decode_transform :
    (decode 0x76F0000340CA0E8300000000#96 = .xsort (plain 0#4) (fx 13#10 12#10 643#10 643#10 0#32)) ∧
    (decode 0x74F00102004C330E00000089#96 = .xdec (plain 1#4) (fx 8#10 4#10 780#10 782#10 0x89#32)) := by decide
theorem test_decode_engines :
    (decode 0xA0100ACA010CA72800000400#96 = .mma { plain 10#4 with pred := 1#4 } (fv 808#10 16#10 809#10 808#10)) ∧
    (decode 0xE1F009C5315C5A8300000005#96 = .talloc (plain 9#4) (fx 788#10 789#10 790#10 643#10 5#32)) ∧
    (decode 0xC0F00EB1B20C528300010082#96 = .tcopy (plain 14#4) (fx 710#10 800#10 788#10 643#10 0x10082#32)) ∧
    (decode 0xE6F00EC7A83A0E8300000001#96 = .hqpop (plain 14#4) (fx 798#10 643#10 643#10 643#10 1#32)) ∧
    (decode 0xC6F00EC5283A0E8300000018#96 = .veer (plain 14#4) (fx 788#10 643#10 643#10 643#10 24#32)) := by decide
theorem test_decode_barriers :
    (decode 0xEEF00EC5283A0E8300000002#96 = .bsync (plain 14#4) (fx 788#10 643#10 643#10 643#10 2#32)) ∧
    (decode 0xC5F00EB1A83A0E8300000081#96 = .repart (plain 14#4) (fx 710#10 643#10 643#10 643#10 0x81#32)) ∧
    (decode 0xEDF00ECBA83A0E8300000001#96 = .bwait (plain 14#4) (fx 814#10 643#10 643#10 643#10 1#32)) := by decide

/-! ## Instructions without further conditions -/

/-- ScalarResults: every scalar instruction meets its hypotheses. -/
def scalarList : List Instr :=
  let h := plain 0#4
  let n := plain 14#4
  let f := fv 770#10 771#10 772#10 643#10
  let u := fv 770#10 771#10 643#10 643#10
  [.smov n u, .smovi n (fi 770#10 643#10 0#8 7#32), .sadd h f, .ssub h f, .smul h f, .smulh h f,
   .sand n f, .sor n f, .sxor n f, .sshl n f, .sshr n f, .ssar n f, .smin h f, .smax h f, .scmp h f,
   .ssel n (fv 770#10 771#10 772#10 773#10), .spopc n u, .sclz n u]
theorem meets_ScalarResults : allClear .scal id scalarList = true := by decide

/-- PredicateAndAddressResults: every form of the predicate and address instructions, FN included. -/
def predicateList : List Instr :=
  let n := plain 14#4
  [.plog n (fv 1#10 2#10 3#10 4#10), .pmov n (fv 1#10 2#10 643#10 643#10 0#8),
   .pmov n (fv 771#10 2#10 643#10 643#10 1#8), .pmov n (fv 1#10 771#10 643#10 643#10 2#8),
   .pmov n (fv 1#10 771#10 643#10 643#10 3#8), .alea (plain 0#4) (fm 705#10 706#10 771#10 0#3),
   .amov n (fv 705#10 706#10 643#10 643#10 0#8), .amov n (fv 705#10 771#10 643#10 643#10 1#8),
   .amov n (fv 771#10 706#10 643#10 643#10 2#8), .amovi n (fi 705#10 643#10 0#8 7#32),
   .ahi n (fi 705#10 705#10 0#8 7#32), .ahi n (fi 705#10 705#10 1#8 7#32)]
theorem meets_PredicateAndAddressResults : allClear .scal id predicateList = true := by decide

/-- A warp of two planes, lanes 0 to 47 in plane 0 and the others in plane 1, whose line both planes share. -/
def twoPlanes (s : State) : State :=
  (s.modWarp 0 (fun w => { withV 0#4 w with plane0 := BitVec.allOnes 96 <<< 48 })).modLaunch 0 (fun l =>
    { l with info := { l.info with planes := 1#2 } })

/-- The same with active lanes in plane 1 alone, and with none. -/
def upperActive (s : State) : State := (twoPlanes s).modWarp 0 (fun w => w.modSplit 0 (fun x =>
  { x with active := BitVec.allOnes 96 <<< 48 }))
def noneActive (s : State) : State := s.modWarp 0 (fun w => (withV 0#4 w).modSplit 0 (fun x => { x with active := 0#96 }))

/-- SpecialRegisterResults: SRD of FXA with no float result outstanding, SRD of an event counter with nothing
outstanding, and SWR of FXA and of EVSEL; and both without an active lane. -/
theorem meets_SpecialRegisterResults :
    let srd (n : Word) : Instr := .srd (plain 14#4) (fx 771#10 643#10 643#10 643#10 n)
    let swr (n : Word) : Instr := .swr (plain 14#4) (fx 771#10 643#10 643#10 643#10 n)
    let pre (n : Nat) (c : Ctx) (s : State) : Prop :=
      ¬((n = 0x10 ∧ (s.warp c.k).floatsOut = true) ∨
        (0x41 ≤ n ∧ n ≤ 0x44 ∧ ((s.warp c.k).pend ≠ [] ∨ ∃ x ∈ (s.core (coreOf c.k)).copies, x.warp = c.k)))
    Meets .scal (pre 0x10) (srd 0x10#32) (before id (srd 0x10#32)) ∧
    Meets .scal (pre 0x41) (srd 0x41#32) (before id (srd 0x41#32)) ∧
    Meets .scal (pre 0x44) (srd 0x44#32) (before id (srd 0x44#32)) ∧
    allClear .scal id [swr 0x10#32, swr 0x40#32] = true ∧
    [srd 0x10#32, swr 0x10#32].all (fun i => idlesNow .scal i (setUp noneActive i)) = true := by
  refine ⟨Meets.intro ?_ ?_, Meets.intro ?_ ?_, Meets.intro ?_ ?_, ?_, ?_⟩ <;> decide

/-- VectorIntegerArithmetic, PlainWordArithmetic (these have neutral modifiers), MovesAndBitwise,
BitCountsFieldsAndShifts and the compares. -/
def vectorList : List Instr :=
  let h := plain 0#4
  let n := plain 14#4
  let f := fv 1#10 2#10 3#10 643#10
  let g := fv 1#10 2#10 3#10 4#10
  let u := fv 1#10 2#10 643#10 643#10
  [.vadd h f, .vsub h f, .vmul h f, .vmad h g, .vabsd h f, .vmin h f, .vmax h f, .vmulh h f,
   .vmov h u, .vmovi h (fi 1#10 643#10 0#8 7#32), .vtag h u, .vand n f, .vor n f, .vxor n f, .vbool n g,
   .vpopc h u, .vclz h u, .vbrev h u, .vshl h f, .vshr h f, .vsar h f, .vbfx h f, .vbfi h g,
   .vcmpReg h (fv 1#10 2#10 3#10 643#10), .vcmpImm h (fi 1#10 2#10 0#8 7#32), .vscan h u]
theorem meets_vector_integer : allClear .vec (withV 0#4) vectorList = true := by decide
/-- PlainWordArithmetic in u32. -/
theorem meets_PlainWordArithmetic : allClear .vec (withV 1#4)
    [.vadd (plain 1#4) (fv 1#10 2#10 3#10 643#10), .vsub (plain 1#4) (fv 1#10 2#10 3#10 643#10),
     .vmul (plain 1#4) (fv 1#10 2#10 3#10 643#10), .vmad (plain 1#4) (fv 1#10 2#10 3#10 4#10)] = true := by decide

/-- The words of v2 poisoned in every lane. -/
def poisonedV2 (w : Warp) : Warp :=
  { w with vregs := tput w.vregs 2 { VReg.zero with tag := 0#4, tpar := parityOf 0#4, poison := BitVec.allOnes 96 } }

/-- CompareSelectExchange: the select and the exchanges with no poisoned source, and with v2 poisoned (the select under
a predicate that is set in every lane). -/
theorem meets_CompareSelectExchange :
    let s (i : Instr) : State := before (withV 0#4) i
    let bad (i : Instr) : State := before (fun w =>
      { poisonedV2 (withV 0#4 w) with pregs := [(4, { bits := BitVec.allOnes 96, poison := 0#3 })] }) i
    let vsel : Instr := .vsel (plain 14#4) (fv 1#10 2#10 3#10 4#10)
    let vlane : Instr := .vlane (plain 14#4) (fv 1#10 2#10 771#10 643#10)
    let vperm : Instr := .vperm (plain 14#4) (fv 1#10 2#10 3#10 643#10)
    let qxch : Instr := .qxch (plain 14#4) (fv 1#10 2#10 643#10 643#10 0x1B#8)
    Meets .vec (cleanWords (fun c l =>
      if (c.view.pbits 4).getLsbD l then (src c 2#10).poison.getLsbD l else (src c 3#10).poison.getLsbD l))
      vsel (s vsel) ∧
    Meets .vec (cleanWords (fun c _ => (c.view.sval c.e 771).toNat < 96 &&
      (src c 2#10).poison.getLsbD (c.view.sval c.e 771).toNat)) vlane (s vlane) ∧
    Meets .vec (cleanWords (fun c l => ((src c 3#10).word l).toNat < 96 &&
      (src c 2#10).poison.getLsbD ((src c 3#10).word l).toNat)) vperm (s vperm) ∧
    Meets .vec (cleanWords (fun c l => 4 * (l / 4) + 0x1B / 4 ^ (l % 4) % 4 < 96 &&
      (src c 2#10).poison.getLsbD (4 * (l / 4) + 0x1B / 4 ^ (l % 4) % 4))) qxch (s qxch) ∧
    Meets .vec (fun c _ => c.live &&& mkLanes (fun l =>
      if (c.view.pbits 4).getLsbD l then (src c 2#10).poison.getLsbD l else (src c 3#10).poison.getLsbD l) ≠ 0#96)
      vsel (bad vsel) ∧
    Meets .vec (fun c _ => c.live &&& mkLanes (fun _ => (c.view.sval c.e 771).toNat < 96 &&
      (src c 2#10).poison.getLsbD (c.view.sval c.e 771).toNat) ≠ 0#96) vlane (bad vlane) ∧
    Meets .vec (fun c _ => c.live &&& mkLanes (fun l => ((src c 3#10).word l).toNat < 96 &&
      (src c 2#10).poison.getLsbD ((src c 3#10).word l).toNat) ≠ 0#96) vperm (bad vperm) ∧
    Meets .vec (fun c _ => c.live &&& mkLanes (fun l => 4 * (l / 4) + 0x1B / 4 ^ (l % 4) % 4 < 96 &&
      (src c 2#10).poison.getLsbD (4 * (l / 4) + 0x1B / 4 ^ (l % 4) % 4)) ≠ 0#96) qxch (bad qxch) := by
  refine ⟨Meets.intro ?_ ?_, Meets.intro ?_ ?_, Meets.intro ?_ ?_, Meets.intro ?_ ?_, Meets.intro ?_ ?_,
    Meets.intro ?_ ?_, Meets.intro ?_ ?_, Meets.intro ?_ ?_⟩ <;>
    (try unfold cleanWords) <;> decide

/-- ReduceScanVote: the last pass of a warp of one plane, the first of two, and a split with no active lane; no
contributing word is poisoned. -/
theorem meets_ReduceScanVote :
    let split (c : Ctx) : Lanes := c.view.execMask c.e &&& c.view.live
    let clean (o : Nat) (bad : Ctx → Nat → Lanes) (c : Ctx) : Prop :=
      split c ≠ 0#96 ∧ ∀ x ∈ contributions c o, x.2 &&& bad c (fieldA x.1) = 0#96
    let vec (c : Ctx) (a : Nat) : Lanes := (c.view.src c.e a).poison
    let vote (c : Ctx) (a : Nat) : Lanes := beatLanes (c.view.pPoison a)
    let vred : Instr := .vred (plain 0#4) (fv 771#10 2#10 643#10 643#10)
    let vscan : Instr := .vscan (plain 0#4) (fv 1#10 2#10 643#10 643#10)
    let vvote : Instr := .vvote (plain 14#4) (fv 771#10 2#10 643#10 643#10)
    Meets .vec (fun c _ => clean 0x5C vec c ∧ lastPass c 0x5C = true) vred (before (withV 0#4) vred) ∧
    Meets .vec (fun c _ => clean 0x5C vec c ∧ lastPass c 0x5C = false) vred (setUp twoPlanes vred) ∧
    Meets .vec (fun c _ => clean 0x5D vec c) vscan (setUp twoPlanes vscan) ∧
    Meets .vec (fun c _ => clean 0x5E vote c ∧ lastPass c 0x5E = true) vvote (before (withV 0#4) vvote) ∧
    Meets .vec (fun c _ => clean 0x5E vote c ∧ lastPass c 0x5E = false) vvote (setUp twoPlanes vvote) ∧
    Meets .vec (fun c _ => split c = 0#96) vred (setUp noneActive vred) ∧
    Meets .vec (fun c _ => split c = 0#96) vscan (setUp noneActive vscan) ∧
    Meets .vec (fun c _ => split c = 0#96) vvote (setUp noneActive vvote) := by
  refine ⟨Meets.intro ?_ ?_, Meets.intro ?_ ?_, Meets.intro ?_ ?_, Meets.intro ?_ ?_, Meets.intro ?_ ?_,
    Meets.intro ?_ ?_, Meets.intro ?_ ?_, Meets.intro ?_ ?_⟩ <;> decide

/-- FloatArithmetic, FloatCompareAndClass, SpecialFunctions and the conversion from F32. -/
def floatList : List Instr :=
  let h := plain 6#4
  let f := fv 1#10 2#10 3#10 643#10
  let u := fv 1#10 2#10 643#10 643#10
  [.fadd h f, .fsub h f, .fmul h f, .ffma h (fv 1#10 2#10 3#10 4#10), .fmin h f, .fmax h f, .frnd h u, .fcmp h f,
   .fclass h (fv 1#10 2#10 771#10 643#10), .frcp h u, .fsqrt h u, .frsq h u, .fexp2 h u, .flog2 h u, .fsin h u,
   .fcos h u]
theorem meets_float : allClear .vec (withV 6#4) floatList = true := by decide
/-- SpecialFunctions, its accuracy: an FRSQ that is not exact, and for each of the others an F32 operand that R169 does
not name exact, whose result does not overflow and whose window holds a value (for FSIN also one so small that no bit of
it would be left). -/
theorem meets_SpecialFunctions_accuracy :
    let open' (v q : Int) (bound : Nat) (r : Nat × FFlags) : Bool :=
      let val (x : Int) : FVal := clampVal 0 (.fin (x < 0) x.natAbs q)
      r.2 &&& flagOF == 0#5 && decide ((codesWithin (ffmt 6#4) (val (v - bound)) (val (v + bound))).1 ≤
        (codesWithin (ffmt 6#4) (val (v - bound)) (val (v + bound))).2)
    (isPow2 2 && ((Nat.log2 2 : Int) + 0) % 2 == 0) = false ∧
    (isWhole 3 (-1) = false ∧ (ffmt 6#4).qmin ≤ satInt (splitFix false 3 (-1)).1 (-1000) 1000 + 0 ∧
      open' (exp2Fix (splitFix false 3 (-1)).2) (1 - 96) (twoUlp (ffmt 6#4) (exp2Fix (splitFix false 3 (-1)).2) (1 - 96) - 2 ^ 12)
        (fexp2Bits 6#4 (.fin false 3 (-1)) 0 0 1) = true) ∧
    (isPow2 3 = false ∧ open' (log2Fix 3 0) (-48) (max (twoUlp (ffmt 6#4) (log2Fix 3 0) (-48)) (2 ^ 26) - 2)
      (flog2Bits 6#4 (.fin false 3 0) 0 0 1) = true) ∧
    (isWhole 1 (-2) = false ∧ isWhole 1 (-1) = false ∧ decide ((bitLen 1 : Int) + -2 < -40) = false ∧
      open' (sinPi false 1 (-2)) (-96) (2 ^ 74 - 2 ^ 12) (fsinBits 6#4 (.fin false 1 (-2)) 0 0 1) = true ∧
      open' (sinPi false 3 (-2)) (-96) (2 ^ 74 - 2 ^ 12) (fcosBits 6#4 (.fin false 1 (-2)) 0 0 1) = true) ∧
    (isWhole 1 (-60) = false ∧ isWhole 1 (-59) = false ∧ decide ((bitLen 1 : Int) + -60 < -40) = true ∧
      open' piFix (-156) (2 ^ 134 - 1) (fsinBits 6#4 (.fin false 1 (-60)) 0 0 1) = true) := by
  decide
theorem meets_fdot2 : allClear .vec (withV 7#4) [.fdot2 (plain 6#4) (fv 1#10 2#10 3#10 643#10 7#8)] = true := by
  decide
theorem meets_Conversions :
    allClear .vec (withV 0#4) [.vcvt (plain 6#4) (fv 1#10 2#10 643#10 643#10 0#8)] = true ∧
    allClear .vec (withV 9#4) [.vunpk (plain 6#4) (fv 1#10 2#10 643#10 643#10 9#8)] = true ∧
    allClear .vec (withV 6#4) [.vpack (plain 7#4) (fv 1#10 2#10 3#10 643#10 6#8)] = true := by
  refine ⟨?_, ?_, ?_⟩ <;> decide

/-! ## The transform pipe -/

/-- A condition of the lanes of a mask, from its check on 96 lanes. -/
theorem lanes_of (m : Lanes) (P : Nat → Prop) (h : ∀ l, l < 96 → P l) : ∀ l, m.getLsbD l = true → P l :=
  fun l hl => h l (BitVec.lt_of_getLsbD hl)

/-- TransformRequests: each request, with and without values, with and without MERGE, both directions. -/
theorem meets_TransformRequests :
    let z := before (withV 0#4)
    let y := before (withV 11#4)
    let xdec : Instr := .xdec (plain 1#4) (fx 8#10 4#10 780#10 782#10 0x89#32)
    let xscan : Instr := .xscan (plain 0#4) (fx 8#10 4#10 771#10 643#10 0#32)
    let xsort : Instr := .xsort (plain 0#4) (fx 8#10 4#10 5#10 9#10 0#32)
    let topk : Instr := .xtopk (plain 0#4) (fx 8#10 4#10 643#10 643#10 95#32)
    let merge : Instr := .xtopk (plain 0#4) (fx 8#10 4#10 5#10 9#10 0x103#32)
    let into : Instr := .xplane (plain 11#4) (fx 8#10 0#10 643#10 643#10 0#32)
    let from' : Instr := .xplane (plain 11#4) (fx 8#10 0#10 643#10 643#10 9#32)
    Meets .once (fun c s => pipeFree c s ∧
        (∀ l, c.live.getLsbD l = true → ((c.view.src c.e 6).word l).toNat % 128 ≤ 64) ∧
        (c.view.sval c.e 782).toNat % 4 = 0 ∧
        ((c.view.sval c.e 783).toNat = 0 ∨
          (c.view.sval c.e 782).toNat + 4 * (c.view.sval c.e 783).toNat ≤ (s.warpLaunch c.k).info.sarea))
      xdec (z xdec) ∧
    Meets .once pipeFree xscan (z xscan) ∧ Meets .once pipeFree xsort (z xsort) ∧
    Meets .once pipeFree topk (z topk) ∧
    Meets .once (fun c s => pipeFree c s ∧ cleanIn c [8, 9] (mkLanes (fun l => l < 4))) merge (z merge) ∧
    Meets .once (fun c s => pipeRoom c s ∧ cleanIn c (span 0 4) (BitVec.allOnes 96))
      into (y into) ∧
    Meets .once (fun c s => pipeRoom c s ∧ cleanIn c (span 0 4) (BitVec.allOnes 96))
      from' (y from') := by
  refine ⟨Meets.intro (by decide) ⟨?_, lanes_of _ _ (by decide), by decide, by decide⟩, Meets.intro ?_ ?_,
    Meets.intro ?_ ?_, Meets.intro ?_ ?_, Meets.intro ?_ ?_, Meets.intro ?_ ?_, Meets.intro ?_ ?_⟩ <;>
    (try unfold pipeFree) <;> (try unfold pipeRoom) <;> (try unfold cleanIn) <;> decide

/-! ## Control -/

/-- A line with its second slot replaced and its slots marked as targets by a mask (R36). -/
def reline (tmask : BitVec 16) (second : BitVec 96) (line : BitVec 512) : BitVec 512 :=
  let chunks : BitVec 480 := line.extractLsb' 192 288 ++ (second ++ line.extractLsb' 0 96)
  let par := BitVec.ofNat 15 (bitsNat (fun c => parityOf (chunks.extractLsb' (32 * c) 32)) 15)
  let low : BitVec 31 := par ++ tmask
  (if parityOf low then 1#1 else 0#1) ++ low ++ chunks
def withSecond (tmask : BitVec 16) (second : BitVec 96) (s : State) : State :=
  s.modCore 0 (fun c => { c with icache := c.icache.map (fun x => (x.1, reline tmask second x.2)) })

/-- PAD with tag 5, written out (R56, R254). -/
def padWord : BitVec 96 := 0x01F00E000000000000000385#96
theorem test_decode_pad : decode padWord = .pad (plain 14#4)
    { tline := 0#32, tslot := 0#3, rline := 0#27, rslot := 7#3, tag := 5#7 } := by decide

/-- a1 set. -/
def withA (v : A80) (w : Warp) : Warp := { w with aregs := [(1, { val := v, poison := false })] }

/-- In trap mode, from slot 0 of the one line. -/
def inTrap (w : Warp) : Warp := w.enterTrap 0 0#64 { cause := 0x1B#8, va := 0#80, lanes := 0#96 }
def handled (s : State) : State := s.modLaunch 0 (fun l => { l with handler := 0x10000#80 })
def trapped (s : State) : State := (handled s).modWarp 0 inTrap

/-- TransfersComplete: NOP and PAD. -/
theorem meets_TransfersComplete_nop :
    allClear .vec id [.nop (plain 14#4) 0#72, .pad (plain 14#4) (fc 0#32 0#3 5#7)] = true := by decide

/-- The lines of a list of places are there, checked. -/
theorem lines_of {s : State} {k : Nat} {t : List (Nat × Word × Lanes)}
    (h : t.all (fun x => match getLine s k x.1 x.2.1 with
      | .line _ => true
      | _ => false) = true) : ∀ x ∈ t, ∃ b, getLine s k x.1 x.2.1 = .line b := by
  intro x hx
  have := List.all_eq_true.mp h x hx
  revert this
  cases getLine s k x.1 x.2.1 with
  | line b => exact fun _ => ⟨b, rfl⟩
  | _ => simp

/-- The target lines of a direct transfer are there, checked; some lane transfers in the first pass. -/
theorem targets_of {s : State} {c : Ctx} (h : (directTargets s c).all (fun x => match getLine s c.k x.1 x.2.1 with
    | .line _ => true
    | _ => false) = true) : targetsHeld s c := fun _ => lines_of h

/-- TransfersComplete: BRA and CALL to slot 0 of their own line, without a point and with the point at slot 4, in
ordinary mode and in trap mode; with no lane that takes part, in the whole issue or in the pass. -/
theorem meets_TransfersComplete_direct :
    let pre (f : FC) (o : Word) (p : Option Word) (c : Ctx) (s : State) : Prop :=
      transfers s c ∧ landsAt f s c o ∧ pointNamed s c f.rline f.rslot p
    let f := fc 0#32 0#3
    let g : FC := { f with rslot := 4#3 }
    let t (i : Instr) : State := setUp trapped i
    Meets .vec (pre f 0#32 none) (.bra (plain 14#4) f) (before id (.bra (plain 14#4) f)) ∧
    Meets .vec (pre g 0#32 (some 4#32)) (.bra (plain 14#4) g) (before id (.bra (plain 14#4) g)) ∧
    Meets .vec (pre f 0#32 none) (.bra (plain 14#4) f) (t (.bra (plain 14#4) f)) ∧
    Meets .vec (pre f 0#32 none) (.call (plain 14#4) f) (before id (.call (plain 14#4) f)) ∧
    Meets .vec (pre g 0#32 (some 4#32)) (.call (plain 14#4) g) (before id (.call (plain 14#4) g)) ∧
    let here (c : Ctx) (s : State) : Prop := c.live = 0#96 ∧ targetsHeld s c
    Meets .vec here (.bra (never 14#4) f) (before id (.bra (never 14#4) f)) ∧
    Meets .vec here (.call (never 14#4) f) (before id (.call (never 14#4) f)) ∧
    Meets .vec here (.bra (plain 14#4) f) (setUp upperActive (.bra (plain 14#4) f)) ∧
    Meets .vec here (.call (plain 14#4) f) (setUp upperActive (.call (plain 14#4) f)) := by
  refine ⟨Meets.intro ?_ ⟨?_, ⟨targets_of ?_, ?_, ?_⟩, ?_⟩, Meets.intro ?_ ⟨?_, ⟨targets_of ?_, ?_, ?_⟩, ?_⟩,
    Meets.intro ?_ ⟨?_, ⟨targets_of ?_, ?_, ?_⟩, ?_⟩, Meets.intro ?_ ⟨?_, ⟨targets_of ?_, ?_, ?_⟩, ?_⟩,
    Meets.intro ?_ ⟨?_, ⟨targets_of ?_, ?_, ?_⟩, ?_⟩, Meets.intro ?_ ⟨?_, targets_of ?_⟩,
    Meets.intro ?_ ⟨?_, targets_of ?_⟩,
    Meets.intro ?_ ⟨?_, targets_of ?_⟩, Meets.intro ?_ ⟨?_, targets_of ?_⟩⟩ <;>
    (try unfold transfers) <;> (try unfold pointNamed) <;> decide

/-- TransfersComplete: BRX and CALLX to the PAD in slot 1, RET to slot 0, and each with no lane that takes part. -/
theorem meets_TransfersComplete_indirect :
    let pre (f : FCX) (pad : Option (BitVec 7)) (p : Option Word) (c : Ctx) (s : State) : Prop :=
      transfers s c ∧ landsByPointer f pad s c ∧ pointNamed s c f.rline f.rslot p
    let g (s : State) : State := withSecond 3#16 padWord (s.modWarp 0 (withA 1#80))
    let f := fcx 705#10 5#7
    let r := fcx 705#10 0#7
    let f4 : FCX := { f with rslot := 4#3 }
    Meets .once (pre f (some 5#7) none) (.brx (plain 14#4) f) (setUp g (.brx (plain 14#4) f)) ∧
    Meets .once (pre f4 (some 5#7) (some 4#32)) (.brx (plain 14#4) f4) (setUp g (.brx (plain 14#4) f4)) ∧
    Meets .once (pre f (some 5#7) none) (.callx (plain 14#4) f) (setUp g (.callx (plain 14#4) f)) ∧
    Meets .once (pre r none none) (.ret (plain 14#4) r) (setUp g (.ret (plain 14#4) r)) ∧
    Meets .once (fun c _ => c.live = 0#96) (.brx (never 14#4) f) (setUp g (.brx (never 14#4) f)) ∧
    Meets .once (fun c _ => c.live = 0#96) (.callx (never 14#4) f) (setUp g (.callx (never 14#4) f)) ∧
    Meets .once (fun c _ => c.live = 0#96) (.ret (never 14#4) r) (setUp g (.ret (never 14#4) r)) := by
  refine ⟨Meets.intro ?_ ?_, Meets.intro ?_ ?_, Meets.intro ?_ ?_, Meets.intro ?_ ?_, Meets.intro ?_ ?_,
    Meets.intro ?_ ?_, Meets.intro ?_ ?_⟩ <;>
    (try unfold transfers landsByPointer pointNamed) <;> decide

/-- Outside trap mode with a lane that takes part. -/
def actsHere (c : Ctx) (s : State) : Prop := c.live ≠ 0#96 ∧ (s.warp c.k).trapMode = false

/-- Splits whose eight token slots are in use. -/
def noTokens (w : Warp) : Warp :=
  { w with splits := (List.range 8).map (fun e => (e, { w.split e with tused := true })) }

/-- ControlInstructionsComplete: EXIT, YIELD, JOIN with a token slot and without one, IPREF of one line and of 128,
and WSET; YIELD in trap mode; YIELD, EXIT and IPREF without a lane. -/
theorem meets_ControlInstructionsComplete :
    let x := fx 643#10 643#10 643#10 643#10 0#32
    let j : Instr := .join (plain 14#4) { fc 0#32 0#3 with rslot := 4#3 }
    let exit : Instr := .exit (plain 14#4) x
    let yield : Instr := .yield (plain 14#4) x
    let near : Instr := .ipref (plain 14#4) (fc 0#32 0#3)
    let far : Instr := .ipref (plain 14#4) (fc 0#32 0#3 127#7)
    let wset : Instr := .wset (plain 14#4)
      { base0 := 0#10, len0 := 15#4, base1 := 1023#10, len1 := 0#4, base2 := 1023#10, len2 := 0#4, base3 := 1023#10,
        len3 := 0#4, base4 := 1023#10, len4 := 0#4, low := 0#2 }
    Meets .vec actsHere exit (before id exit) ∧ Meets .vec actsHere yield (before id yield) ∧
    Meets .once (fun c s => actsHere c s ∧ pointNamed s c 0#27 4#3 (some 4#32) ∧
      ((s.warp c.k).pushToken c.e 4#32).isSome = true) j (before id j) ∧
    Meets .once (fun c s => actsHere c s ∧ pointNamed s c 0#27 4#3 (some 4#32) ∧
      ((s.warp c.k).pushToken c.e 4#32) = none) j (before noTokens j) ∧
    Meets .vec (fun c _ => c.live ≠ 0#96) near (before id near) ∧
    Meets .vec (fun c _ => c.live ≠ 0#96) far (before id far) ∧
    Meets .vec (fun c s => (s.warp c.k).execMask c.e &&& (s.warp c.k).live ≠ 0#96) wset (before id wset) ∧
    Meets .vec (fun c s => c.live ≠ 0#96 ∧ (s.warp c.k).trapMode = true) yield (setUp trapped yield) ∧
    Meets .vec (fun c _ => c.live = 0#96) (.yield (never 14#4) x) (before id (.yield (never 14#4) x)) ∧
    Meets .vec (fun c s => c.live = 0#96 ∧ (s.warp c.k).trapMode = false) (.exit (never 14#4) x)
      (before id (.exit (never 14#4) x)) ∧
    Meets .vec (fun c _ => c.live = 0#96) (.ipref (never 14#4) (fc 0#32 0#3)) (before id (.ipref (never 14#4) (fc 0#32 0#3))) := by
  refine ⟨Meets.intro ?_ ?_, Meets.intro ?_ ?_, Meets.intro ?_ ?_, Meets.intro ?_ ?_, Meets.intro ?_ ?_, Meets.intro ?_ ?_, Meets.intro ?_ ?_, Meets.intro ?_ ?_, Meets.intro ?_ ?_,
    Meets.intro ?_ ?_, Meets.intro ?_ ?_⟩ <;> (try unfold actsHere) <;> (try unfold pointNamed) <;> decide

/-- ControlInstructionsComplete: PLANE to the plane the lanes are in, and to another, whose next slot is a target. -/
theorem meets_ControlInstructionsComplete_plane :
    let pre (n m : Nat) (c : Ctx) (s : State) : Prop := ((s.warp c.k).trapMode = false ∧ c.live ≠ 0#96) ∧
      (c.q.took = [] → ∀ x ∈ planeTargets s c, ∃ b, getLine s c.k x.1 x.2.1 = .line b) ∧
      (∀ l, c.live.getLsbD l = true → n < (s.warpLaunch c.k).info.planeCount) ∧
      (∀ m', m' < 4 → c.live &&& mkLanes (fun _ => n == m') ≠ 0#96 → m' ≠ c.p → m' = m ∧
        offsetInRange s c.k (following c.q.offset) = true ∧
        landing s c.k m (following c.q.offset) none = .lands)
    let i (n : Word) : Instr := .plane (plain 14#4) (fx 643#10 643#10 643#10 643#10 n)
    let two (s : State) : State := withSecond 3#16 nopWord (s.modLaunch 0 (fun l =>
      { l with info := { l.info with planes := 1#2 } }))
    Meets .vec (pre 0 0) (i 0#32) (before id (i 0#32)) ∧
    Meets .vec (pre 1 1) (i 1#32) (setUp two (i 1#32)) := by
  refine ⟨Meets.intro (by decide) ⟨?_, fun _ => lines_of (by decide), lanes_of _ _ (by decide), by decide⟩,
    Meets.intro (by decide) ⟨?_, fun _ => lines_of (by decide), lanes_of _ _ (by decide), by decide⟩⟩ <;> decide

/-- RepEntersItsRepetitions: a REP of two repetitions of the VADD in the next slot. -/
theorem meets_RepEntersItsRepetitions :
    let f : FP :=
      { count := 1#4, sd := 1#1, sa := 0#1, sb := 0#1, sc := 0#1, stepD := 1#4, stepA := 0#4, stepB := 0#4,
        stepC := 0#4, low := 0#48 }
    let rep : Instr := .rep (plain 14#4) f
    Meets .once (fun _ _ => True) rep
      (setUp (fun s => withSecond 1#16 0x43F001004000028300000400#96 (s.modWarp 0 (withV 1#4))) rep) :=
  Meets.intro (by decide) trivial

/-! ## Traps -/

/-- TrapEntry: a warp of a launch with a handler. -/
theorem meets_TrapEntry :
    let s := handled (loadWord State.reset nopWord)
    (s.warp 0).trapMode = false ∧ (s.warpLaunch 0).handler ≠ 0#80 ∧ (0x1B#8 : BitVec 8) ≠ causePoison := by decide

/-- DoubleFaultsAndMissingHandlers: a warp in trap mode; a warp without a handler, for BREAKPOINT and another
cause; a launch that is ending already. -/
theorem meets_DoubleFaultsAndMissingHandlers :
    let s := trapped (loadWord State.reset nopWord)
    let u := loadWord State.reset nopWord
    let e := u.modLaunch 0 (fun l => { l with ending := some { status := 0x20#8, cause := 0x1B#8, detail := 0#32, team := 0 } })
    ((s.warp 0).trapMode = true ∧ (s.launch 0).ending = none) ∧
    ((u.warp 0).trapMode = false ∧ (u.warpLaunch 0).handler = 0#80 ∧ causeBreak ≠ causePoison ∧
      (0x1B#8 : BitVec 8) ≠ causeBreak) ∧
    (e.launch (e.team (e.warp 0).team).launch).ending ≠ none := by decide

/-- TrapInstructionsTrap: with a lane that takes part, and with none. -/
theorem meets_TrapInstructionsTrap :
    let x := fx 643#10 643#10 643#10 643#10 0#32
    let t (h : Hdr) : State := before id (.trap h { x with ctl := 3#32 })
    let b (h : Hdr) : State := before id (.brk h x)
    Meets .vec (fun c _ => c.live ≠ 0#96) (.trap (plain 14#4) { x with ctl := 3#32 }) (t (plain 14#4)) ∧
    Meets .vec (fun c _ => c.live ≠ 0#96) (.brk (plain 14#4) x) (b (plain 14#4)) ∧
    Meets .vec (fun c _ => c.live = 0#96) (.trap (never 14#4) { x with ctl := 3#32 }) (t (never 14#4)) ∧
    Meets .vec (fun c _ => c.live = 0#96) (.brk (never 14#4) x) (b (never 14#4)) := by
  refine ⟨Meets.intro ?_ ?_, Meets.intro ?_ ?_, Meets.intro ?_ ?_, Meets.intro ?_ ?_⟩ <;> decide

/-- EretLeavesTrapMode: with the offset left alone, CTL 0 and 1, and with the offset moved to a target. -/
theorem meets_EretLeavesTrapMode :
    let i (n : Word) : Instr := .eret (plain 14#4) (fx 643#10 643#10 643#10 643#10 n)
    let moved (s : State) : State :=
      withSecond 3#16 nopWord ((trapped s).modWarp 0 (fun w => { w with trapPc := 1#64 }))
    let alone (_ : Ctx) (s : State) : Prop :=
      (s.warp 0).trapPc.extractLsb' 0 32 = (s.warp 0).trapPc0.extractLsb' 0 32
    Meets .once alone (i 0#32) (setUp trapped (i 0#32)) ∧
    Meets .once alone (i 1#32) (setUp trapped (i 1#32)) ∧
    Meets .once (fun _ s => eretLandings 0 s = [.lands]) (i 0#32) (setUp moved (i 0#32)) := by
  refine ⟨Meets.intro ?_ ?_, Meets.intro ?_ ?_, Meets.intro ?_ ?_⟩ <;> decide

/-- SyscAndSaveArea: SYSC 1 with two values, and the save area in trap mode, 64 slots included. -/
theorem meets_SyscAndSaveArea :
    allClear .first id [.sysc (plain 14#4) (fx 771#10 643#10 643#10 643#10 1#32)] = true ∧
    (let k : Instr := .ksave (plain 14#4) (fx 0#10 643#10 643#10 643#10 0#32)
     let l : Instr := .kload (plain 14#4) (fx 0#10 643#10 643#10 643#10 0xFC0#32)
     Meets .once (fun _ _ => True) k (setUp (fun s => trapped (s.modWarp 0 (withV 1#4))) k) ∧
     Meets .once (fun _ _ => True) l (setUp (fun s => trapped (s.modWarp 0 (withV 1#4))) l)) := by
  refine ⟨by decide, Meets.intro ?_ trivial, Meets.intro ?_ trivial⟩ <;> decide

/-- PrivilegedNeedTrapMode: each privileged instruction outside trap mode, and a VADD of kv registers, the checks that
come first passing. -/
def privilegedHere (i : Instr) (s : State) : Bool :=
  let q := issueOf s
  let w := s.warp q.warp
  s.cur.isSome && !w.trapMode && !q.checked && !q.todo.isEmpty &&
    q.lines.all (fun x => parityOk x.2 && lineWordOk x.2) &&
    (issueWords q (q.todo.headD 0) i).all (fun x => match x.2 with
      | some y => !isRep y && !undefinedOp y && roleMay w.role y.opNum &&
          encodingOk w (s.warpLaunch q.warp).info.planeCount (q.line x.1) (slotNum q.offset) x.2
      | none => false) && planesAgree q.lines (slotNum q.offset)
theorem meets_PrivilegedNeedTrapMode :
    let kv : Instr := .vadd (plain 0#4) (fv 644#10 2#10 3#10 643#10)
    [Instr.eret (plain 14#4) (fx 643#10 643#10 643#10 643#10 0#32),
     .ksave (plain 14#4) (fx 0#10 643#10 643#10 643#10 0#32),
     .kload (plain 14#4) (fx 0#10 643#10 643#10 643#10 0#32), kv].all (fun i => privilegedHere i (before id i)) = true ∧
    namesKv (Instr.fields kv) = true := by
  decide

/-- UndefinedOpcodesAndRoles: instructions of classes that a role may not issue, one of class 100 among them, the lines
whole and no word undefined; and an undefined opcode, with a handler and without. -/
theorem meets_UndefinedOpcodesAndRoles :
    let role (n : BitVec 2) (w : Warp) : Warp := { w with role := n }
    let whole (s : State) : Bool :=
      let q := issueOf s
      s.cur.isSome && !q.checked && !q.todo.isEmpty && q.lines.all (fun x => parityOk x.2 && lineWordOk x.2)
    let fits (n : BitVec 2) (i : Instr) : Bool :=
      let s := before (role n) i
      let q := issueOf s
      whole s && !roleMay (s.warp q.warp).role i.opNum &&
        (issueWords q (q.todo.headD 0) i).all (fun x => x.2.all (fun y => !undefinedOp y &&
          (!isRep y || !undefinedOp (instrAt (q.line x.1) (slotNum q.offset + 1)))))
    let undef : Instr := .undefinedMajorOpcode 0x15F00E000000000000000000#96
    fits 0#2 (.vadd (plain 0#4) (fv 1#10 2#10 3#10 643#10)) = true ∧
    fits 1#2 (.xscan (plain 0#4) (fx 8#10 4#10 771#10 643#10 0#32)) = true ∧
    fits 2#2 (.mma (plain 10#4) (fv 808#10 16#10 809#10 808#10)) = true ∧
    fits 2#2 (.tcopy (plain 14#4) (fx 710#10 800#10 788#10 643#10 0#32)) = true ∧
    fits 1#2 (.regroup (plain 14#4) (fx 0#10 643#10 643#10 643#10 0x80#32)) = true ∧
    fits 0#2 (.vld (plain 0#4) (fm 1#10 705#10 0#10 2#3)) = true ∧
    fits 1#2 (.vst (plain 14#4) (fm 1#10 705#10 0#10 2#3)) = true ∧
    fits 0#2 (.frcp (plain 6#4) (fv 1#10 2#10 643#10 643#10)) = true ∧
    whole (before (role 2#2) undef) = true ∧ whole (setUp handled undef) = true ∧
    ((setUp handled undef).warp 0).trapMode = false ∧ ((setUp handled undef).warpLaunch 0).handler ≠ 0#80 := by decide

/-! ## Memory -/

/-- One lane, at a1 = 0x11000 in the mapped page. -/
def lane0 (w : Warp) : Warp :=
  { withA 0x11000#80 (withV 0#4 w) with
    live := 1#96, splits := [(0, { Split.free with valid := true, members := 1#96, active := 1#96 })] }

/-- The page at 0x10000 reaches a package over the UALink fabric. -/
def overFabric (s : State) : State :=
  s.modCore 0 (fun c => { c with tlb := c.tlb ++ [{ asn := 1, big := false, page := 2, leaf := 0x000000000002041F#64 }] })

/-- The accesses of an instruction can all be made, as translation answers now. -/
def grantedNow (c : Ctx) (f : FM) (a : Access) (bus : Bool) (xs : List (Nat × A80)) (s : State) : Bool :=
  !xs.isEmpty && !orderWaits (s.warp c.k) c.q.wb f.ord.toNat f.scope.toNat &&
  !l1Stalled s (coreOf c.k) (s.fused c.k) &&
  gatewayLoad s (coreOf c.k) + (xs.filter (fun x => (laneTrans s c.k c.e x.2 a bus).isFabric)).length ≤ 8192 &&
  xs.all (fun x => x.2.toNat % 2 ^ f.width.toNat == 0 && match laneTrans s c.k c.e x.2 a bus with
      | .fabric _ _ _ => true
      | .go p => (!(isAcquire f && f.scope != 0#3) || promoPending s p.key (coreOf c.k) == none) &&
          (!(isRelease f && f.scope == 0#3) || !recordStalled s p.key (coreOf c.k))
      | _ => false)

theorem granted_of {c : Ctx} {f : FM} {a : Access} {bus : Bool} {xs : List (Nat × A80)} {s : State}
    (h : grantedNow c f a bus xs s = true) : ∃ tr, granted c f a bus xs tr s := by
  refine ⟨fun va => laneTrans s c.k c.e va a bus, ?_⟩
  simp only [grantedNow, Bool.and_eq_true, Bool.not_eq_true', List.all_eq_true, decide_eq_true_eq] at h
  obtain ⟨⟨⟨⟨h1, h2⟩, h3⟩, h4⟩, h5⟩ := h
  refine ⟨by intro hx; simp [hx] at h1, h2, h3, h4, fun x hx => ?_⟩
  obtain ⟨h6, h7⟩ := h5 x hx
  refine ⟨by simpa using h6, rfl, ?_⟩
  revert h7
  cases hL : laneTrans s c.k c.e x.2 a bus with
  | go p =>
    intro h8
    simp only [Bool.and_eq_true] at h8
    exact Or.inr ⟨p, hL, fun ha hs => by simpa [ha, hs] using h8.1, fun hr hs => by simpa [hr, hs] using h8.2⟩
  | fabric n p poa => exact fun _ => Or.inl ⟨n, p, poa, hL⟩
  | _ => simp

/-- An acquire of die scope. -/
def acquires (f : FM) : FM := { f with ord := 1#3, scope := 2#3 }

/-- GlobalLoadsComplete: VLD plain, through L1 and past it, as an acquire, of every width, and over the fabric; VLDF;
SLD; and the forms without a live lane. -/
theorem meets_GlobalLoadsComplete :
    let m (w : BitVec 3) : FM := fm 1#10 705#10 0#10 w
    let vec (pair : Bool) (f : FM) (c : Ctx) (s : State) : Prop :=
      ∃ tr, granted c f .read true (byLane c f pair f.offset.toInt) tr s
    let sc (f : FM) (c : Ctx) (s : State) : Prop := ∃ tr, granted c f .read true (byScalar c f f.offset.toInt) tr s
    let s (i : Instr) : State := before lane0 i
    let vld (f : FM) : Instr := .vld (plain 0#4) f
    let remote : FM := fm 1#10 705#10 0#10 2#3 0#2 0x10000#24
    Meets .vec (vec false (m 2#3)) (vld (m 2#3)) (s (vld (m 2#3))) ∧
    Meets .vec (vec false (m 0#3)) (vld (m 0#3)) (s (vld (m 0#3))) ∧
    Meets .vec (vec false (m 4#3)) (.vld (plain 14#4) (m 4#3)) (s (.vld (plain 14#4) (m 4#3))) ∧
    Meets .vec (vec false (acquires (m 2#3))) (vld (acquires (m 2#3))) (s (vld (acquires (m 2#3)))) ∧
    Meets .vec (vec false remote) (vld remote) (setUp (fun s => overFabric (s.modWarp 0 lane0)) (vld remote)) ∧
    Meets .vec (vec true (fm 1#10 705#10 2#10 2#3)) (.vldf (plain 0#4) (fm 1#10 705#10 2#10 2#3))
      (s (.vldf (plain 0#4) (fm 1#10 705#10 2#10 2#3))) ∧
    Meets .scal (sc (fm 771#10 705#10 643#10 2#3)) (.sld (plain 0#4) (fm 771#10 705#10 643#10 2#3))
      (s (.sld (plain 0#4) (fm 771#10 705#10 643#10 2#3))) ∧
    Meets .vec (fun c _ => c.live = 0#96) (.vld (never 0#4) (m 2#3)) (s (.vld (never 0#4) (m 2#3))) ∧
    Meets .vec (fun c _ => c.live = 0#96) (.vldf (never 0#4) (fm 1#10 705#10 2#10 2#3))
      (s (.vldf (never 0#4) (fm 1#10 705#10 2#10 2#3))) := by
  refine ⟨Meets.intro ?_ (granted_of ?_), Meets.intro ?_ (granted_of ?_), Meets.intro ?_ (granted_of ?_),
    Meets.intro ?_ (granted_of ?_), Meets.intro ?_ (granted_of ?_), Meets.intro ?_ (granted_of ?_),
    Meets.intro ?_ (granted_of ?_), Meets.intro ?_ ?_, Meets.intro ?_ ?_⟩ <;> decide

/-- GlobalStoresComplete: VST plain and as a release, VSTF, SST, and the forms without a live lane. The plain forms past
L1 meet StoresChangeTheirBytesOnly as well. -/
theorem meets_GlobalStoresComplete :
    let m : FM := fm 1#10 705#10 0#10 2#3 3#2
    let rel : FM := { fm 1#10 705#10 0#10 2#3 with ord := 2#3, scope := 2#3 }
    let vec (pair : Bool) (f : FM) (c : Ctx) (s : State) : Prop :=
      ∃ tr, granted c f .write true (byLane c f pair f.offset.toInt) tr s
    let sc (f : FM) (c : Ctx) (s : State) : Prop := ∃ tr, granted c f .write true (byScalar c f f.offset.toInt) tr s
    let s (i : Instr) : State := before lane0 i
    Meets .vec (vec false m) (.vst (plain 14#4) m) (s (.vst (plain 14#4) m)) ∧
    Meets .vec (vec false rel) (.vst (plain 14#4) rel) (s (.vst (plain 14#4) rel)) ∧
    Meets .vec (vec true (fm 1#10 705#10 2#10 2#3)) (.vstf (plain 14#4) (fm 1#10 705#10 2#10 2#3))
      (s (.vstf (plain 14#4) (fm 1#10 705#10 2#10 2#3))) ∧
    Meets .scal (sc (fm 771#10 705#10 643#10 2#3 3#2)) (.sst (plain 14#4) (fm 771#10 705#10 643#10 2#3 3#2))
      (s (.sst (plain 14#4) (fm 771#10 705#10 643#10 2#3 3#2))) ∧
    Meets .vec (fun c _ => c.live = 0#96) (.vst (never 14#4) m) (s (.vst (never 14#4) m)) ∧
    Meets .vec (fun c _ => c.live = 0#96) (.vstf (never 14#4) (fm 1#10 705#10 2#10 2#3))
      (s (.vstf (never 14#4) (fm 1#10 705#10 2#10 2#3))) := by
  refine ⟨Meets.intro ?_ (granted_of ?_), Meets.intro ?_ (granted_of ?_), Meets.intro ?_ (granted_of ?_),
    Meets.intro ?_ (granted_of ?_), Meets.intro ?_ ?_, Meets.intro ?_ ?_⟩ <;> decide

/-- StoresChangeTheirBytesOnly: under each CACHE and as a release, the stores, and the loads, in a state whose reads find
no soft error, with its memory canonical; an address that no L1 holds dirty and that no lane stores to. -/
theorem meets_stores_frame_cached :
    let s (i : Instr) : State := before lane0 i
    let quiet (i : Instr) : Bool := readState i (s i) (issueOf (s i)) == s i && (s i).memoryWf
    let m (c : BitVec 2) : FM := fm 1#10 705#10 0#10 2#3 c
    let rel : FM := { m 0#2 with ord := 2#3, scope := 2#3 }
    let g (f : FM) (a : Access) (pair : Bool) (i : Instr) : Bool :=
      let c := passCtx (s i) (issueOf (s i)) i .vec
      quiet i && grantedNow c f a true (byLane c f pair f.offset.toInt) (s i)
    [0#2, 1#2, 2#2, 3#2].all (fun c => g (m c) .write false (.vst (plain 14#4) (m c)) &&
      g (m c) .read false (.vld (plain 0#4) (m c))) = true ∧
    g rel .write false (.vst (plain 14#4) rel) = true ∧
    g (fm 1#10 705#10 2#10 2#3) .write true (.vstf (plain 14#4) (fm 1#10 705#10 2#10 2#3)) = true ∧
    g (fm 1#10 705#10 2#10 2#3) .read true (.vldf (plain 0#4) (fm 1#10 705#10 2#10 2#3)) = true ∧
    (let i : Instr := .sld (plain 0#4) (fm 771#10 705#10 643#10 2#3)
     quiet i = true ∧ ((s i).core 0).l1 = [] ∧ gkey 0 0 0x11000 + 4 ≤ 0x20000) := by decide

/-- StoresChangeTheirBytesOnly and RegisterInstructionsKeepTheRest: a state whose reads find no soft error, with its
memory canonical. -/
theorem meets_stores_frame :
    let i : Instr := .vst (plain 14#4) (fm 1#10 705#10 0#10 2#3 3#2)
    let j : Instr := .sst (plain 14#4) (fm 771#10 705#10 643#10 2#3 3#2)
    let s := before lane0 i
    let t := before lane0 j
    (readState i s (issueOf s) = s ∧ s.memoryWf = true) ∧ (readState j t (issueOf t) = t ∧ t.memoryWf = true) ∧
    regionIs State.reset 0x1000 .unbacked = false := by decide

/-- GlobalAtomicsComplete: VATOM with an acquire and release of die scope, a swap of two words, SATOM, and VATOM
without a lane. -/
theorem meets_GlobalAtomicsComplete :
    let off (f : FM) : Int := (f.offset.setWidth 14).toInt
    let bus (f : FM) : Bool := f.fn == 0#4 || f.fn == 6#4 || f.fn == 7#4
    let vec (f : FM) (c : Ctx) (s : State) : Prop :=
      ∃ tr, granted c f .atomic (bus f) (byLane c f false (off f)) tr s
    let sc (f : FM) (c : Ctx) (s : State) : Prop := ∃ tr, granted c f .atomic (bus f) (byScalar c f (off f)) tr s
    let a : FM := { fm 1#10 705#10 0#10 2#3 with ord := 3#3, scope := 2#3, offset := 0x008008#24 }
    let b : FM := { fm 4#10 705#10 0#10 3#3 with ord := 4#3, scope := 2#3, fn := 7#4, offset := 0x008008#24 }
    let u : FM := { fm 771#10 705#10 643#10 2#3 with ord := 4#3, scope := 2#3, offset := 0xC13FF8#24 }
    let s (i : Instr) : State := before lane0 i
    Meets .vec (vec a) (.vatom (plain 0#4) a) (s (.vatom (plain 0#4) a)) ∧
    Meets .vec (vec b) (.vatom (plain 1#4) b) (s (.vatom (plain 1#4) b)) ∧
    Meets .scal (sc u) (.satom (plain 0#4) u) (s (.satom (plain 0#4) u)) ∧
    Meets .vec (fun c _ => c.live = 0#96) (.vatom (never 0#4) a) (s (.vatom (never 0#4) a)) := by
  refine ⟨Meets.intro ?_ (granted_of ?_), Meets.intro ?_ (granted_of ?_), Meets.intro ?_ (granted_of ?_),
    Meets.intro ?_ ?_⟩ <;> decide

theorem no_lanes {m : Lanes} {P : Nat → Prop} (h : m = 0#96) : ∀ l, m.getLsbD l = true → P l := by
  intro l hl
  simp [h] at hl

/-- Shared memory of 8,192 bytes and 4,096 accumulator words. -/
def roomy (s : State) : State :=
  (s.modWarp 0 lane0).modLaunch 0 (fun l => { l with info := { l.info with shared := 8192, accum := 4096 } })

/-- SharedMemoryAccessesComplete: each instruction at the last offset that its bounds admit, and without a lane. -/
theorem meets_SharedMemoryAccessesComplete :
    let m (off : BitVec 24) : FM := fm 1#10 643#10 0#10 2#3 0#2 off
    let a : FM := { fm 1#10 643#10 0#10 2#3 with ord := 4#3, offset := 0x009FFC#24 }
    let pre (f : FM) (off : Int) (lim : State → Ctx → Nat) (c : Ctx) (s : State) : Prop :=
      sharedFree c f off (lim s c) s ∧ (c.live = 0#96 ∨ xdecOut s c.k = false)
    let shared (s : State) (c : Ctx) : Nat := (s.warpLaunch c.k).info.shared
    let sarea (s : State) (c : Ctx) : Nat := (s.warpLaunch c.k).info.sarea
    let ld : Instr := .vldsh (plain 0#4) (m 0x1FFC#24)
    let st : Instr := .vstsh (plain 14#4) (m 0x1FFC#24)
    let no : Instr := .vstsh (never 14#4) (m 0x1FFD#24)
    let at' : Instr := .vatomsh (plain 0#4) a
    Meets .vec (pre (m 0x1FFC#24) 0x1FFC sarea) ld (setUp roomy ld) ∧
    Meets .vec (pre (m 0x1FFC#24) 0x1FFC shared) st (setUp roomy st) ∧
    Meets .vec (pre (m 0x1FFD#24) 0x1FFD shared) no (setUp roomy no) ∧
    Meets .vec (pre a 0x1FFC shared) at' (setUp roomy at') := by
  refine ⟨Meets.intro ?_ ⟨⟨lanes_of _ _ ?_, ?_⟩, ?_⟩, Meets.intro ?_ ⟨⟨lanes_of _ _ ?_, ?_⟩, ?_⟩,
    Meets.intro ?_ ⟨⟨no_lanes ?_, ?_⟩, ?_⟩, Meets.intro ?_ ⟨⟨lanes_of _ _ ?_, ?_⟩, ?_⟩⟩ <;> decide

/-- AccumulatorPrefetchAndFence: LDACC and STACC at the last word of the team, VPREF, and FENCE releasing and
acquiring at system scope, as the issue that has acted already, and without a lane. -/
theorem meets_AccumulatorPrefetchAndFence :
    let m : FM := fm 1#10 643#10 0#10 2#3 0#2 4095#24
    let ld : Instr := .ldacc (plain 0#4) m
    let st : Instr := .stacc (plain 14#4) m
    let f (n : BitVec 3) : FM := { fm 643#10 643#10 643#10 0#3 with ord := n, scope := 4#3 }
    let fence (n : BitVec 3) : Instr := .fence (plain 14#4) (f n)
    let pre (n : BitVec 3) (c : Ctx) (s : State) : Prop :=
      fenceWaits (s.warp c.k) n.toNat 4 = false ∧ l1Stalled s (coreOf c.k) (s.fused c.k) = false
    let done : Reissue :=
      { offset := 0, planes := 1#4, low := none, checked := true, pinned := true, mate := none,
        progress := { Progress.start with took := [(0, fence 3#3, 1#96)] } }
    let acted (s : State) : State := s.modWarp 0 (fun w => { lane0 w with reissues := [(0, done)] })
    let vpref : Instr := .vpref (plain 14#4) (fm 643#10 705#10 0#10 0#3)
    Meets .vec (accFree · m ·) ld (setUp roomy ld) ∧ Meets .vec (accFree · m ·) st (setUp roomy st) ∧
    Meets .vec (fun c s => l1Stalled s (coreOf c.k) (s.fused c.k) = false ∧
      (byLane c (fm 643#10 705#10 0#10 0#3) false 0).all (fun x =>
        warpTrans s c.k c.e x.2 .prefetch != .miss && warpTrans s c.k c.e x.2 .prefetch != .stall) = true)
      vpref (before lane0 vpref) ∧
    MeetsOwn .first deliveryPoint (pre 1#3) (fence 1#3) (before lane0 (fence 1#3)) ∧
    MeetsOwn .first deliveryPoint (pre 2#3) (fence 2#3) (before lane0 (fence 2#3)) ∧
    MeetsOwn .first deliveryPoint (pre 3#3) (fence 3#3) (before lane0 (fence 3#3)) ∧
    idlesNow .first (fence 3#3) (setUp acted (fence 3#3)) = true ∧
    idlesNow .first (.fence (never 14#4) (f 3#3)) (before lane0 (.fence (never 14#4) (f 3#3))) = true ∧
    ownPasses .first deliveryPoint (.fence (never 14#4) (f 3#3)) (before lane0 (.fence (never 14#4) (f 3#3))) = true ∧
    (let s := before (fun w => { lane0 w with fxa := 0x1F1F#32 }) (.fence (never 14#4) (f 3#3))
     let q := issueOf s
     let c := passCtx s q (.fence (never 14#4) (f 3#3)) .first
     s.cur.isSome = true ∧ q.checked = false ∧
     (issueFault (s.warp q.warp) (s.warpLaunch q.warp).info.planeCount q c.p (.fence (never 14#4) (f 3#3))).isNone ∧
     q.acted (s.warp q.warp) 0xE0 = false ∧ (s.warp c.k).trapMode = false ∧ (s.warp c.k).floatsOut = false ∧
     (s.warp c.k).fpPending = true) := by
  refine ⟨Meets.intro ?_ ⟨lanes_of _ _ ?_, ?_⟩, Meets.intro ?_ ⟨lanes_of _ _ ?_, ?_⟩, Meets.intro ?_ ?_,
    MeetsOwn.intro ?_ ?_, MeetsOwn.intro ?_ ?_, MeetsOwn.intro ?_ ?_, ?_, ?_, ?_, ?_⟩ <;> decide

/-! ## The matrix engine -/

/-- A team with two tiles, 65,536 accumulator words, its barrier, queues and endpoints; s8 holds the handle of
tile 0, which is ready, and s9 that of tile 1, which is filling. -/
def tileOf (fmt : BitVec 4) (st : TileState) : Tile :=
  { owner := 0, filled := 8192, bytes := 8192, dim1 := 64, dim0 := 16, pitch := 1, base := 0, readers := 0,
    sealed := false, gen := 1#10, fmt := fmt, state := st, fills := 0 }
def withTiles (fmt : BitVec 4) (s : State) : State :=
  ((((s.modWarp 0 (fun w => withS 9 0x41#32 (withS 8 0x40#32 (withV fmt w)))).modLaunch 0 (fun l =>
    { l with info := { l.info with shared := 8192, accum := 65536, tiles := 2, teams := 2 } })).modTeam 0 (fun t =>
    { t with tileMap := [0, 1], sharedBlocks := [0], accumBlocks := List.range 32 })).modCore 0 (fun c =>
    { c with tiles := [(0, tileOf fmt .ready), (1, tileOf fmt .filling)] }))

/-- A warp alone in its gang list, and a second warp of the team in slot 1. -/
def secondWarp (s : State) : State :=
  { s.modTeam 0 (fun t => { t with warpSlots := [0, 1] }) with
    warps := s.warps ++ [(1, { loadWarp 1#2 with warpid := 1 })] }

/-- GangsAndMultiplications: MMA and MMAP of a warp whose gang is itself; MGANG of no warp and of two; MCOLM of both
forms. -/
theorem meets_GangsAndMultiplications :
    let f := fv 771#10 0#10 776#10 643#10
    let fp : FV := fv 771#10 0#10 776#10 643#10 0#8
    let mma : Instr := .mma (plain 10#4) f
    let mmap : Instr := .mmap (plain 11#4) fp
    let x (e0 e1 e2 : RCode) (n : Word) : FX := fx e0 e1 e2 643#10 n
    let gang0 : Instr := .mgang (plain 14#4) (x 0#10 0#10 0#10 0#32)
    let gang2 : Instr := .mgang (plain 14#4) (x 2#10 0#10 0#10 0x100#32)
    let mcol : Instr := .mcolm (plain 14#4) (x 771#10 643#10 643#10 0#32)
    let mcols : Instr := .mcolm (plain 14#4) (x 771#10 643#10 643#10 7#32)
    let gangOk (ids : List Nat) (c : Ctx) (s : State) : Prop :=
      some1 c s ∧ (∀ y ∈ ids.map (mathsSlot s (s.warp c.k).team), y.isSome = true) ∧ ids.Nodup ∧
        (ids = [] ∨ (s.warp c.k).warpid ∈ ids)
    Meets .once (mayRelease mma f) mma (setUp (withTiles 10#4) mma) ∧
    Meets .once (mayRelease mmap fp) mmap (setUp (withTiles 11#4) mmap) ∧
    Meets .once (gangOk []) gang0 (before id gang0) ∧
    Meets .once (gangOk [0, 1]) gang2 (setUp secondWarp gang2) ∧
    Meets .once some1 mcol (before id mcol) ∧ Meets .once some1 mcols (before id mcols) := by
  refine ⟨Meets.intro ?_ ?_, Meets.intro ?_ ?_, Meets.intro ?_ ?_, Meets.intro ?_ ?_, Meets.intro ?_ ?_,
    Meets.intro ?_ ?_⟩ <;> (try unfold mayRelease) <;> (try unfold some1) <;> decide

/-- FragmentsAndBatches: MLDA of the ready tile, with a lane that takes part and with none; MZERO of some words and of none; MBATCH; MWAIT of the newest batch, of
the one 64 back, of those 65 and 32,768 back. -/
theorem meets_FragmentsAndBatches :
    let x (e0 e1 e2 : RCode) (n : Word) : FX := fx e0 e1 e2 643#10 n
    let mlda : Instr := .mlda (plain 10#4) (x 0#10 776#10 771#10 0#32)
    let mzero : Instr := .mzero (plain 14#4) (x 771#10 778#10 643#10 0#32)
    let mbatch : Instr := .mbatch (plain 14#4) (x 771#10 643#10 643#10 0#32)
    let mwait (n : Word) : Instr := .mwait (plain 14#4) (x 771#10 643#10 643#10 n)
    let gone (w : Warp) : Warp := { w with batchNext := 100#16, batchDone := 99#16 }
    let back (n : BitVec 16) (s : State) : Nat := ((s.warp 0).batchNext - n).toNat
    let open' (s : State) : Nat := ((s.warp 0).batchNext - 1#16 - (s.warp 0).batchDone).toNat
    let near (n : BitVec 16) (c : Ctx) (s : State) : Prop :=
      some1 c s ∧ 1 ≤ back n s ∧ back n s ≤ 64 ∧ open' s < back n s
    let far (n : BitVec 16) (c : Ctx) (s : State) : Prop := some1 c s ∧ 65 ≤ back n s ∧ back n s ≤ 32768
    let reads (any : Bool) (c : Ctx) (s : State) : Prop := c.any = any ∧ (s.warp c.k).acquireOut = false ∧
      readerCheck s (s.warp c.k).team (c.view.sval c.e 776) (some 10#4) = .issues
    let none' : Instr := .mlda (never 10#4) (x 0#10 776#10 771#10 0#32)
    Meets .once (reads true) mlda (setUp (withTiles 10#4) mlda) ∧
    Meets .once (reads false) none' (setUp (withTiles 10#4) none') ∧
    Meets .once (fun c s => some1 c s ∧ (c.view.sval c.e 778).toNat ≠ 0 ∧ (s.warp c.k).acquireOut = false ∧
        (c.view.sval c.e 771).toNat + (c.view.sval c.e 778).toNat ≤ (s.launchOf (s.warp c.k).team).info.accum ∧
        (s.core (coreOf c.k)).matrix.length < 16)
      mzero (setUp (fun s => (withTiles 10#4 s).modWarp 0 (withS 10 65536#32)) mzero) ∧
    Meets .once (fun c s => some1 c s ∧ (c.view.sval c.e 778).toNat = 0 ∧
        (c.view.sval c.e 771).toNat ≤ (s.launchOf (s.warp c.k).team).info.accum)
      mzero (setUp (withTiles 10#4) mzero) ∧
    Meets .once (fun c s => some1 c s ∧ open' s < 64) mbatch (before gone mbatch) ∧
    Meets .once (near 99#16) (mwait 99#32) (before gone (mwait 99#32)) ∧
    Meets .once (near 36#16) (mwait 36#32) (before gone (mwait 36#32)) ∧
    Meets .once (far 35#16) (mwait 35#32) (before gone (mwait 35#32)) ∧
    Meets .once (far 32868#16) (mwait 32868#32) (before gone (mwait 32868#32)) := by
  refine ⟨Meets.intro ?_ ?_, Meets.intro ?_ ?_, Meets.intro ?_ ?_, Meets.intro ?_ ?_, Meets.intro ?_ ?_, Meets.intro ?_ ?_,
    Meets.intro ?_ ?_, Meets.intro ?_ ?_, Meets.intro ?_ ?_⟩ <;> (try unfold some1) <;> decide

/-! ## Tiles -/

/-- TileInstructionsComplete: TALLOC of an EMPTY entry; TFREE of a READY tile and of a FILLING one; TREL; TSTAT. -/
theorem meets_TileInstructionsComplete :
    let x (e0 e1 e2 : RCode) (n : Word) : FX := fx e0 e1 e2 643#10 n
    let talloc : Instr := .talloc (plain 10#4) (x 771#10 778#10 643#10 0#32)
    let free (e : RCode) : Instr := .tfree (plain 14#4) (x e 643#10 643#10 0#32)
    let trel : Instr := .trel (plain 14#4) (x 777#10 643#10 643#10 1#32)
    let tstat : Instr := .tstat (plain 14#4) (x 771#10 776#10 643#10 0#32)
    let hd (c : Ctx) (e : Nat) : Word := c.view.sval c.e e
    let entry (c : Ctx) (s : State) (e : Nat) : Tile := s.tile (s.warp c.k).team (handleIndex (hd c e))
    let current (c : Ctx) (s : State) (e : Nat) : Prop := handleCurrent s (s.warp c.k).team (hd c e) = true
    let bare (s : State) : State :=
      ((withTiles 10#4 s).modWarp 0 (withS 10 0x100008#32)).modCore 0 (fun c => { c with tiles := [] })
    let g := withTiles 10#4
    Meets .first (fun c s => 0 < s.tileCount (s.warp c.k).team ∧ 1 ≤ (hd c 778).toNat % 2 ^ 16 ∧
        1 ≤ (hd c 778).toNat / 2 ^ 16 ∧ (hd c 778).toNat / 2 ^ 16 ≤ 4096 ∧ (hd c 643).toNat % 128 = 0 ∧
        (hd c 643).toNat + 128 * (((hd c 778).toNat % 2 ^ 16 * 8 + 1023) / 1024) * ((hd c 778).toNat / 2 ^ 16) ≤
          (s.launchOf (s.warp c.k).team).info.shared ∧ (s.tile (s.warp c.k).team 0).state = .empty)
      talloc (setUp bare talloc) ∧
    Meets .first (fun c s => current c s 776 ∧ (entry c s 776).state = .ready) (free 776#10) (setUp g (free 776#10)) ∧
    Meets .first (fun c s => current c s 777 ∧ (entry c s 777).state = .filling) (free 777#10)
      (setUp g (free 777#10)) ∧
    Meets .first (fun c s => current c s 777 ∧ (entry c s 777).state = .filling ∧ (entry c s 777).sealed = false)
      trel (setUp g trel) ∧
    Meets .first (fun _ _ => True) tstat (setUp g tstat) := by
  refine ⟨Meets.intro ?_ ?_, Meets.intro ?_ ?_, Meets.intro ?_ ?_, Meets.intro ?_ ?_, Meets.intro ?_ ?_⟩ <;> decide

/-! ## Queues, channels, VEER -/

/-- A declared queue with words in it, a declared send endpoint with credits and a receive endpoint with a full slot. -/
def withQueue (n credits : Nat) (s : State) : State :=
  (s.modTeam 0 (fun t => { t with
    sharedBlocks := [0], hqs := [(0, { ring := 0, decl := true, size := 32, count := n, head := 31 })]
    sends := [(0, { Endpoint.blank with decl := true, peer := 1, slots := 2, size := 64, cnt := credits })]
    recvs := [(0, { Endpoint.blank with decl := true, peer := 1, slots := 2, size := 64, cnt := credits })] })).modLaunch 0
    (fun l => { l with info := { l.info with shared := 8192, teams := 2 } })

/-- HandleQueuesComplete: a push with room for one more, a pop of the only word, HQTRY of a word and of none. -/
theorem meets_HandleQueuesComplete :
    let x (e : RCode) : FX := fx e 643#10 643#10 643#10 0#32
    let q (c : Ctx) (s : State) : HQueue := s.hq (s.warp c.k).team 0
    let push : Instr := .hqpush (plain 14#4) (x 771#10)
    let pop : Instr := .hqpop (plain 14#4) (x 771#10)
    let try' : Instr := .hqtry (plain 14#4) (x 771#10)
    let own (c : Ctx) (s : State) : PreCheck :=
      if (q c s).decl then .pass else .fault { cause := 0x14#8, va := 0#80, lanes := 0#96 }
    MeetsOwn .first own (fun c s => (q c s).count < (q c s).size ∧ arriveWaits s c.k 0 = false) push
      (setUp (withQueue 31 1) push) ∧
    MeetsOwn .first own (fun c s => (q c s).count ≠ 0) pop (setUp (withQueue 1 1) pop) ∧
    MeetsOwn .first own (fun c s => (q c s).count ≠ 0) try' (setUp (withQueue 32 1) try') ∧
    MeetsOwn .first own (fun c s => (q c s).count = 0) try' (setUp (withQueue 0 1) try') := by
  refine ⟨MeetsOwn.intro ?_ ?_, MeetsOwn.intro ?_ ?_, MeetsOwn.intro ?_ ?_, MeetsOwn.intro ?_ ?_⟩ <;> decide

/-- ChannelsAndVeerComplete: CSEND with one credit; CRECV freeing and taking; CPOLL both ways; VEER without a grant,
with one, and with the queue full, at both ends of its range. -/
theorem meets_ChannelsAndVeerComplete :
    let x (e : RCode) (n : Word) : FX := fx e 643#10 643#10 643#10 n
    let out (c : Ctx) (s : State) : Endpoint := s.send (s.warp c.k).team 0
    let into (c : Ctx) (s : State) : Endpoint := s.recv (s.warp c.k).team 0
    let send : Instr := .csend (plain 14#4) (x 771#10 0#32)
    let free : Instr := .crecv (plain 14#4) (x 643#10 16#32)
    let take : Instr := .crecv (plain 14#4) (x 771#10 0#32)
    let poll (n : Word) : Instr := .cpoll (plain 14#4) (x 771#10 n)
    let veer (n : Word) : Instr := .veer (plain 14#4) (x 771#10 n)
    let asks (n : Nat) (c : Ctx) : Prop := c.live ≠ 0#96 ∧ 4 ≤ n ∧ n ≤ 28
    let queue (c : Ctx) (s : State) : List Nat := (s.pkg (pkgOf (coreOf c.k))).turnQueue
    let grants (s : State) : State := s.modLaunch 0 (fun l => { l with granted := true })
    let full (s : State) : State := (grants s).modPkg 0 (fun p => { p with turnQueue := List.replicate 8 16 })
    let g := withQueue 1 1
    let own (x : Ctx → State → Endpoint) (c : Ctx) (s : State) : PreCheck :=
      if (x c s).decl then .pass else .fault { cause := 0x15#8, va := 0#80, lanes := 0#96 }
    MeetsOwn .first (own out) (fun c s => (c.view.sval c.e 771).toNat % 4 = 0 ∧
        (c.view.sval c.e 771).toNat + (out c s).size ≤ (s.warpLaunch c.k).info.sarea ∧ (out c s).closed = false ∧
        (out c s).cnt ≠ 0 ∧ (s.warp c.k).acquireOut = false ∧
        l1Stalled s (coreOf c.k) (s.fused c.k) = false) send (setUp g send) ∧
    MeetsOwn .first (own into) (fun _ _ => True) free (setUp g free) ∧
    MeetsOwn .first (own into) (fun c s => (into c s).cnt ≠ 0) take (setUp g take) ∧
    MeetsOwn .first (own into) (fun _ _ => True) (poll 0#32) (setUp g (poll 0#32)) ∧
    MeetsOwn .first (own out) (fun _ _ => True) (poll 16#32) (setUp g (poll 16#32)) ∧
    Meets .once (fun c s => asks 4 c ∧ (s.warpLaunch c.k).granted = false) (veer 4#32) (before id (veer 4#32)) ∧
    Meets .once (fun c s => asks 28 c ∧ (s.warpLaunch c.k).granted = true ∧ 8 ≤ (queue c s).length) (veer 28#32)
      (setUp full (veer 28#32)) ∧
    Meets .once (fun c s => asks 28 c ∧ (s.warpLaunch c.k).granted = true ∧ (queue c s).length < 8) (veer 28#32)
      (setUp grants (veer 28#32)) := by
  refine ⟨MeetsOwn.intro ?_ ?_, MeetsOwn.intro ?_ ?_, MeetsOwn.intro ?_ ?_, MeetsOwn.intro ?_ ?_, MeetsOwn.intro ?_ ?_,
    Meets.intro ?_ ?_, Meets.intro ?_ ?_, Meets.intro ?_ ?_⟩ <;> decide

/-! ## Copies -/

/-- n bytes, zero but for some values at offsets. -/
def bytesOf (n : Nat) (vs : List (Nat × Nat × Nat)) : List Byte :=
  (List.range n).map (fun i => BitVec.ofNat 8
    (vs.foldl (fun a v => if v.1 ≤ i ∧ i < v.1 + v.2.1 then v.2.2 / 256 ^ (i - v.1) else a) 0))

/-- A descriptor of 16 bytes of E5M2, one dimension (R397). -/
def tensor16 : List Byte :=
  bytesOf 256 [(0, 2, 1), (2, 1, 1), (3, 1, 10), (4, 1, 10), (6, 1, 4), (8, 4, 0x3F800000), (16, 10, 0x11000),
    (0x20, 4, 16), (0xE0, 2, 16)]

/-- Descriptors of a warp that have been read. -/
def hasDesc (ds : List (A80 × List Byte)) (w : Warp) : Warp :=
  { w with desc := ds.map (fun d => { entry := 0, va := d.1, len := d.2.length, returned := true, bytes := d.2, poisoned := false }) }

/-- s12 names team 0 and s13 a mask of one team. -/
def copyState (mask : Word) (s : State) : State :=
  (withTiles 10#4 s).modWarp 0 (fun w =>
    hasDesc [(0x12000#80, tensor16)] (withS 13 mask (withA 0x12000#80 { w with role := 0#2 })))

theorem none_named {b : Option Nat} {P : Nat → Prop} (h : b = none) : ∀ n, b = some n → P n := by
  intro n hn
  simp [h] at hn

/-- CopyInstructionsComplete: TCOPY and TGATHER into the filling tile, TSTORE from the ready one, TMCAST to the team
itself and to none, TPREF. -/
theorem meets_CopyInstructionsComplete :
    let x (e2 e3 : RCode) : FX := fx 705#10 800#10 e2 e3 0#32
    let pre (f : FX) (k : CopyKind) (c : Ctx) (s : State) : Prop :=
      some1 c s ∧ hasRead c s (c.view.aval f.e0.toNat) 256 256 tensor16 ∧ copyFree c f (newCopy c f k tensor16 s) s
    let tcopy : Instr := .tcopy (plain 14#4) (x 777#10 643#10)
    let tstore : Instr := .tstore (plain 14#4) (x 776#10 643#10)
    let tgather : Instr := .tgather (plain 14#4) (x 777#10 771#10)
    let tmcast : Instr := .tmcast (plain 14#4) (x 777#10 780#10)
    let tpref : Instr := .tpref (plain 14#4) (x 643#10 643#10)
    let s (i : Instr) : State := setUp (copyState 1#32) i
    Meets .once (pre (x 777#10 643#10) .tcopy) tcopy (s tcopy) ∧
    Meets .once (pre (x 776#10 643#10) .tstore) tstore (s tstore) ∧
    Meets .once (pre (x 777#10 771#10) .tgather) tgather (s tgather) ∧
    Meets .once (pre (x 777#10 780#10) .tmcast) tmcast (s tmcast) ∧
    Meets .once (pre (x 643#10 643#10) .tpref) tpref (s tpref) ∧
    Meets .once (fun c s =>
        let f := x 777#10 780#10
        let q := newCopy c f .tmcast tensor16 s
        some1 c s ∧ hasRead c s (c.view.aval f.e0.toNat) 256 256 tensor16 ∧ q.mask = 0#16 ∧
        tensorOk tensor16 ((lget q.coords 0).getD 0#32).toInt false = true ∧
        (c.view.sval c.e (f.e3.toNat + 1)).extractLsb' 16 16 = 0#16 ∧ ∀ b, q.bar = some b → b < s.barCount q.team)
      tmcast (setUp (copyState 0#32) tmcast) := by
  refine ⟨Meets.intro ?_ ⟨?_, ?_, ⟨?_, ?_, ?_, ?_, none_named ?_, ?_⟩⟩,
    Meets.intro ?_ ⟨?_, ?_, ⟨?_, ?_, ?_, ?_, none_named ?_, ?_⟩⟩,
    Meets.intro ?_ ⟨?_, ?_, ⟨?_, ?_, ?_, ?_, none_named ?_, ?_⟩⟩,
    Meets.intro ?_ ⟨?_, ?_, ⟨?_, ?_, ?_, ?_, none_named ?_, ?_⟩⟩,
    Meets.intro ?_ ⟨?_, ?_, ⟨?_, ?_, ?_, ?_, none_named ?_, ?_⟩⟩,
    Meets.intro ?_ ⟨?_, ?_, ?_, ?_, ?_, none_named ?_⟩⟩ <;> (try unfold some1) <;> (try unfold hasRead) <;> decide

/-! ## Collectives -/

/-- A group of one member, this team, with its completion words at 0x13000 (R439), and a REPART of no items in it
(R459). -/
def groupHead : List Byte := bytesOf 64 [(0, 2, 1), (2, 2, 1), (0xC, 4, 1), (0x10, 10, 0x13000)]
def groupWhole : List Byte := bytesOf 72 [(0, 2, 1), (2, 2, 1), (0xC, 4, 1), (0x10, 10, 0x13000)]
def repart0 : List Byte := bytesOf 128 [(0, 2, 1), (0x10, 10, 0x12000), (0x1A, 2, 8)]

/-- SEQ's place in the mapped page. -/
def seqHere : Place := { key := gkey 0 0 0x12008, port := 0, poa := false, far := false }

/-- A one-lane warp whose a1 points to the group or to the REPART descriptor, SEQ holding n. -/
def collState (a : A80) (n : Nat) (s : State) : State :=
  { (roomy s).modWarp 0 (fun w => hasDesc [(0x12000#80, groupHead), (0x12000#80, groupWhole), (0x14000#80, repart0)]
      { withA a w with role := if a = 0x14000#80 then 0#2 else w.role }) with
    mem := if n = 0 then [] else [(gkey 0 0 0x12008, BitVec.ofNat 8 n)] }

/-- What an engine read answers, tested. -/
def gives (a : EngineAns) (bs : List (Byte × Bool)) : Bool :=
  match a with
  | .bytes x => x == bs
  | _ => false
theorem bytes_of {a : EngineAns} {bs : List (Byte × Bool)} (h : gives a bs = true) : a = .bytes bs := by
  cases a <;> simp [gives] at h
  rw [h]

theorem few {n : Nat} {P : Prop} (h : n < 16) : 16 ≤ n → P := fun g => absurd g (by omega)

/-- CollectiveInstructionsComplete: CLRED, CLPUT and CLGET of one word as the group's first instance, CLPUT as its
seventeenth, and REPART. -/
theorem meets_CollectiveInstructionsComplete :
    let f : FX := fx 1#10 2#10 3#10 705#10 0x20000#32
    let x := groupOf groupWhole
    let pre (get : Bool) (c : Ctx) (s : State) : Prop :=
      inGroup c s (c.view.aval f.e3.toNat) groupHead groupWhole ∧ runsOk c f get x s ∧
        mayTake c seqHere (c.view.aval f.e3.toNat) x.compl (readRuns c.k 4 (!get) (named c f) s).2
    let clred : Instr := .clred (plain 0#4) f
    let clput : Instr := .clput (plain 14#4) f
    let clget : Instr := .clget (plain 14#4) f
    let repart : Instr := .repart (plain 14#4) (fx 705#10 643#10 643#10 643#10 0#32)
    let s (n : Nat) (i : Instr) : State := setUp (collState 0x12000#80 n) i
    Meets .once (pre false) clred (s 0 clred) ∧ Meets .once (pre false) clput (s 15 clput) ∧
    Meets .once (pre false) clput (s 16 clput) ∧ Meets .once (pre true) clget (s 0 clget) ∧
    Meets .once (fun c s => hasRead c s (c.view.aval 705) 128 128 repart0 ∧ repartOk repart0 = true ∧
        inGroup c s (repartOf repart0).group groupHead groupWhole ∧ repartWaits s c.k = false ∧
        mayTake c seqHere (repartOf repart0).group x.compl (releaseL1 (coreOf c.k) (s.fused c.k) 3 s)) repart (setUp (collState 0x14000#80 0) repart) := by
  refine ⟨Meets.intro ?_ ⟨⟨?_, ?_, ?_, ?_⟩, ⟨none_named ?_, ?_⟩, ⟨?_, ?_, ?_, ?_, few ?_⟩⟩,
    Meets.intro ?_ ⟨⟨?_, ?_, ?_, ?_⟩, ⟨none_named ?_, ?_⟩, ⟨?_, ?_, ?_, ?_, few ?_⟩⟩,
    Meets.intro ?_ ⟨⟨?_, ?_, ?_, ?_⟩, ⟨none_named ?_, ?_⟩, ⟨?_, ?_, ?_, ?_, fun _ =>
      ⟨List.replicate 4 (0#8, false), bytes_of ?_, ?_, ?_⟩⟩⟩,
    Meets.intro ?_ ⟨⟨?_, ?_, ?_, ?_⟩, ⟨none_named ?_, ?_⟩, ⟨?_, ?_, ?_, ?_, few ?_⟩⟩,
    Meets.intro ?_ ⟨?_, ?_, ⟨?_, ?_, ?_, ?_⟩, ?_, ⟨?_, ?_, ?_, ?_, few ?_⟩⟩⟩ <;>
    (try unfold hasRead) <;> decide

/-! ## Barriers -/

/-- A team of one warp with a barrier of one arrival, in a phase. -/
def withBar (b : Barrier) (s : State) : State :=
  ((s.modLaunch 0 (fun l => { l with info := { l.info with barT := 1 } })).modTeam 0 (fun t =>
    { t with barMap := [0] })).modCore 0 (fun c => { c with barriers := [(0, b)] })
def idle : Barrier := { Barrier.blank with initw := 0 }
def waits1 : Barrier := { Barrier.blank with initw := 2, arr := 1, ph := 7#16 }

/-- BarrierInstructionsComplete: BINIT with one warp and with bytes alone; BARV; BWAIT on the phase before and on the
one 32,768 back, and on the split's own; BEXP. -/
theorem meets_BarrierInstructionsComplete :
    let x (e0 e1 : RCode) : FX := fx e0 e1 643#10 643#10 0#32
    let binit : Instr := .binit (plain 14#4) (x 778#10 779#10)
    let barv : Instr := .barv (plain 14#4) (x 771#10 643#10)
    let bwait (e : RCode) : Instr := .bwait (plain 14#4) (x e 643#10)
    let bexp : Instr := .bexp (plain 14#4) (x 778#10 643#10)
    let f := x 778#10 779#10
    let sv (c : Ctx) (e : Nat) : Nat := (c.view.sval c.e e).toNat
    let pre (c : Ctx) (s : State) : Prop :=
      named1 c f s ∧ (barOf c f s).arr = 0 ∧ (barOf c f s).bytes = 0 ∧ (barOf c f s).up = false ∧
        sv c 778 ≤ s.warpsLeft (s.warp c.k).team ∧ (sv c 778 ≠ 0 ∨ sv c 779 ≠ 0)
    let g (b : Barrier) (n m : Word) (s : State) : State :=
      (withBar b s).modWarp 0 (fun w => withS 10 n (withS 11 m w))
    let wph (s : State) : State := (withBar waits1 s).modWarp 0 (fun w => w.setWph 0 (some 6#16))
    let passed (c : Ctx) (s : State) : Prop := named1 c f s ∧
      phaseDone (barOf c f s).ph (BitVec.ofNat 16 (sv c 778)) = true
    Meets .first pre binit (setUp (g idle 1#32 0#32) binit) ∧
    Meets .first pre binit (setUp (g idle 0#32 16#32) binit) ∧
    MeetsOwn .first delivers (fun c s => named1 c f s ∧ mayArrive c (scopeOf c f s) f s) barv
      (setUp (g waits1 0#32 0#32) barv) ∧
    MeetsOwn .first delivers passed (bwait 778#10) (setUp (g waits1 6#32 0#32) (bwait 778#10)) ∧
    MeetsOwn .first delivers passed (bwait 778#10) (setUp (g waits1 0x8007#32 0#32) (bwait 778#10)) ∧
    MeetsOwn .first delivers (fun c s => named1 c f s ∧
        phaseDone (barOf c f s).ph (((s.warp c.k).wph c.e).getD (barOf c f s).ph) = true) (bwait 643#10)
      (setUp wph (bwait 643#10)) ∧
    Meets .first (fun c s => named1 c f s ∧ (barOf c f s).expb + sv c 778 < 2 ^ 32) bexp
      (setUp (g waits1 0xFFFFFFFF#32 0#32) bexp) := by
  refine ⟨Meets.intro ?_ ?_, Meets.intro ?_ ?_, MeetsOwn.intro ?_ ?_, MeetsOwn.intro ?_ ?_, MeetsOwn.intro ?_ ?_,
    MeetsOwn.intro ?_ ?_, Meets.intro ?_ ?_⟩ <;> (try unfold named1) <;>
    (try unfold mayArrive) <;> decide

/-- BsyncAndRegroupComplete: BSYNC that has arrived and whose phase has completed; BSYNC that arrives last; REGROUP with
a range and without one. -/
theorem meets_BsyncAndRegroupComplete :
    let f := fx 778#10 643#10 643#10 643#10 0#32
    let bsync : Instr := .bsync (plain 14#4) f
    let rg (e : RCode) (n : Word) : Instr := .regroup (plain 14#4) (fx e 643#10 643#10 643#10 n)
    let g (b : Barrier) (n : Word) (s : State) : State := (withBar b s).modWarp 0 (withS 10 n)
    let x (c : Ctx) : Word := c.view.sval c.e 778
    let last : Barrier := { waits1 with arr := 1, initw := 2 }
    let flagged (c : Ctx) (s : State) : State :=
      (arrived c (scopeOf c f s) f s).modWarp c.k (fun w =>
        w.setS c.e 778 (0x10000#32 ||| (phaseOf c f s).setWidth 32))
    let pre (c : Ctx) (s : State) : Prop := (s.warp c.k).trapMode = false ∧ named1 c f s ∧
      (barOf c f s).level = .team ∧ mayArrive c 0 f s
    MeetsOwn .first delivers (fun c s => named1 c f s ∧ (x c).getLsbD 16 = true ∧
        phaseDone (barOf c f s).ph ((x c).extractLsb' 0 16) = true) bsync (setUp (g waits1 0x10006#32) bsync) ∧
    MeetsOwn .first delivers (fun c s => named1 c f s ∧ (x c).getLsbD 16 = false ∧
        mayArrive c (scopeOf c f s) f s ∧
        phaseDone ((flagged c s).bar (s.warp c.k).team (barNo f)).ph (phaseOf c f s) = true) bsync
      (setUp (g last 0#32) bsync) ∧
    Meets .once pre (rg 643#10 0#32) (setUp (g waits1 0#32) (rg 643#10 0#32)) ∧
    Meets .once pre (rg 0#10 0x780#32) (setUp (fun s => g waits1 0#32 (s.modWarp 0 (withV 1#4))) (rg 0#10 0x780#32)) := by
  refine ⟨MeetsOwn.intro ?_ ?_, MeetsOwn.intro ?_ ?_, Meets.intro ?_ ?_, Meets.intro ?_ ?_⟩ <;>
    (try unfold named1) <;> (try unfold mayArrive) <;> decide

/-! ## Events: each statement's clause with a state that meets its condition -/

/-- A machine with one warp, its team and its launch. -/
def base : State := loadWord State.reset nopWord
def core0 (g : Core → Core) (s : State) : State := s.modCore 0 g
def pkg0 (g : Package → Package) (s : State) : State := s.modPkg 0 g
def launch0 (g : Launch → Launch) (s : State) : State := s.modLaunch 0 g
def warp0 (g : Warp → Warp) (s : State) : State := s.modWarp 0 g

/-- A request of an XSCAN and a matrix command that zeroes a word. -/
def request (started : Bool) : XRequest :=
  { warp := 0, wb := 7, instr := .xscan (plain 0#4) (fx 8#10 4#10 771#10 643#10 0#32), lanes := 1#96,
    vsrcs := [VReg.zero], ssrcs := [0#32], started := started }
def zeroWord (started : Bool) : MatrixCmd :=
  { op := .zero 0 1, team := 0, members := [{ warp := 0, rows := 0#96, regs := [], batch := 1#16 }], tile := 0,
    reader := 0, dbase := 0, cbase := 0, columns := 0#256, started := started, writes := [], flags := 0#5, sat := false }

/-- OutstandingWorkEnds. -/
theorem meets_OutstandingWorkEnds :
    let wb : Writeback := { Writeback.blank 7 with byPipe := true }
    let s1 := warp0 (fun w => { w with pend := [Writeback.blank 7] }) base
    let s2 := warp0 (fun w => { w with acks := [{ id := 3, kind := .slice }] }) base
    let s3 (b : Bool) := core0 (fun c => { c with pipe := [request b] }) (warp0 (fun w => { w with pend := [wb] }) base)
    let s5 (b : Bool) := core0 (fun c => { c with matrix := [zeroWord b] }) base
    let s7 := core0 (fun c => { c with readers := [{ id := 1, tile := 0, finished := true }] }) base
    let d : DescRead := { entry := 0, va := 0x12000#80, len := 64, returned := false, bytes := [], poisoned := false }
    let s8 := warp0 (fun w => { w with desc := [d] }) base
    (lget (s1.warp 0).pend 0 = some (Writeback.blank 7) ∧ (Writeback.blank 7).holes = 0 ∧
      (Writeback.blank 7).byPipe = false ∧ ∀ y ∈ (s1.warp 0).reissues, y.2.produces 7 = false) ∧
    (lget (s2.warp 0).acks 0 = some { id := 3, kind := .slice } ∧ ∀ y ∈ (s2.pkg 0).fabric, y.id ≠ 3) ∧
    (s3 false).core 0 = { (s3 false).core 0 with pipe := [request false] } ∧
    ((s3 true).core 0 = { (s3 true).core 0 with pipe := [request true] } ∧
      (((onCore 0 (fun c => { c with pipe := [] }) (resolveStream (request true) (s3 true))).warp 0).pend.find?
        (fun y => y.id == 7)) = some wb) ∧
    ((s5 false).core 0).matrix = [zeroWord false] ∧ ((s5 true).core 0).matrix = [zeroWord true] ∧
    lget (s7.core 0).readers 0 = some { id := 1, tile := 0, finished := true } ∧
    ((s8.warp 0).desc.find? (fun y => !y.returned && y.len != 0) = some d ∧
      (match (readDescriptor 0 d s8).1 with | .bytes bs => bs.length | _ => 0) = 64) := by decide

/-- A copy of the one row of tensor16 into tile 1, at a row. -/
def copyCmd (kind : CopyKind) (row : Nat) : CopyCmd :=
  { id := 5, kind := kind, warp := 0, team := 0, desc := tensor16, coords := [], tile := 1, reader := 0, row0 := 0,
    bar := none, index := [], gd := 0, firstTeam := 0, mask := 0#16, level := 0, pin := false, rows := 1, nextRow := row,
    begun := false, place := 0, held := [], credit := 0, credits := [], inFlight := 0, dropped := [], stopped := none }

/-- CopiesAndChannelsDeliver. -/
theorem meets_CopiesAndChannelsDeliver :
    let s (k : CopyKind) (row : Nat) := core0 (fun c => { c with copies := [copyCmd k row] }) (withTiles 10#4 base)
    let m : McDelivery :=
      { core := 0, cmd := 5, launch := 0, toTeam := 0, tile := 1, row := 0, first := 0, bytes := [1#8], poison := [false] }
    let d : ChDelivery :=
      { launch := 0, fromTeam := 0, fromEp := 0, toTeam := 0, toEp := 0, slot := 0, bytes := [1#8], poison := [false],
        warp := 0, after := [] }
    let c : ChCredit := { launch := 0, toTeam := 0, toEp := 0 }
    let p := pkg0 (fun p => { p with multicasts := [m], chDeliveries := [d], chCredits := [c] }) (withQueue 1 1 base)
    (copyServed (s .tcopy 0) 0 0 = true ∧ lget ((s .tcopy 0).core 0).copies 0 = some (copyCmd .tcopy 0)) ∧
    (copyServed (s .tstore 0) 0 0 = true ∧ lget ((s .tstore 0).core 0).copies 0 = some (copyCmd .tstore 0)) ∧
    (copyServed (s .tpref 0) 0 0 = true ∧ lget ((s .tpref 0).core 0).copies 0 = some (copyCmd .tpref 0)) ∧
    ((s .tcopy 1).core 0 |> fun x => lget x.copies 0 = some (copyCmd .tcopy 1) ∧ (copyCmd .tcopy 1).stopped = none ∧
      (copyCmd .tcopy 1).rows ≤ (copyCmd .tcopy 1).nextRow ∧ (copyCmd .tcopy 1).inFlight = 0) ∧
    lget (p.pkg 0).multicasts 0 = some m ∧
    (deliveryDue p (p.pkg 0) 0 = true ∧ lget (p.pkg 0).chDeliveries 0 = some d ∧ (p.recv 0 0).decl = true ∧
      p.teamHeld 0 = true) ∧
    (lget (p.pkg 0).chCredits 0 = some c ∧ (p.send 0 0).decl = true ∧ p.teamHeld 0 = true) := by decide

/-- A launch of one team or two (the second reserved), its warp retired or not; an ending; a node's run that has been
replayed. -/
def retired (two : Bool) : State :=
  let s := warp0 (fun w => { w with retired := true }) base
  if two then { s with teams := s.teams ++ [(1, { loadTeam with number := 1, run := .reserved, warpSlots := [] })] } else s
def endReq : EndReq := { status := 0x20#8, cause := 0x1B#8, detail := 0#32, team := 0 }
def ending (replay : Bool) (replays : Nat) (s : State) : State :=
  pkg0 (fun p => { p with runs := [{ freshRun 0 0 (.running 0) with replays := replays }] })
    (launch0 (fun l => { l with ending := some endReq, replaying := replay }) s)

/-- The resident teams of launch 0. -/
def residents (s : State) : List Nat :=
  (s.teamsOf 0).filter (fun u => (s.team u).run == .running || (s.team u).run == .preempted)

/-- Region 0 of package 0's die 0 in a MIGRATING state, with a dirty line of it in core 0's L1. -/
def migrating0 (s : State) : State :=
  pkg0 (fun p => { p with dies := [(0, { (p.dieMap 0) with withdrawing := some 5, regions := [(0, .migrating)] })] }) s
def dirtyL1 (s : State) : State :=
  core0 (fun c => { c with l1 := [(0, { full := true, tag := gkey 0 0 0x11000 / 128, epoch := 0#32, dirty := 1#128,
                                        hint := 0#2, data := 0#1024, poison := 0#32 })] }) s
def fusel (s : State) : State := launch0 (fun l => { l with info := { l.info with fuse := true } }) s

/-- TeamsAndLaunchesEnd: the last team and one that is not, an ending with no replay, with two replays taken and with
three; the work of a replay outstanding and done; a state error, in a launch that ends already, that may be replayed and
that may not; arrivals short of all the teams and of all of them; a release to a running team and to a retired one;
pre-emption, and resumption with seats and without. -/
theorem meets_TeamsAndLaunchesEnd :
    let idle (s : State) : Prop := (s.team 0).run = .running ∧ (s.launch (s.team 0).launch).ending = none ∧
      engineWork s 0 = false ∧ freeStalled s 0 = false ∧ ∀ k ∈ s.teamWarps 0, (s.warp k).retired = true ∧ (s.warp k).pend = []
    let freed (s : State) : State := freeTeam 0 .retired (closeChannels 0 (discardQueues 0 s))
    let all (s : State) : Bool := ((freed s).teamsOf (s.team 0).launch).all (fun u => ((freed s).team u).run == .retired)
    let again (s : State) : Prop := (s.launch 0).replaying = true ∧ launchReplays s 0 < 3
    let stopped (s : State) : State := (residents s).foldl (fun v u => stopWarps u v) s
    let outstanding (s : State) : Bool := (residents s).any (fun u => engineWork (stopped s) u ||
      ((stopped s).teamWarps u).any (fun k =>
        !((stopped s).warp k).pend.isEmpty || !((stopped s).warp k).acks.isEmpty))
    let busy := ending true 2 (core0 (fun c => { c with matrix := [zeroWord true] }) base)
    let arr (two : Bool) := launch0 (fun l => { l with arrivals := [(0, 0)], releases := [(0, 0)], finished := false })
      (retired two)
    let gone := (arr false).modTeam 0 (fun t => { t with run := .retired })
    let part (s : State) : State := pkg0 (fun p => { p with runs := [{ freshRun 0 0 (.running 0) with
      record := some (bytesOf 256 [(0x80, 4, 1)]) }] }) s
    let waits (s : State) : Prop := (s.team 0).run = .preempted ∧ (s.launch (s.team 0).launch).ending = none
    let seats (s : State) : Option (List TeamSeat) :=
      resumeSeats s 0 (preemptGroup s 0).length (launchPart s (s.team 0).launch)
    let out := part ((preemptGroup base 0).foldl (fun v u => preemptOne u v) base)
    let full := pkg0 (fun p => { p with runs := [] }) out
    (idle (retired true) ∧ all (retired true) = false) ∧ (idle (retired false) ∧ all (retired false) = true) ∧
    (((ending true 2 base).launch 0).ending = some endReq ∧ ((ending true 2 base).launch 0).finished = false ∧
      again (ending true 2 base) ∧ outstanding (ending true 2 base) = false) ∧
    (((ending false 0 base).launch 0).finished = false ∧ ¬again (ending false 0 base) ∧
      (residents (ending false 0 base)).all (fun u => !freeStalled (ending false 0 base) u) = true) ∧
    (((ending true 3 base).launch 0).finished = false ∧ ¬again (ending true 3 base) ∧
      (residents (ending true 3 base)).all (fun u => !freeStalled (ending true 3 base) u) = true) ∧
    (again busy ∧ outstanding busy = true) ∧
    (lget ((arr true).launch 0).arrivals 0 = some (0, 0) ∧
      (tget ((arr true).launch 0).combiners (combinerKey (arr true) 0 0)).getD 0 + 1 ≠
        (combinerTeams (arr true) 0 0).length) ∧
    (lget ((arr false).launch 0).arrivals 0 = some (0, 0) ∧
      (tget ((arr false).launch 0).combiners (combinerKey (arr false) 0 0)).getD 0 + 1 =
        (combinerTeams (arr false) 0 0).length) ∧
    (lget ((arr false).launch 0).releases 0 = some (0, 0) ∧ ((arr false).team 0).run = .running) ∧
    (lget (gone.launch 0).releases 0 = some (0, 0) ∧ (gone.team 0).run = .retired) ∧
    (∀ u ∈ preemptGroup base 0, mayPreempt base u = true) ∧
    (waits out ∧ (seats out).isSome = true ∧ (out.launch 0).info.fuse = false) ∧ (waits full ∧ seats full = none) := by
  decide

/-- TeamsAndLaunchesEnd: a state error, in a launch that ends already, that may be replayed and that may not; a FUSEL1
team whose end, and whose resume, wait, and a replay whose declared output lies in a MIGRATING region. -/
theorem meets_TeamsAndLaunchesEnd_stalls :
    ((base.team 0).run = .running ∧ (base.launch 0).ending = none ∧ (base.launch 0).replayable = false) ∧
    ((launch0 (fun l => { l with replayable := true }) base).launch 0).replayable = true ∧
    (((ending false 0 base).team 0).run = .running ∧ ((ending false 0 base).launch 0).ending ≠ none) ∧
    ((base.launch 0).outputs = [] ∧ freeStalled base 0 = false) ∧
    (let out := pkg0 (fun p => { p with runs := [{ freshRun 0 0 (.running 0) with
        record := some (bytesOf 256 [(0x80, 4, 1)]) }] }) ((preemptGroup base 0).foldl (fun v u => preemptOne u v) base)
     let f := dirtyL1 (migrating0 (fusel out))
     (f.team 0).run = .preempted ∧ (f.launch (f.team 0).launch).ending = none ∧ (f.launch 0).info.fuse = true ∧
       ((resumeSeats f 0 (preemptGroup f 0).length (launchPart f (f.team 0).launch)).map
         (fun ys => ys.any (fun y => l1Stalled f y.core true))) = some true) ∧
    freeStalled (dirtyL1 (migrating0 (fusel (retired false)))) 0 = true ∧
    (let s := migrating0 { ending true 2 (launch0 (fun l => { l with root := 0x20000 }) base) with
        mem := [(gkey 0 0 0x20000, 0x01#8), (gkey 0 0 0x20002, 0x02#8), (gkey 0 0 0x20008, 0x1F#8), (gkey 0 0 0x2000A, 0x01#8)] }
     rangeStalled s 0 0x20000 (0x10000#80, 16) = true) := by decide
/-- A CLPUT of one word by a group of one member, its team's shared memory being 8,192 bytes; the same of REPART. -/
def joinOf (q : CollParams) : CollJoin :=
  { CollJoin.blank 0 0 (groupOf groupWhole) q none with
    lanes := [{ lane := 0, member := 0, all := false, remote := 0, local_ := 0, data := [1#8, 2#8, 3#8, 4#8],
                poison := [false, false, false, false] }] }
def put1 : CollParams := .clput 1
def rep1 : CollParams := .repart 0 0 [0, 0, 0, 0, 0, 0, 0, 0] 0 8 0 0
def instOf (q : CollParams) (cs : Option (List Chunk)) : Inst :=
  { table := [0#64], number := 0#32, joins := [joinOf q], chunks := cs, status := 0, flags := 0#5, range := false,
    reruns := 0 }
def chunk0 : Chunk := Chunk.fresh 0 false 0
def withInst (q : CollParams) (cs : Option (List Chunk)) : State := { roomy base with insts := [(0, instOf q cs)] }

/-- A CLRED by two members of two packages, one word of member 0 the destination of both, in a state whose gateways hold
slots. -/
def red1 : CollParams := .clred 0#4 0 0 1
def instTwo (c : Chunk) : Inst :=
  { table := [0#64, 1#64], number := 0#32, joins := [joinOf red1, { joinOf red1 with member := 1, pkg := 1 }],
    chunks := some [c], status := 0, flags := 0#5, range := false, reruns := 0 }
def slotOf' (ms : List Nat) : CombSlot := { die := 0, inst := 0, chunk := 0, members := ms }
def withSlots (c : Chunk) (p : Nat) (es : List CombSlot) : State :=
  { (roomy base).modPkg p (fun x => { x with slots := es }) with insts := [(0, instTwo c)] }

/-- CollectivesRun, without the tree: the chunks formed; a member's part of a chunk; REPART's items read and, once read,
moved, with a member that has not sent, and to an address that faults; a deadline; a rerun; a member lost, in REPART too;
a member's completion. -/
theorem meets_CollectivesRun :
    let one (c : Chunk) : Option (List Chunk) := some [c]
    let s := withInst put1 none
    let t := withInst put1 (one chunk0)
    let r := withInst rep1 (one chunk0)
    let asked : Chunk := { chunk0 with asked := true }
    let late : Chunk := { chunk0 with late := [(0, 2)] }
    let done : Chunk := { chunk0 with done := true, got := [0] }
    let x := instOf put1 (one done)
    let e := withInst put1 (one done)
    let xr := instOf rep1 (one chunk0)
    let xm (is : List RepItem) (c : Chunk) : Inst :=
      { xr with joins := [{ joinOf rep1 with items := some is, nsrc := is.length }], chunks := one c }
    let rm (is : List RepItem) (c : Chunk) : State := { r with insts := [(0, xm is c)] }
    let item : RepItem := { key := 0, weight := 0, index := 0, poisoned := false }
    let heard : Chunk := { chunk0 with sent := [0], got := [0] }
    let mayMove (is : List RepItem) (c : Chunk) : Bool :=
      ((xm is c).chunks.getD []).all (fun h => !h.done &&
        (chunkSenders (rm is c) (xm is c) h).all (fun w => h.got.contains w || h.lost.contains w)) &&
      (xm is c).conforming.all (fun w => !joinDead (rm is c) w || (xm is c).lostMembers.contains w.member)
    let moved (is : List RepItem) : Option (Nat × EngineAns × Bool) :=
      (stepsUntil (repartSteps (rm is heard) (xm is heard)) (rm is heard)).1
    let u := creditJoin 0 x (joinOf put1) e
    (tget s.insts 0 = some (instOf put1 none) ∧ instReady s (instOf put1 none) = true) ∧
    formChunks s (instOf put1 none) = [chunk0] ∧
    ((instOf put1 (one chunk0)).peer 0 = some (joinOf put1) ∧ (joinOf put1).params.isRepart = false ∧
      maySend t (instOf put1 (one chunk0)) chunk0 0 = true ∧ (instOf put1 (one chunk0)).slotted = false) ∧
    (xr.peer 0 = some (joinOf rep1) ∧ (joinOf rep1).params.isRepart = true ∧ (joinOf rep1).items = none ∧
      maySend r xr chunk0 0 = true ∧
      (match (readItems (joinOf rep1) (List.range 0) r).1 with | .ok l => l.isEmpty | _ => false) = true) ∧
    (maySend (rm [] chunk0) (xm [] chunk0) chunk0 0 = true ∧
      (∀ w ∈ (xm [] chunk0).conforming, w.items ≠ none ∨ w.member ∈ (xm [] chunk0).lostMembers)) ∧
    (mayMove [] chunk0 = false ∧ mayMove [] heard = true ∧ (moved []).isNone = true ∧
      mayMove [item] heard = true ∧ (moved [item]).isSome = true) ∧
    (tget (withInst rep1 (one late)).insts 0 = some (instOf rep1 (one late)) ∧
      chunkOver (withInst rep1 (one late)) (instOf rep1 (one late)) late = false ∧
      ((instOf rep1 (one late)).governing.map (·.isRepart)) = some true ∧
      chunkOver (withInst put1 (one late)) (instOf put1 (one late)) late = false ∧
      ((instOf put1 (one late)).governing.map (·.isRepart)) = some false) ∧
    (chunk0.asked = false ∧ awaitsChunk t (instOf put1 (one chunk0)) chunk0 0 = true) ∧
    (asked.asked = true ∧ asked.done = false) ∧
    (0 ∉ late.sent ∧ 0 ∉ late.lost ∧ 2 ≤ (tget late.late 0).getD 0) ∧
    (x.join 0 = some (joinOf put1) ∧ instDone e x = true ∧ joinDead e (joinOf put1) = false ∧
      (joinOf put1).completed = false ∧ (joinOf put1).faulted = none ∧
      gives (writeRun 0 (u.launchOf 0) (0x13000#80 : A80)
        ((leBytes 16 (complWord x (joinOf put1))).map (fun b => (b, false))) u).1 [] = true) := by decide

/-- CollectivesRun, the tree: a packet that goes into a slot of its package's gateway, and one that is held back, all 4,096
being taken; one sent already; a slot that lacks a contribution, one that has them all, at the root and below it. -/
theorem meets_CollectivesRun_tree :
    let x := instTwo chunk0
    let sent : Chunk := { chunk0 with sent := [1] }
    let free := withSlots chunk0 1 []
    let full := withSlots chunk0 1 (List.replicate 4096 { die := 0, inst := 5, chunk := 0, members := [] })
    let inSlot (s : State) (at_ p : Nat) (ms : List Nat) : Prop :=
      treeGateway s x chunk0 at_ = some (p, 0) ∧
      (s.pkg p).slots.find? (fun f => f.inst == 0 && f.chunk == 0) = some (slotOf' ms)
    let whole (s : State) (at_ : Nat) (ms : List Nat) : Prop :=
      ∀ w ∈ chunkSenders s x chunk0, w ∉ chunk0.lost → passesBy 4 (treePos x chunk0 w) at_ = true → w ∈ ms
    let slotFor (s : State) : Option State :=
      (treeGateway s x chunk0 (treePos x chunk0 1)).bind (fun w => holdInSlot w.1 w.2 0 0 [1] s)
    ((x.peer 1).isSome = true ∧ maySend free x chunk0 1 = true ∧ (x.slotted && !chunk0.direct) = true) ∧
    (slotFor free).isSome = true ∧ (maySend full x chunk0 1 = true ∧ (slotFor full).isNone = true) ∧
    maySend (withSlots sent 1 [slotOf' [1]]) (instTwo sent) sent 1 = true ∧
    (inSlot (withSlots chunk0 1 [slotOf' []]) 1 1 [] ∧ ¬whole (withSlots chunk0 1 [slotOf' []]) 1 []) ∧
    (inSlot (withSlots chunk0 0 [slotOf' [0, 1]]) 0 0 [0, 1] ∧ whole (withSlots chunk0 0 [slotOf' [0, 1]]) 0 [0, 1]) ∧
    (inSlot (withSlots chunk0 1 [slotOf' [1]]) 1 1 [1] ∧ whole (withSlots chunk0 1 [slotOf' [1]]) 1 [1] ∧
      treeGateway (withSlots chunk0 1 [slotOf' [1]]) x chunk0
        (actingAbove (withSlots chunk0 1 [slotOf' [1]]) x chunk0 4 1) = some (0, 0)) := by decide

/-- A page table of one page: its root at 0x20000 points to itself down to the last level, whose entry 1 maps page 1
(R281, R283); n bytes beside it. -/
def cells (k : Nat) (bs : List Byte) : List (Nat × Byte) :=
  ((List.range bs.length).zip bs).filterMap (fun x => if x.2 = 0#8 then none else some (k + x.1, x.2))
def table1 : List (Nat × Byte) :=
  cells (gkey 0 0 0x20000) (bytesOf 16 [(0, 8, 0x20001), (8, 8, 0x1001F)])
def paged (lo : List (Nat × Byte)) (s : State) : State := { s with mem := lo ++ table1 }
def ring1 : Ring :=
  { base := 0x16000#80, logSlots := 4, root := 0x20000, asn := 1, tkey := 0#8, live := [], prefetched := [], torn := [] }

/-- A load over the fabric of package 0's ring 0, page 1. -/
def request1 (target : Nat) : FabricReq :=
  { id := 9, warp := 0, wb := 0, entry := 0, lane := 0, regs := [1], scalar := false, op := .load, target := target,
    offset := 0x11000, bytes := 4, tkey := 0#8, narrowSigned := false, place := some (gkey 0 0 0x11000), poa := false,
    acquires := false, tag := none }
def walk1 (page : Nat) (started : Bool) : Walk :=
  { core := 0, root := 0x20000, asn := 1, page := page, started := started, waiters := [(0, 0)], lines := [] }

/-- FabricWalksAndServices: a request that is first to its line, held for a promotion and served; a walk that may start,
one that finds a leaf, one that faults and one that meets a bad entry; a line that arrives, for the first time and for
the second; SYSC 1 and 3 in a quiet warp, and SYSC 2 of a node that may be replayed and of one that may not. -/
theorem meets_FabricWalksAndServices :
    let held : FabricReq := { request1 0 with acquires := true }
    let at' (r : FabricReq) := pkg0 (fun p => { p with fabric := [r] }) (paged [] base)
    let promo := promoRecord (gkey 0 0 0x11000) 1 false 0#32 (at' held)
    let first (r : FabricReq) (s : State) : Prop := lget (s.pkg 0).fabric 0 = some r ∧
      (∀ q ∈ (s.pkg 0).fabric.take 0, sameLine r q = false) ∧ regionIs s (gkey 0 0 0x11000) .migrating = false
    let w (page : Nat) (b : Bool) := pkg0 (fun p => { p with walks := [walk1 page b] }) (paged [] base)
    let reads (page : Nat) (s : State) := walkReads s 0 0x20000 (2 ^ 16 * page) (walkTkey s (walk1 page true))
    let struck : State := { w 1 true with memPoison := [(gkey 0 0 0x20008 / 4, 1#1)] }
    let f := warp0 (fun w => { w with frozen := [(0x10000, 0)] }) base
    let sysc (n : Nat) := warp0 (fun w => { w with park := .sysc n 0#32 0#32 0#32 }) base
    let again := launch0 (fun l => { l with replayable := true }) (sysc 2)
    let quiet (s : State) : Prop := (s.warp 0).acks = [] ∧ (∀ b ∈ (s.warp 0).pend, b.holes = 0) ∧
      (s.warpTeam 0).run = .running ∧ l1Stalled s (coreOf 0) (s.fused 0) = false
    (first held promo ∧ held.acquires = true ∧ (promoPending promo (gkey 0 0 0x11000) 0).isSome = true) ∧
    (first (request1 0) (at' (request1 0)) ∧ (request1 0).acquires = false) ∧
    (walkMayStart ((w 1 false).pkg 0) 0 = true ∧ lget ((w 1 false).pkg 0).walks 0 = some (walk1 1 false)) ∧
    (lget ((w 1 true).pkg 0).walks 0 = some (walk1 1 true) ∧ (walk1 1 true).started = true) ∧
    (walk (reads 1 (w 1 true)) 0 0x20000 (2 ^ 16 * 1) = .leaf 0x1001F#64 false ∧
      walk (reads 2 (w 2 true)) 0 0x20000 (2 ^ 16 * 2) = .fault 0x10#8 ∧
      walk (reads 1 struck) 0 0x20000 (2 ^ 16 * 1) = .bad) ∧
    (lget (f.warp 0).frozen 0 = some (0x10000, 0) ∧
      warpTrans f 0 fetchEntry 0x10000#80 .fetch = .ok { key := gkey 0 0 0x10000, port := 0, poa := false, far := false } ∧
      parityOk ((tget ((icacheFill 0 (gkey 0 0 0x10000 / 64) 0#8 f).core 0).icache
        (gkey 0 0 0x10000 / 64)).getD 0#512) = true) ∧
    ((sysc 1).warp 0).park = .sysc 1 0#32 0#32 0#32 ∧ quiet (sysc 1) ∧
    (((sysc 2).warp 0).park = .sysc 2 0#32 0#32 0#32 ∧ quiet (sysc 2) ∧ ((sysc 2).warpLaunch 0).replayable = false) ∧
    ((again.warp 0).park = .sysc 2 0#32 0#32 0#32 ∧ quiet again ∧ (again.warpLaunch 0).replayable = true) ∧
    (((sysc 3).warp 0).park = .sysc 3 0#32 0#32 0#32 ∧ quiet (sysc 3)) := by decide

/-- TimeScrubsAndModules: a warp whose set is staged and one whose set is to be, a split that is ready, in trap mode too, a sweep that is due, a turnaround with its module
taken and then drained, and a direction with fewer than eight modules. -/
theorem meets_TimeScrubsAndModules :
    let due := pkg0 (fun p => { p with sweepDue := [(1, true)] }) base
    let turn := pkg0 (fun p => { p with turnQueue := [12] }) base
    let taken (b : Bool) := pkg0 (fun p => { p with
      turnActive := some (15, false), modules := [(0, { toward1 := true, taken := true, drained := b })] }) base
    let low := pkg0 (fun p => { p with modules := (List.range 9).map (fun m =>
      (m, { toward1 := false, taken := false, drained := false })) }) base
    let apart := warp0 (withV 0#4) base
    let trap := trapped base
    ((tget base.warps 0).isSome = true ∧ (base.warp 0).unstaged (base.warp 0).ws = []) ∧
    ((tget apart.warps 0).isSome = true ∧ (apart.warp 0).unstaged (apart.warp 0).ws ≠ []) ∧
    ((base.warp 0).trapMode = false ∧ splitReady base 0 0 = true) ∧
    ((trap.warp 0).trapMode = true ∧ splitReady trap 0 (trap.warp 0).trapEntry = true) ∧
    (tget (due.pkg 0).sweepDue 1).getD false = true ∧
    ((turn.pkg 0).turnActive = none ∧ (turn.pkg 0).turnQueue = [12]) ∧
    (((taken false).pkg 0).module 0).taken = true ∧ (((taken false).pkg 0).module 0).drained = false ∧
    (((taken true).pkg 0).module 0).taken = true ∧ (((taken true).pkg 0).module 0).drained = true ∧
    (((low.pkg 0).carrying true).length < 8 ∧ decide (1 = 1) ∉ (low.pkg 0).guards) := by decide

/-! ## The front end and commands -/

/-- A node record of a kind, its words at 0x18000, its launch record at 0x15000 (R296, R297). -/
def node (kind value : Nat) : List Byte :=
  bytesOf 256 ([(0, 4, 1), (4, 1, kind), (0xF8, 4, 1), (0xFC, 1, kind), (0x70, 10, 0x19000)] ++
    (if 3 ≤ kind then [(0x40, 10, 0x18000)] else []) ++ (if kind = 1 then [(0x50, 10, 0x15000), (0x80, 4, 1)] else []) ++
    (if kind = 2 then [(0x50, 10, 0x18000), (0x60, 10, 0x18100)] else []) ++
    (if kind = 2 || kind = 5 || kind = 6 then [(0xA8, 8, value)] else []))
/-- A launch record of one epilogue warp of 32 registers (R18). -/
def launch1 : List Byte :=
  bytesOf 512 [(0, 2, 1), (2, 2, 512), (8, 10, 0x10000), (0x24, 2, 96), (0x2A, 1, 1), (0x38, 2, 1)]
/-- Ring 0 with a run of slot 0 in a phase, its record copied; a word at 0x18000 and the launch record in memory. -/
def fe (ph : NodePhase) (d : Option (List Byte)) (word : Byte) : State :=
  pkg0 (fun p => { p with rings := [(0, ring1)], runs := [{ freshRun 0 0 ph with record := d }] })
    (paged (cells (gkey 0 0 0x15000) launch1 ++ cells (gkey 0 0 0x18000) [word]) base)

/-- A run of slot 0 is ready, with the copy that it executes, of a kind that starts now. -/
def ready (kind value : Nat) (word : Byte) : Prop :=
  starts 0 0 0 kind 0 ring1 (node kind value) (fe .ready (some (node kind value)) word)
    (fe .ready (some (node kind value)) word)
theorem ready_of {kind value : Nat} {word : Byte}
    (h : (findRun (fe .ready (some (node kind value)) word) 0 0 0 (· == .ready) == some 0 &&
      (nodeOf (node kind value)).kind == kind &&
      (kind != 1 || !untriedAhead (fe .ready (some (node kind value)) word) 0 0 (nodeOf (node kind value)))) = true) :
    ready kind value word := by
  simp only [Bool.and_eq_true, beq_iff_eq, Bool.or_eq_true, bne_iff_ne, Bool.not_eq_true'] at h
  refine ⟨h.1.1, rfl, ⟨_, rfl, rfl⟩, ⟨_, rfl, rfl, rfl⟩, h.1.2, fun hk => ?_⟩
  rcases h.2 with h2 | h2
  · exact absurd hk h2
  · exact h2

/-- The table of one page is that of launch 0. -/
def owned (s : State) : State := launch0 (fun l => { l with root := 0x20000 }) (paged [] s)

/-- What firmware finds of a page: 0 mapped, 1000 an entry that cannot be read, else one more than the cause. -/
def foundIs (x : Except (Nat × Nat) (Option (BitVec 8))) : Nat :=
  match x with
  | .ok none => 0
  | .ok (some c) => 1 + c.toNat
  | .error _ => 1000

/-- FabricWalksAndServices, the replies to page faults of a warp, a copy and a collective: page 1 mapped, page 2 not, and
page 1 whose entry cannot be read. -/
theorem meets_FabricWalksAndServices_replies :
    let bad (s : State) : State :=
      { core0 (fun g => { g with tlb := [] }) s with memPoison := [(gkey 0 0 0x20008 / 4, 1#1)] }
    let f (va : A80) : FaultRec :=
      { entry := 0, cause := 0x10#8, pc := 0x100000000#64, more := false, va := va, lanes := 1#96, named := [(va, 0)]
        decoded := true
        stand := { offset := 0#32, planes := 1#4, low := none, checked := true, pinned := false, mate := none
                   progress := Progress.start } }
    let w (va : A80) := warp0 (fun w => { w with park := .pageFault (f va) }) (owned base)
    let c (va : A80) := core0 (fun g => { g with copies := [{ copyCmd .tcopy 0 with stopped := some (0x10#8, va) }] })
      (owned (withTiles 10#4 base))
    let j (va : A80) : State := { owned (roomy base) with
      insts := [(0, { instOf put1 (some [chunk0]) with joins := [{ joinOf put1 with faulted := some (0x10#8, va, true) }] })] }
    let one (s : State) (va : A80) (a : Access) : Nat := foundIs (mapsNow s 0 (s.launch 0) va a true)
    (((w 0x10000#80).warp 0).park = .pageFault (f 0x10000#80) ∧ ((w 0x10000#80).warpTeam 0).run = .running ∧
      one (w 0x10000#80) 0x10000#80 (Access.ofCode 0) = 0 ∧ one (w 0x20000#80) 0x20000#80 (Access.ofCode 0) = 0x11 ∧
      one (bad (w 0x10000#80)) 0x10000#80 (Access.ofCode 0) = 1000) ∧
    ((((c 0x10000#80).core 0).copies.find? (fun y => y.id == 5)).bind (·.stopped) = some (0x10#8, 0x10000#80) ∧
      one (c 0x10000#80) 0x10000#80 .read = 0 ∧ one (c 0x20000#80) 0x20000#80 .read = 0x11 ∧
      one (bad (c 0x10000#80)) 0x10000#80 .read = 1000) ∧
    (((tget (j 0x10000#80).insts 0).bind (fun x => x.join 0)).bind (·.faulted) = some (0x10#8, 0x10000#80, true) ∧
      one (j 0x10000#80) 0x10000#80 .write = 0 ∧ one (j 0x20000#80) 0x20000#80 .write = 0x11 ∧
      one (bad (j 0x10000#80)) 0x10000#80 .write = 1000) := by decide

/-- FabricWalksAndServices, the replies to page faults of the front end: a record that is whole, one whose page is not
mapped, a COND's and a WAIT's word read, a SIGNAL's written, and a WAIT's whose page is not mapped. -/
theorem meets_FabricWalksAndServices_frontEnd :
    let z (what : Nat) (d : Option (List Byte)) : NodeRun := { freshRun 0 0 (.waitFault 0x10#8 what 1) with record := d }
    let s (base' : A80) (what : Nat) (d : Option (List Byte)) : State :=
      pkg0 (fun p => { p with rings := [(0, { ring1 with base := base' })], runs := [z what d] })
        (paged (cells (gkey 0 0 0x16000) (node 0 0) ++ cells (gkey 0 0 0x18000) [5#8]) base)
    let again (what : Nat) (d : List Byte) : State := setRun 0 0 { z what (some d) with phase := .ready } (s 0x16000#80 what (some d))
    let far : List Byte := bytesOf 256 [(0, 4, 1), (4, 1, 6), (0x40, 10, 0x28000), (0xA8, 8, 5)]
    let word (n : Nat) : List (Byte × Bool) := (5#8, false) :: List.replicate (n - 1) (0#8, false)
    let isCopy (x : RecordRead) : Bool := match x with | .copy y => nodeOk y | _ => false
    let isFault (x : EngineAns) : Bool := match x with | .fault c _ => c == 0x10#8 | _ => false
    (((s 0x16000#80 feRecord none).runAt 0 0) = some (z feRecord none) ∧
      isCopy (readRecord 0 0 0 (s 0x16000#80 feRecord none)).1 = true ∧
      ((readRecord 0 0 0 (s 0x16000#80 feRecord none)).2.runAt 0 0) = some (z feRecord none)) ∧
    ((match (readRecord 0 0 0 (s 0x20000#80 feRecord none)).1 with | .fault c => c == 0x10#8 | _ => false) = true ∧
      ((readRecord 0 0 0 (s 0x20000#80 feRecord none)).2.runAt 0 0) = some (z feRecord none)) ∧
    (((z feCond (some (node 3 0))).node.kind = 3) ∧
      gives (feAcquire 0 ring1 0x18000#80 4 (again feCond (node 3 0))).1 (word 4) = true) ∧
    (((z feWait (some (node 6 5))).node.kind = 6) ∧
      gives (feAcquire 0 ring1 0x18000#80 8 (again feWait (node 6 5))).1 (word 8) = true) ∧
    (((z feSignal (some (node 5 7))).node.kind = 5) ∧ gives (feWrite 0 ring1 0x18000#80
      ((leBytes 8 7).map (fun b => (b, false))) (again feSignal (node 5 7))).1 [] = true) ∧
    (((z feWait (some far)).node.kind = 6) ∧ isFault (feAcquire 0 ring1 0x28000#80 8 (again feWait far)).1 = true ∧
      (feAcquire 0 ring1 0x28000#80 8 (again feWait far)).2.runAt 0 0 = some { z feWait (some far) with phase := .ready }) := by
  decide

/-- NodesAct: a node of each kind ready to start, the words that it reads, and a WAIT that reads again. -/
theorem meets_NodesAct_starts : ready 0 0 0#8 ∧ ready 1 0 0#8 ∧ ready 2 4 0#8 ∧ ready 3 0 1#8 ∧ ready 4 0 0#8 ∧
    ready 4 0 1#8 ∧ ready 5 7 0#8 ∧ ready 6 5 5#8 ∧ ready 6 5 4#8 := by
  refine ⟨ready_of ?_, ready_of ?_, ready_of ?_, ready_of ?_, ready_of ?_, ready_of ?_, ready_of ?_, ready_of ?_,
    ready_of ?_⟩ <;> decide
theorem meets_NodesAct_reads :
    let s (kind value : Nat) (w : Byte) := fe .ready (some (node kind value)) w
    let word (w : Byte) (n : Nat) : List (Byte × Bool) := (w, false) :: List.replicate (n - 1) (0#8, false)
    let k := feRead 0 ring1 0x15000#80 512 (s 1 0 0#8)
    let waits (w : Byte) := fe .waitWord (some (node 6 5)) w
    (gives k.1 (launch1.map (fun b => (b, false))) = true ∧ launchCode 0x15000#80 launch1 = 0 ∧
      (launchRecOf launch1).coll = false ∧ (nodeOf (node 1 0)).part = 1#32 ∧ (nodeOf (node 1 0)).nout = 0 ∧
      feasible k.2 0 (launchRecOf launch1) 1#32 = true ∧ (((s 1 0 0#8).runAt 0 0).map (·.replays)) = some 0) ∧
    (match (copyPieces 0 ring1 (piecesOf (nodeOf (node 2 4)).lrec 4) (nodeOf (node 2 4)).args
      (loadPhase 0 0#8 0 (s 2 4 0#8))).1 with | .bytes _ => true | _ => false) = true ∧
    gives (feAcquire 0 ring1 0x18000#80 4 (s 3 0 1#8)).1 (word 1#8 4) = true ∧
    gives (feAcquire 0 ring1 0x18000#80 4 (s 4 0 0#8)).1 (word 0#8 4) = true ∧
    gives (feAcquire 0 ring1 0x18000#80 4 (s 4 0 1#8)).1 (word 1#8 4) = true ∧
    gives (feWrite 0 ring1 0x18000#80 ((leBytes 8 7).map (fun b => (b, false))) (s 5 7 0#8)).1 [] = true ∧
    gives (feAcquire 0 ring1 0x18000#80 8 (s 6 5 5#8)).1 (word 5#8 8) = true ∧
    gives (feAcquire 0 ring1 0x18000#80 8 (s 6 5 4#8)).1 (word 4#8 8) = true ∧
    (findRun (waits 5#8) 0 0 0 (· == .waitWord) = some 0 ∧
      gives (feAcquire 0 ring1 0x18000#80 8 (waits 5#8)).1 (word 5#8 8) = true ∧
      gives (feAcquire 0 ring1 0x18000#80 8 (waits 4#8)).1 (word 4#8 8) = true) := by decide

/-- DoorbellsRecordsAndCompletions: the last slot of the ring and the one beyond it; a record to prefetch, whole, torn, and
whole after mismatches; a run in each phase that goes on. -/
theorem meets_DoorbellsRecordsAndCompletions :
    let rec1 := pkg0 (fun p => { p with rings := [(0, ring1)] })
      (paged (cells (gkey 0 0 0x16000) (node 0 0)) base)
    let torn1 := pkg0 (fun p => { p with rings := [(0, ring1)] })
      (paged (cells (gkey 0 0 0x16000) (bytesOf 256 [(0, 4, 1), (0xF8, 4, 2)])) base)
    let again := pkg0 (fun p => { p with rings := [(0, { ring1 with torn := [(0, 3)] })] }) rec1
    let isTorn (x : RecordRead) : Bool := match x with | .torn _ => true | _ => false
    let isCopy (x : RecordRead) (d : List Byte) : Bool := match x with | .copy y => y == d | _ => false
    let reads (ph : NodePhase) : Bool := match ph with | .reread _ | .loading _ => true | _ => false
    let f (ph : NodePhase) := fe ph none 0#8
    (rec1.ringOf 0 0 = some ring1 ∧ 15 < 2 ^ ring1.logSlots ∧ ¬(16 < 2 ^ ring1.logSlots) ∧ rec1.ringOf 0 1 = none) ∧
    (ring1.prefetched.length < 32 ∧ isCopy (readRecord 0 0 0 rec1).1 (node 0 0) = true) ∧
    isTorn (readRecord 0 0 0 torn1).1 = true ∧
    (findRun again 0 0 0 reads = none ∧ again.ringOf 0 0 = some { ring1 with torn := [(0, 3)] } ∧
      tget ({ ring1 with torn := [(0, 3)] } : Ring).torn 0 = some 3 ∧
      isCopy (readRecord 0 0 0 again).1 (node 0 0) = true) ∧
    (findRun (f (.reread 3)) 0 0 0 reads = some 0 ∧ ((f (.reread 3)).runAt 0 0).map (·.phase) = some (.reread 3)) ∧
    (findRun (f (.loading 3)) 0 0 0 reads = some 0 ∧ ((f (.loading 3)).runAt 0 0).map (·.phase) = some (.loading 3)) ∧
    findRun (f .waitPlace) 0 0 0 (· == .waitPlace) = some 0 ∧ findRun (f .done) 0 0 0 (· == .done) = some 0 := by decide

/-- DoorbellsRecordsAndCompletions: a run that reads its record again, torn and whole, and one that loads its live count,
not yet loaded and loaded; a launch that waits, with seats and without; a node that is done, its word written already, its
overflow list read already, its status not 0, and neither. -/
theorem meets_DoorbellsRecordsAndCompletions_goesOn :
    let at' (ph : NodePhase) (d : List Byte) (live : Tbl Nat) : State :=
      pkg0 (fun p => { p with rings := [(0, { ring1 with live := live })], runs := [freshRun 0 0 ph] })
        (paged (cells (gkey 0 0 0x16000) d) base)
    let rereads (ph : NodePhase) : Bool := match ph with | .reread _ | .loading _ => true | _ => false
    let torn : List Byte := bytesOf 256 [(0, 4, 1), (0xF8, 4, 2)]
    let isTorn (x : RecordRead) : Bool := match x with | .torn _ => true | _ => false
    let isCopy (x : RecordRead) : Bool := match x with | .copy y => nodeOk y | _ => false
    let going (ph : NodePhase) (d : List Byte) (live : Tbl Nat) : Prop :=
      findRun (at' ph d live) 0 0 0 rereads = some 0 ∧ (at' ph d live).runAt 0 0 = some (freshRun 0 0 ph)
    let run (ph : NodePhase) (d : List Byte) (listed written : Bool) (status : BitVec 8) : NodeRun :=
      { freshRun 0 0 ph with record := some d, lrec := some (launchRecOf launch1), listed := listed, written := written,
                             status := status }
    let kernel (part : Nat) : List Byte :=
      bytesOf 256 [(0, 4, 1), (4, 1, 1), (0xF8, 4, 1), (0xFC, 1, 1), (0x70, 10, 0x19000), (0x50, 10, 0x15000), (0x80, 4, part)]
    let s (r : NodeRun) : State :=
      pkg0 (fun p => { p with rings := [(0, ring1)], runs := [r] }) (paged (cells (gkey 0 0 0x15000) launch1) base)
    let w (part : Nat) : NodeRun := run .waitPlace (kernel part) false false 0#8
    let seats (part : Nat) : Option (List TeamSeat) :=
      placeNow (s (w part)) 0 (launchRecOf launch1) (w part).node.part
    let writes (y : NodeRun) : Bool :=
      !y.written && gives (feWrite 0 ring1 y.node.compl ((leBytes 16 (completionWord y)).map (fun b => (b, false))) (s y)).1 [] &&
      (feWrite 0 ring1 y.node.compl ((leBytes 16 (completionWord y)).map (fun b => (b, false))) (s y)).2.runAt 0 0 == some y
    (going (.reread 1022) torn [] ∧ isTorn (readRecord 0 0 0 (at' (.reread 1022) torn [])).1 = true) ∧
    (going (.reread 1023) torn [] ∧ isTorn (readRecord 0 0 0 (at' (.reread 1023) torn [])).1 = true) ∧
    (going (.reread 5) (node 0 0) [] ∧ isCopy (readRecord 0 0 0 (at' (.reread 5) (node 0 0) [])).1 = true ∧
      (readRecord 0 0 0 (at' (.reread 5) (node 0 0) [])).2.runAt 0 0 = some (freshRun 0 0 (.reread 5))) ∧
    (going (.loading 1022) torn [] ∧ isTorn (readRecord 0 0 0 (at' (.loading 1022) torn [])).1 = true) ∧
    (going (.loading 1023) torn [] ∧ isTorn (readRecord 0 0 0 (at' (.loading 1023) torn [])).1 = true) ∧
    (going (.loading 5) (node 0 0) [] ∧ isCopy (readRecord 0 0 0 (at' (.loading 5) (node 0 0) [])).1 = true) ∧
    (going (.loading 5) (node 0 0) [(0, 3)] ∧ tget ({ ring1 with live := [(0, 3)] } : Ring).live 0 = some 3) ∧
    (findRun (s (w 1)) 0 0 0 (· == .waitPlace) = some 0 ∧ heldBack (s (w 1)) 0 0 (w 1) = false ∧
      (seats 1).map (fun y => seatsStalled (s (w 1)) (launchRecOf launch1) y) = some false) ∧
    seats 0 = none ∧
    writes (run .done (kernel 1) true false 0#8) = true ∧ (run .done (kernel 1) true true 0#8).written = true ∧
    (writes { run .done (kernel 1) false false 0x20#8 with listed := true, release := [] } = true ∧
      (0x20#8 : BitVec 8) ≠ 0#8) ∧
    (writes { run .done (kernel 1) false false 0#8 with listed := true, release := (nodeOf (kernel 1)).succ } = true ∧
      (nodeOf (kernel 1)).novfl = 0) := by decide

/-- DoorbellsRecordsAndCompletions: a store to the doorbell page of the last ring. -/
theorem meets_DoorbellsRecordsAndCompletions_store :
    let s := pkg0 (fun p => { p with bar0 := some 0x9000000000 }) base
    let a := 0x9000000000 + 0x80000 + 4096 * 63
    busTarget s 0 (keyAddr (gkey 0 3 a)) = some (0, false, 0x80000 + 4096 * 63) ∧ (leBytes 8 0x10002).length = 8 := by decide

/-- TableCommands: rings free and busy, at both ends of their sizes; a part whose cores are free, and one whose core
holds a team that it would lose; the ends of the other parameters. -/
theorem meets_TableCommands :
    let bound := pkg0 (fun p => { p with rings := [(0, ring1)] }) base
    let goodRing (ring k : Nat) (ba : A80) (root : BitVec 56) : Prop := ring < 64 ∧ 4 ≤ k ∧ k ≤ 16 ∧
      ba.toNat % 256 = 0 ∧ root.toNat % 2 ^ 16 = 0 ∧ root.toNat < 2 ^ 39
    let lost (part : Nat) (mask : BitVec 160) : Prop := ∃ t ∈ base.teams, t.2.run = .running ∧ t.2.core / 160 = 0 ∧
      (mask &&& ~~~(base.pkg 0).userPart 0 part).getLsbD (t.2.core % 160) = true
    (goodRing 63 4 0x100#80 0x10000#56 ∧ goodRing 0 16 0#80 0#56 ∧ ¬goodRing 64 4 0#80 0#56 ∧ ¬goodRing 0 3 0#80 0#56 ∧
      ¬goodRing 0 17 0#80 0#56) ∧
    ((∃ r ∈ ((fe .ready none 0#8).pkg 0).runs, r.ring = 0) ∧ ¬(∃ r ∈ (bound.pkg 0).runs, r.ring = 0) ∧
      (tget (bound.pkg 0).rings 0).isSome = true ∧ (tget ((fe .ready none 0#8).pkg 0).rings 0).isSome = true) ∧
    (¬lost 0 1#160 ∧ lost 14 1#160) ∧ portCount 0xF#4 = 4 ∧ portCount 1#4 = 1 ∧ portCount 6#4 = 2 := by decide

/-- FirmwareAndBarCommands: no takeover pending, a takeover at a Lull point, a warp parked at a BREAKPOINT, windows that
fit and one that does not, the ends of BAR2's sizes, an access within it and one that meets a MIGRATING region. What a firmware image verifies as is
left open (log 10), so its three clauses divide every state between them. -/
theorem meets_FirmwareAndBarCommands :
    let pend := pkg0 (fun p => { p with fwPending := some (7, 1, 2) }) base
    let brk := warp0 (fun w => { w with park := .breakpoint }) base
    let b : Nat := (base.pkg 0).bar2Size
    let fits (w : Nat) : Prop := w % (b / 2) = 0 ∧ w + b / 2 ≤ 2 ^ 38
    (base.pkg 0).fwPending = none ∧ ((pend.pkg 0).fwPending = some (7, 1, 2) ∧ lullPoint pend 0 = true) ∧
    ((brk.teamWarps 0).find? (fun k => (brk.warp k).warpid == 0) = some 0 ∧ pkgOf (coreOf 0) = 0 ∧
      (brk.warp 0).park = .breakpoint) ∧
    (fits 0 ∧ fits (2 ^ 38 - b / 2) ∧ ¬fits 1 ∧ ¬fits (2 ^ 38)) ∧
    (b - 4 + 4 ≤ b ∧ (base.pkg 0).inbound = [] ∧ ∀ q ∈ piecesOf (BitVec.ofNat 80 (b - 4)) 4,
      regionIs base (bar2Key (base.pkg 0) 0 q.1.toNat) .migrating = false) ∧
    (0 + 4 ≤ ((migrating0 base).pkg 0).bar2Size ∧ ∃ q ∈ piecesOf 0#80 4,
      regionIs (migrating0 base) (bar2Key ((migrating0 base).pkg 0) 0 q.1.toNat) .migrating = true) := by decide

/-- CapacityLinksAndReset: a core without a team; a die with no slice going and with one, first with regions left and
then at its last; a CXL slice. -/
theorem meets_CapacityLinksAndReset :
    let going (r : Tbl RegionState) := base.modPkg 0 (fun p => { p with dies := [(0, { ((base.pkg 0).dieMap 0) with
      withdrawing := some 5, regions := r })] })
    let m (s : State) : DieMap := (s.pkg 0).dieMap 0
    ((∀ t ∈ base.teams, t.2.run = .running → t.2.core ≠ 1) ∧ (base.core 1).withdrawn = false) ∧
    ((m base).withdrawing = none ∧ 5 ∈ (m base).list ∧ 2 ≤ (m base).list.length) ∧
    ((m (going [(0, .migrating)])).withdrawing = some 5 ∧ (m (going [(0, .migrating)])).current = some 0 ∧
      0 + 3 < 2 * (m (going [(0, .migrating)])).list.length) ∧
    ((m (going [(509, .migrating)])).withdrawing = some 5 ∧ (m (going [(509, .migrating)])).current = some 509 ∧
      2 * (m (going [(509, .migrating)])).list.length ≤ 509 + 3) ∧
    ((m (going [])).withdrawing = some 5 ∧ (m (going [])).current = none) ∧ 0 ∈ (m base).cxlList 0 := by decide

/-! ## Encodings, steps, invariants and frames -/

/-- DecodeAndEncodeAgree: a well-formed instruction with its word. -/
theorem meets_DecodeAndEncodeAgree :
    let i : Instr := .vadd (plain 1#4) (fv 1#10 0#10 0#10 643#10)
    i.wf 640 1 = true ∧ encode i = some 0x43F001004000028300000400#96 := by decide

/-- StepRunsDecoded: an event, a soft error, an address and a command of the host from the oracle, a command's event and its
error, no move, an issue in progress of a plain instruction and of a repetition, and a split that is not ready. -/
theorem meets_StepRunsDecoded :
    let good : List Byte := bytesOf 64 [(0, 2, 0xFF), (2, 2, 7)]
    let bad : List Byte := bytesOf 64 [(0, 2, 1), (2, 2, 7), (4, 1, 1)]
    let ev := { base with oracle := [.event (.clockCycle (.core 0))] }
    let rep (s : State) : State := withSecond 1#16 0x43F001004000028300000400#96 (s.modWarp 0 (fun w =>
      { withV 1#4 w with splits := w.splits.map (fun x => (x.1, { x.2 with inRep := true, repJ := 1 })) }))
    let r : Instr := .rep (plain 14#4) (FP.of 0x180100000000000000#72)
    (nextMove ev).1 = some (.event (.clockCycle (.core 0))) ∧ (nextMove State.reset).1 = none ∧
    (nextMove { base with oracle := [.strike (.mem 4 true)] }).1 = some (.strike (.mem 4 true)) ∧
    (nextMove { base with oracle := [.command 0 good] }).1 = some (.command 0 good) ∧
    (match commandOf 0 good with | .ok i => i == .commandBadOpcode 0 7 0xFF#16 | .error _ => false) = true ∧
    (match commandOf 0 bad with | .ok _ => false | .error e => e == 2) = true ∧
    (nextMove { base with oracle := [.bar0 0 (some 16)] }).1 = some (.bar0 0 (some 16)) ∧
    (nextMove { base with oracle := [.bar2 0 (some 16)] }).1 = some (.bar2 0 (some 16)) ∧
    (nextMove { base with oracle := [.bar2 0 (some 0)] }).1 = some (.bar2 0 (some 0)) ∧
    16 % (base.pkg 0).bar2Size ≠ 0 ∧ 0 % (base.pkg 0).bar2Size = 0 ∧
    (nextMove base).1 = some (.issue 0 0) ∧ splitReady (nextMove base).2 0 0 = true ∧
    ((beginIssue 0 0 (nextMove base).2).cur.map (fun q => (q.status == .running, q.todo.isEmpty, q.rep))) =
      some (true, false, none) ∧
    ((setUp rep r).cur.map (fun q => (q.rep, decode (slotWord (q.line 0) (slotNum q.offset - 1)) == r))) =
      some (some 1, true) ∧
    splitReady base 0 1 = false := by decide

/-- R88: two bits in error poison a lane word, one bit does not, be it a check bit, and a second makes two. -/
theorem test_strike_lane :
    let hit (bits : BitVec 41) (s : State) : State := strikeAt (.lane 0 3 true 7 bits) s
    let p (s : State) : Bool := ((s.warp 0).vreg 3).poisonNow.getLsbD 7
    p (hit 3#41 base) = true ∧ p (hit 1#41 base) = false ∧ p (hit 0x100000000#41 base) = false ∧
    p (hit 2#41 (hit 1#41 base)) = true := by decide

/-- Idles: every instruction that takes no effect without a live lane, and SYSC, which is always passed by PRED 15, as an issue
that has had its effect. -/
theorem meets_Idles :
    let h := never 14#4
    let x (e : RCode) : FX := fx e 643#10 643#10 643#10 0#32
    let t (i : Instr) : State := setUp (fun s => withBar idle (withQueue 1 1 (withTiles 10#4 s))) i
    let sysc : Instr := .sysc (plain 14#4) (fx 771#10 643#10 643#10 643#10 1#32)
    let done : Reissue :=
      { offset := 0, planes := 1#4, low := none, checked := true, pinned := true, mate := none,
        progress := { Progress.start with took := [(0, sysc, 1#96)] } }
    idlesNow .first sysc (before (fun w => { w with reissues := [(0, done)] }) sysc) = true ∧
    [Instr.talloc { h with fmt := 9#4 } (fx 788#10 789#10 790#10 643#10 5#32),
     .tfree h (x 776#10), .trel h (x 776#10), .tstat h (fx 771#10 776#10 643#10 643#10 0#32),
     .hqpush h (x 771#10), .hqpop h (x 771#10),
     .hqtry h (x 771#10), .csend h (x 771#10), .crecv h (x 771#10), .cpoll h (x 771#10),
     .binit h (fx 778#10 779#10 643#10 643#10 0#32), .barv h (x 771#10), .bwait h (x 771#10), .bexp h (x 771#10),
     .bsync h (x 771#10)].all (fun i => idlesNow .first i (t i)) = true ∧
    [Instr.srd h (fx 771#10 643#10 643#10 643#10 0x10#32), .swr h (fx 771#10 643#10 643#10 643#10 0x10#32)].all
      (fun i => idlesNow .scal i (before id i)) = true := by decide

/-- StepKeepsMemoryCanonical: the state after reset is canonical and takes a step. -/
theorem meets_StepKeepsMemoryCanonical :
    State.reset.memoryWf = true ∧
    (match step State.reset with | .next t => t.memoryWf | _ => false) = true ∧
    (match step (State.reset.withFetchWord 96 0x43F001004000028300000400) with | .next t => t.memoryWf | _ => false) =
      true := by decide

/-- RegisterInstructionsKeepTheRest: instructions of each range whose reads find no soft error, and that answer a next
state. -/
def keepsRest (g : Warp → Warp) (i : Instr) : Bool :=
  let s := before g i
  s.cur.isSome && readState i s (issueOf s) == s && !undefinedOp i && match exec i s with | .next _ => true | _ => false
theorem meets_RegisterInstructionsKeepTheRest :
    keepsRest id (.smov (plain 14#4) (fv 770#10 771#10 643#10 643#10)) = true ∧
    keepsRest id (.plog (plain 14#4) (fv 1#10 2#10 3#10 4#10)) = true ∧
    keepsRest (withV 0#4) (.vadd (plain 0#4) (fv 1#10 2#10 3#10 643#10)) = true ∧
    keepsRest (withV 6#4) (.frcp (plain 6#4) (fv 1#10 2#10 643#10 643#10)) = true ∧
    [Instr.nop (plain 14#4) 0#72, .bra (plain 14#4) (fc 0#32 0#3), .call (plain 14#4) (fc 0#32 0#3),
      .yield (plain 14#4) (fx 643#10 643#10 643#10 643#10 0#32), .plane (plain 14#4) (fx 643#10 643#10 643#10 643#10 0#32),
      .trap (plain 14#4) (fx 643#10 643#10 643#10 643#10 3#32),
      .sysc (plain 14#4) (fx 771#10 643#10 643#10 643#10 1#32)].all (keepsRest id) = true := by
  refine ⟨?_, ?_, ?_, ?_, ?_⟩ <;> decide

/-- StoresChangeTheirBytesOnly: an unbacked region. -/
theorem meets_unbacked :
    regionIs (base.modPkg 0 (fun p => { p with dies := [(0, { ((base.pkg 0).dieMap 0) with
      regions := [(0, .unbacked)] })] })) (gkey 0 0 0x1000) .unbacked = true := by decide

theorem tget_mem {α : Type} : ∀ (t : Tbl α) (k : Nat) (x : α), tget t k = some x → (k, x) ∈ t
  | [], _, _, h => by simp [tget] at h
  | (a, y) :: r, k, x, h => by
    unfold tget at h
    split at h
    · simp_all
    · exact List.mem_cons_of_mem _ (tget_mem r k x h)

/-- A property of every core, from the cores listed and the core after reset. -/
theorem every_core (P : Core → Bool) (s : State) (h : (P Core.reset && s.cores.all (fun x => P x.2)) = true) (g : Nat) :
    P (s.core g) = true := by
  simp only [Bool.and_eq_true, List.all_eq_true] at h
  unfold State.core
  cases ht : tget s.cores g with
  | none => exact h.1
  | some c => exact h.2 (g, c) (tget_mem s.cores g c ht)

/-- SharedStoresChangeTheirBytesOnly: the team of the launch is resident, its memories canonical. -/
theorem meets_SharedStoresChangeTheirBytesOnly :
    let i : Instr := .vstsh (plain 14#4) (fm 1#10 643#10 0#10 2#3 0#2 0x1FFC#24)
    let s := setUp roomy i
    (s.warpTeam 0).image = none ∧ readState i s (issueOf s) = s ∧ ∀ g, swf (s.core g).shared = true := by
  refine ⟨by decide, by decide, every_core (fun c => swf c.shared) _ (by decide)⟩

/-- LoadAfterCachedStore: four bytes at the end of a line. -/
theorem meets_LoadAfterCachedStore :
    let p : Place := { key := gkey 0 0 0x1107C, port := 0, poa := false, far := false }
    keyKind p.key ≤ 2 ∧ p.poa = false ∧ p.key % 128 + 4 ≤ 128 ∧ p.key % 4 = 0 := by decide

/-! ## Results that the spec works out -/

/-- The warp after an instruction. -/
def after (g : Warp → Warp) (i : Instr) : Warp :=
  match exec i (before g i) with
  | .next t => t.warp 0
  | _ => Warp.blank

/-- One word in every lane of a vector register, tagged. -/
def withWord (n : Nat) (tag : BitVec 4) (v : Word) (w : Warp) : Warp :=
  { w with vregs := tput w.vregs n { VReg.zero with tag := tag, tpar := parityOf tag, words := Vector.replicate 96 v } }

/-- R149's worked shifts of i8x4: v3 = 0x80F0C010 by v5 = 0xFF080701. -/
theorem test_vsar : (wordAt ((after (fun w => withWord 3 4#4 0x80F0C010#32 (withWord 5 4#4 0xFF080701#32 (withV 4#4 w)))
    (.vsar (plain 4#4) (fv 7#10 3#10 5#10 643#10))).vreg 7).words 0) = 0xFFFFFF08#32 := by decide
theorem test_vshl : (wordAt ((after (fun w => withWord 3 4#4 0x80F0C010#32 (withWord 5 4#4 0xFF080701#32 (withV 4#4 w)))
    (.vshl (plain 4#4) (fv 7#10 3#10 5#10 643#10))).vreg 7).words 0) = 0x00000020#32 := by decide

/-- R186's worked address: a6 = 16 and s12 = 0xFFFFFFFE give 2^80 - 16 signed, 0x7FFFFFFF0 unsigned. -/
theorem test_alea :
    let g (w : Warp) : Warp := { withS 12 0xFFFFFFFE#32 w with aregs := [(6, { val := 16#80, poison := false })] }
    let f : FM := { fm 711#10 710#10 780#10 0#3 0#2 0xFFFFF0#24 with ish := 3#3 }
    (after g (.alea (plain 0#4) f)).aval 711 = 0xFFFFFFFFFFFFFFFFFFF0#80 ∧
    (after g (.alea (plain 1#4) f)).aval 711 = 0x7FFFFFFF0#80 := by decide

/-- R182's high products of 0xFFFFFFFF and 2. -/
theorem test_smulh :
    let g (w : Warp) : Warp := withS 3 0xFFFFFFFF#32 (withS 4 2#32 w)
    (after g (.smulh (plain 0#4) (fv 773#10 771#10 772#10 643#10))).sval 0 773 = 0xFFFFFFFF#32 ∧
    (after g (.smulh (plain 1#4) (fv 773#10 771#10 772#10 643#10))).sval 0 773 = 1#32 := by decide

/-- R208: TRAP with a handler enters trap mode with its cause, from TRAPPC's offset 0. -/
theorem test_trap :
    let i : Instr := .trap (plain 14#4) (fx 643#10 643#10 643#10 643#10 3#32)
    (match exec i (setUp handled i) with
     | .next t => ((t.warp 0).trapMode, (t.warp 0).trapCause, (t.warp 0).trapPc.extractLsb' 0 32)
     | _ => (false, 0#32, 0#32)) = (true, 0x1B#32, 0#32) := by decide

/-- One step from the word of SMOVI s3, 7 placed by State.withFetchWord. -/
theorem test_step_smovi :
    (match step (State.reset.withFetchWord 96 0x21F00EC0E830000800000007) with
     | .next t => (t.warp 0).sval 0 771 | _ => 0#32) = 7#32 := by decide


/-- R410: elements of four bits side by side are one run, and the other half of a byte that it begins in is kept. -/
theorem test_tstore_sub_byte :
    let s := withInst put1 none
    storeRuns 4 [([(0x13000#80, 4, 4)], 1, false), ([(0x13001#80, 0, 4)], 2, false), ([(0x13001#80, 4, 4)], 3, false)] =
      [(8 * 0x13000 + 4, [(1, false), (2, false), (3, false)])] ∧
    (let t := storeRun 0 (s.launchOf 0) 4 (8 * 0x13000 + 4) [(1, false), (2, false), (3, false)] s
     (homeRead (gkey 0 0 0x13000) 2 t).map (·.1) = [0x10#8, 0x32#8]) := by decide

end Sys2Proof.Tests
end

section
/-!
PROOFS. Canonical memory, part 1: how the state that a function leaves is named; the operations on registers, caches,
splits, faults and passes. An operation that does not touch global memory leaves memoryWf as it is, as an equation; one
that stores, or that finds a soft error, keeps it. Each lemma follows the branches of its function and cites the lemmas of
the operations that they call. The goals hold no arithmetic, so grind runs here without its arithmetic solvers.
-/

namespace Sys2Proof.Machine

open Sys2Proof

/-! ## Passes, outcomes and folds -/

/-- The state that a pass leaves, however it ends. -/
def PassResult.state : PassResult → State
  | .ok t | .moved t | .held t | .wait t | .part t _ | .fault t _ | .pageFault t _ | .double t => t

@[simp] theorem state_ok (t : State) : (PassResult.ok t).state = t := rfl
@[simp] theorem state_moved (t : State) : (PassResult.moved t).state = t := rfl
@[simp] theorem state_held (t : State) : (PassResult.held t).state = t := rfl
@[simp] theorem state_wait (t : State) : (PassResult.wait t).state = t := rfl
@[simp] theorem state_part (t : State) (m : Lanes) : (PassResult.part t m).state = t := rfl
@[simp] theorem state_fault (t : State) (f : FaultInfo) : (PassResult.fault t f).state = t := rfl
@[simp] theorem state_pageFault (t : State) (f : FaultInfo) : (PassResult.pageFault t f).state = t := rfl
@[simp] theorem state_double (t : State) : (PassResult.double t).state = t := rfl

/-- Whether the state that an outcome answers, if it answers one, is canonical. -/
def answerWf : Host.Outcome State Fault Refusal → Bool
  | .next t => t.memoryWf
  | .fault _ | .refused _ => true

@[simp] theorem answerWf_next (t : State) : answerWf (.next t) = t.memoryWf := rfl
@[simp] theorem answerWf_fault (f : Fault) : answerWf (.fault f) = true := rfl
@[simp] theorem answerWf_refused (r : Refusal) : answerWf (.refused r) = true := rfl

/-- A fold of operations that leave memory as it is leaves it so. -/
theorem foldl_memoryWf {α : Type} (f : State → α → State) (hf : ∀ s a, (f s a).memoryWf = s.memoryWf)
    (xs : List α) (s : State) : (xs.foldl f s).memoryWf = s.memoryWf := by
  induction xs generalizing s with
  | nil => rfl
  | cons x xs ih => rw [List.foldl_cons, ih, hf]

/-! ## Registers -/

@[simp] theorem countErrorAt_memoryWf (i n g : Nat) (s : State) :
    (countErrorAt i n g s).memoryWf = s.memoryWf := by
  simp [countErrorAt]

@[simp] theorem resolveWarp_memoryWf (k : Nat) (vs cs : List Nat) (s : State) :
    (resolveWarp k vs cs s).memoryWf = s.memoryWf := by
  simp [resolveWarp]

@[simp] theorem resolveReads_memoryWf (k : Nat) (hd : Hdr) (fs : List Fld) (latched : List Nat) (s : State) :
    (resolveReads k hd fs latched s).memoryWf = s.memoryWf := by
  unfold resolveReads
  dsimp only
  split <;> simp

@[simp] theorem resolveMainFile_memoryWf (k : Nat) (ns : List Nat) (s : State) :
    (resolveMainFile k ns s).memoryWf = s.memoryWf := by
  simp [resolveMainFile]

@[simp] theorem resolveAll_memoryWf (k : Nat) (s : State) :
    (resolveAll k s).memoryWf = s.memoryWf := by
  simp [resolveAll]

/-! ## Walks, caches, shared and accumulator memory -/

@[simp] theorem tlbFill_memoryWf (s : State) (g : Nat) (e : TlbEntry) :
    (s.tlbFill g e).memoryWf = s.memoryWf := rfl

@[simp] theorem walkReads_memoryWf {s : State} (p root va : Nat) (tkey : BitVec 8) (hs : s.memoryWf = true) :
    (walkReads s p root va tkey).memoryWf = true := by
  grind -ring -linarith -order [walkReads, resolveMem_memoryWf, touchHome_memoryWf, memoryWf_foldl]

@[simp] theorem translateNow_memoryWf {s : State} (g root asn : Nat) (tkey : BitVec 8) (va : A80) (a : Access)
    (hs : s.memoryWf = true) :
    (translateNow s g root asn tkey va a).2.2.memoryWf = true := by
  unfold translateNow
  dsimp only
  repeat' split
  all_goals simp [hs]

@[simp] theorem bar2Read_memoryWf (q o n : Nat) {s : State} (hs : s.memoryWf = true) :
    (bar2Read q o n s).2.memoryWf = true := by
  simp [bar2Read, hs, keyRead_memoryWf]

@[simp] theorem bumpEpoch_memoryWf (g : Nat) (fuse : Bool) (s : State) :
    (bumpEpoch g fuse s).memoryWf = s.memoryWf :=
  foldl_memoryWf _ (by simp) _ _

@[simp] theorem askPromotion_memoryWf (k g : Nat) (s : State) :
    (askPromotion k g s).memoryWf = s.memoryWf := by
  unfold askPromotion; split <;> simp

@[simp] theorem resolveShared_memoryWf (g a : Nat) (s : State) :
    (resolveShared g a s).memoryWf = s.memoryWf := by
  unfold resolveShared
  dsimp only
  repeat' split
  all_goals simp

@[simp] theorem sharedMove_memoryWf (tk o : Nat) (bs : List (Byte × Bool)) (s : State) :
    (sharedMove tk o bs s).memoryWf = s.memoryWf := by
  unfold sharedMove
  dsimp only
  split <;> simp

@[simp] theorem sharedStore_memoryWf (tk o : Nat) (bs : List Byte) (s : State) :
    (sharedStore tk o bs s).memoryWf = s.memoryWf := by
  simp [sharedStore]

@[simp] theorem resolveAcc_memoryWf (g p : Nat) (s : State) :
    (resolveAcc g p s).memoryWf = s.memoryWf := by
  unfold resolveAcc
  dsimp only
  repeat' split
  all_goals simp

@[simp] theorem accWrite_memoryWf (tk o : Nat) (v : Word) (poison : Bool) (s : State) :
    (accWrite tk o v poison s).memoryWf = s.memoryWf := by
  unfold accWrite
  dsimp only
  split <;> simp

/-! ## Splits -/

@[simp] theorem settle_memoryWf (k : Nat) (s : State) :
    (settle k s).memoryWf = s.memoryWf := by
  simp [settle]

/-! ## Faults, registers and walks -/

@[simp] theorem endLaunch_memoryWf (l : Nat) (r : EndReq) (replay : Bool) (s : State) :
    (endLaunch l r replay s).memoryWf = s.memoryWf := rfl

@[simp] theorem endTeam_memoryWf (t : Nat) (status cause : BitVec 8) (detail : Word) (s : State) :
    (endTeam t status cause detail s).memoryWf = s.memoryWf := rfl

@[simp] theorem squall_memoryWf (t : Nat) (s : State) :
    (squall t s).memoryWf = s.memoryWf := rfl

@[simp] theorem stateErrorAt_memoryWf (t p d : Nat) (s : State) :
    (stateErrorAt t p d s).memoryWf = s.memoryWf := by
  unfold stateErrorAt
  dsimp only
  repeat' split
  all_goals simp

@[simp] theorem stateError_memoryWf (t d : Nat) (s : State) :
    (stateError t d s).memoryWf = s.memoryWf := by
  simp [stateError]

@[simp] theorem raiseFault_memoryWf (k e : Nat) (pc : BitVec 64) (f : FaultInfo) (s : State) :
    (raiseFault k e pc f s).memoryWf = s.memoryWf := by
  unfold raiseFault
  dsimp only
  repeat' split
  all_goals simp

@[simp] theorem doubleFault_memoryWf (k : Nat) (s : State) :
    (doubleFault k s).memoryWf = s.memoryWf := rfl

@[simp] theorem releaseRegs_memoryWf (k : Nat) (rs : List Nat) (s : State) :
    (releaseRegs k rs s).memoryWf = s.memoryWf := by
  simp [releaseRegs]

@[simp] theorem releaseSet_memoryWf (k : Nat) (s : State) :
    (releaseSet k s).memoryWf = s.memoryWf := by
  simp [releaseSet]

@[simp] theorem makeRoom_memoryWf (k n : Nat) (xs : List Nat) (s : State) :
    (makeRoom k n xs s).memoryWf = s.memoryWf := by
  fun_induction makeRoom k n xs s <;> simp [*]

@[simp] theorem stageSet_memoryWf (k : Nat) (s : State) :
    (stageSet k s).memoryWf = s.memoryWf := by
  unfold stageSet
  dsimp only
  split <;> simp

@[simp] theorem replaceSet_memoryWf (k : Nat) (new : List WsRange) (s : State) :
    (replaceSet k new s).memoryWf = s.memoryWf := by
  simp [replaceSet]

@[simp] theorem retireIfDone_memoryWf (k : Nat) (s : State) :
    (retireIfDone k s).memoryWf = s.memoryWf := by
  unfold retireIfDone
  dsimp only
  split <;> simp

@[simp] theorem joinWalk_memoryWf (g : Nat) (l : Launch) (page : Nat) (f : Walk → Walk) (s : State) :
    (joinWalk g l page f s).memoryWf = s.memoryWf := rfl

@[simp] theorem queueWalk_memoryWf (k e : Nat) (va : A80) (a : Access) (s : State) :
    (queueWalk k e va a s).memoryWf = s.memoryWf := rfl

@[simp] theorem addAck_memoryWf (k : Nat) (kind : AckKind) (s : State) :
    (addAck k kind s).memoryWf = s.memoryWf := rfl

@[simp] theorem freeze_memoryWf (k : Nat) (va : A80) (s : State) :
    (freeze k va s).memoryWf = s.memoryWf := by
  unfold freeze; split <;> simp

/-! ## A pass -/

@[simp] theorem countReads_memoryWf (c : Ctx) (i : Instr) (s : State) :
    (countReads c i s).memoryWf = s.memoryWf := by
  simp [countReads]

@[simp] theorem countIssue_memoryWf (c : Ctx) (n : Nat) (s : State) :
    (countIssue c n s).memoryWf = s.memoryWf := by
  unfold countIssue; split <;> simp

@[simp] theorem markIssue_memoryWf (s : State) (k e : Nat) (trap : Bool) :
    (s.markIssue k e trap).memoryWf = s.memoryWf := rfl

@[simp] theorem advanceHeld_memoryWf (k e : Nat) (more : Bool) (s : State) :
    (advanceHeld k e more s).memoryWf = s.memoryWf := by
  unfold advanceHeld
  dsimp only
  split <;> simp

@[simp] theorem finishIssue_memoryWf (q : Issue) (s : State) :
    (finishIssue q s).memoryWf = s.memoryWf := by
  unfold finishIssue
  dsimp only
  repeat' split
  all_goals simp

@[simp] theorem waitPass_memoryWf (s : State) :
    (waitPass s).memoryWf = s.memoryWf := rfl

@[simp] theorem partPass_memoryWf (c : Ctx) (i : Instr) (m : Lanes) (s : State) :
    (partPass c i m s).memoryWf = s.memoryWf := rfl

@[simp] theorem completePass_memoryWf (c : Ctx) (i : Instr) (all : Bool) (s : State) :
    (completePass c i all s).memoryWf = s.memoryWf := by
  unfold completePass
  dsimp only
  repeat' split
  all_goals simp

@[simp] theorem trapAt_memoryWf (c : Ctx) (decoded : Bool) (f : FaultInfo) (s : State) :
    (trapAt c decoded f s).memoryWf = s.memoryWf := by
  unfold trapAt
  dsimp only
  repeat' split
  all_goals simp

@[simp] theorem trapPass_memoryWf (c : Ctx) (f : FaultInfo) (s : State) :
    (trapPass c f s).memoryWf = s.memoryWf := by
  simp [trapPass]

@[simp] theorem pageFaultPass_memoryWf (c : Ctx) (f : FaultInfo) (s : State) :
    (pageFaultPass c f s).memoryWf = s.memoryWf := by
  unfold pageFaultPass; split <;> simp

/-- A pass keeps memory canonical when its effect does: the checks before it and the bookkeeping after it leave memory
as it is. -/
theorem runChecked_answerWf {i : Instr} {kind : PassKind} {own : Ctx → State → PreCheck}
    {eff : Ctx → State → PassResult} (he : ∀ c s, s.memoryWf = true → (eff c s).state.memoryWf = true) {s : State}
    (hs : s.memoryWf = true) : answerWf (runChecked i kind own eff s) = true := by
  have he0 : ∀ {c : Ctx} {k fs ls r}, eff c (resolveReads k c.h fs ls s) = r → r.state.memoryWf = true := by
    rintro c k fs ls _ rfl
    exact he c _ (by simp [hs])
  unfold runChecked
  dsimp only
  repeat' split
  all_goals simp [hs]
  all_goals exact (he0 ‹eff _ _ = _› :)

theorem runPass_answerWf {i : Instr} {kind : PassKind} {eff : Ctx → State → PassResult}
    (he : ∀ c s, s.memoryWf = true → (eff c s).state.memoryWf = true) {s : State} (hs : s.memoryWf = true) :
    answerWf (runPass i kind eff s) = true :=
  runChecked_answerWf he hs

end Sys2Proof.Machine
end

section
/-!
PROOFS. Canonical memory, part 2: the effects of the instructions of a warp, and the engines that serve it. An instruction
whose pass needs no lemma of its own is left to exec_answerWf.
-/

namespace Sys2Proof.Machine

open Sys2Proof

/-! ## Scalar, predicate and address instructions -/

@[simp] theorem scalarEffect_memoryWf (f : FV) (g : Word → Word → Word → Word) (c : Ctx) (s : State) :
    (scalarEffect f g c s).state.memoryWf = s.memoryWf := rfl

theorem execPmov_answerWf (hd : Hdr) (f : FV) {s : State} (hs : s.memoryWf = true) :
    answerWf (execPmov hd f s) = true := by
  refine runPass_answerWf (fun c s hs => ?_) hs
  dsimp only
  split <;> simp [hs]

theorem execAmov_answerWf (hd : Hdr) (f : FV) {s : State} (hs : s.memoryWf = true) :
    answerWf (execAmov hd f s) = true := by
  refine runPass_answerWf (fun c s hs => ?_) hs
  grind -ring -linarith -order [PassResult.state, modWarp_memoryWf]

theorem execSrd_answerWf (hd : Hdr) (f : FX) {s : State} (hs : s.memoryWf = true) :
    answerWf (execSrd hd f s) = true := by
  refine runPass_answerWf (fun c s hs => ?_) hs
  dsimp only
  split <;> simp [hs]

@[simp] theorem swrCount_memoryWf (c : Ctx) (n : Nat) (s : State) :
    (swrCount c n s).memoryWf = s.memoryWf := by
  unfold swrCount; split <;> simp

/-! ## Vector integer instructions -/

@[simp] theorem putVec_memoryWf (c : Ctx) (d : RCode) (tag : BitVec 4) (g : Nat → Word) (s : State) :
    (putVec c d tag g s).state.memoryWf = s.memoryWf := rfl

@[simp] theorem putPred_memoryWf (c : Ctx) (d : RCode) (g : Nat → Bool) (s : State) :
    (putPred c d g s).state.memoryWf = s.memoryWf := rfl

@[simp] theorem intEffect_memoryWf (hd : Hdr) (f : FV) (op : Int → Int → Int → Int) (c : Ctx) (s : State) :
    (intEffect hd f op c s).state.memoryWf = s.memoryWf := rfl

@[simp] theorem elemEffect_memoryWf (hd : Hdr) (f : FV) (op : Nat → Nat → Nat → Nat) (c : Ctx) (s : State) :
    (elemEffect hd f op c s).state.memoryWf = s.memoryWf := rfl

@[simp] theorem wordEffect_memoryWf (tag : BitVec 4) (f : FV) (op : Word → Word → Word → Word) (c : Ctx) (s : State) :
    (wordEffect tag f op c s).state.memoryWf = s.memoryWf := rfl

@[simp] theorem deliver_memoryWf (c : Ctx) (d : RCode) (tag : BitVec 4) (g : Nat → Word) (bad : Nat → Bool)
    (s : State) :
    (deliver c d tag g bad s).state.memoryWf = s.memoryWf := by
  unfold deliver
  dsimp only
  split <;> simp

/-! ## Accesses of global memory -/

@[simp] theorem fabricReads_memoryWf {s : State} (own : Nat) (tkey : BitVec 8) (addr : Nat) (hs : s.memoryWf = true) :
    (fabricReads s own tkey addr).memoryWf = true := by
  grind -ring -linarith -order [fabricReads, walkReads_memoryWf]

@[simp] theorem farPlace_memoryWf (g : Nat) (tkey : BitVec 8) (p : Place) (a : Access) {s : State}
    (hs : s.memoryWf = true) :
    (farPlace g tkey p a s).2.memoryWf = true := by
  unfold farPlace
  dsimp only
  repeat' split
  all_goals simp [hs]

@[simp] theorem atomAt_memoryWf (k n : Nat) (fn fmt : BitVec 4) (d swp : Nat) (keep : Bool) {s : State}
    (hs : s.memoryWf = true) :
    (atomAt k n fn fmt d swp keep s).2.memoryWf = true := by
  grind -ring -linarith -order [atomAt, homeStore_memoryWf, resolveMem_memoryWf, countError_memoryWf, memoryWf_foldl]

@[simp] theorem atomPlace_memoryWf (pk : Nat) (p : Place) (n : Nat) (fn fmt : BitVec 4) (d swp : Nat) (keep : Bool)
    {s : State} (hs : s.memoryWf = true) :
    (atomPlace pk p n fn fmt d swp keep s).2.memoryWf = true := by
  grind -ring -linarith -order [atomPlace, State.memoryWf, busTake_memoryWf, atomAt_memoryWf]

@[simp] theorem laneReads_memoryWf (k e : Nat) {s : State} (va : A80) (hs : s.memoryWf = true) :
    (laneReads k e s va).memoryWf = true := by
  grind -ring -linarith -order [laneReads, fabricReads_memoryWf]

@[simp] theorem doLanes_memoryWf (f : Nat → LaneTrans → State → List (Word × Bool) × State)
    (xs : List (Nat × A80 × LaneTrans)) {s : State} (hf : ∀ x y s, s.memoryWf = true → (f x y s).2.memoryWf = true)
    (hs : s.memoryWf = true) :
    (doLanes f xs s).2.memoryWf = true := by
  fun_induction doLanes f xs s <;> grind -ring -linarith -order

@[simp] theorem beginRelease_memoryWf (c : Ctx) (f : FM) {s : State} (hs : s.memoryWf = true) :
    (beginRelease c f s).memoryWf = true := by
  unfold beginRelease
  dsimp only
  repeat' split
  all_goals simp [hs, releaseL1_memoryWf]

@[simp] theorem globalAccess_memoryWf (c : Ctx) (f : FM) (a : Access) (bus : Bool) (n : Nat)
    (addrs : List (Nat × A80)) (once : Bool) (doLane : Nat → LaneTrans → State → List (Word × Bool) × State)
    (finish : List (Nat × List (Word × Bool)) → State → State) {s : State}
    (hdoLane : ∀ x y s, s.memoryWf = true → (doLane x y s).2.memoryWf = true)
    (hfinish : ∀ x s, s.memoryWf = true → (finish x s).memoryWf = true) (hs : s.memoryWf = true) :
    (globalAccess c f a bus n addrs once doLane finish s).state.memoryWf = true := by
  fun_cases globalAccess c f a bus n addrs once doLane finish s <;> grind -ring -linarith -order [PassResult.state,
    laneReads_memoryWf, stateErrorAt_memoryWf, askPromotion_memoryWf, queueWalk_memoryWf, doLanes_memoryWf,
    beginRelease_memoryWf, acquireL1_memoryWf, memoryWf_foldl]

@[simp] theorem recordRelease_memoryWf (c : Ctx) (f : FM) (p : Place) {s : State} (hs : s.memoryWf = true) :
    (recordRelease c f p s).memoryWf = true := by
  unfold recordRelease; split <;> simp [hs, promoRecord_memoryWf]

@[simp] theorem finishVector_memoryWf (c : Ctx) (f : FM) (zero : Bool) (n : Nat)
    (rs : List (Nat × List (Word × Bool))) (s : State) :
    (finishVector c f zero n rs s).memoryWf = s.memoryWf := by
  unfold finishVector
  dsimp only
  repeat' split
  all_goals simp

@[simp] theorem finishScalar_memoryWf (c : Ctx) (f : FM) (n : Nat) (rs : List (Nat × List (Word × Bool))) (s : State) :
    (finishScalar c f n rs s).memoryWf = s.memoryWf := by
  unfold finishScalar
  dsimp only
  split <;> simp

@[simp] theorem addFabric_memoryWf (c : Ctx) (f : FM) (n l addr : Nat) (place : Option Nat) (poa scalar signed : Bool)
    (regs : List Nat) (op : FabricOp) {s : State} (hs : s.memoryWf = true) :
    (addFabric c f n l addr place poa scalar signed regs op s).memoryWf = true := by
  simp [addFabric, hs]

@[simp] theorem ackWrite_memoryWf (c : Ctx) (p : Place) (v : Serve) (s : State) :
    (ackWrite c p v s).memoryWf = s.memoryWf := by
  unfold ackWrite; split <;> grind -ring -linarith -order [addAck_memoryWf]

/-! ## Loads, stores and atomics -/

@[simp] theorem loadLane_memoryWf (c : Ctx) (f : FM) (regs : List Nat) (scalar : Bool) (l : Nat) (t : LaneTrans)
    {s : State} (hs : s.memoryWf = true) :
    (loadLane c f regs scalar l t s).2.memoryWf = true := by
  unfold loadLane; split <;> simp [hs, globalRead_memoryWf]

@[simp] theorem vectorLoad_memoryWf (f : FM) (pair : Bool) (c : Ctx) {s : State} (hs : s.memoryWf = true) :
    (vectorLoad f pair c s).state.memoryWf = true := by
  grind -ring -linarith -order [vectorLoad, finishVector_memoryWf, globalAccess_memoryWf, loadLane_memoryWf]

@[simp] theorem storeLane_memoryWf (c : Ctx) (f : FM) (data : Nat → Nat) (l : Nat) (t : LaneTrans) {s : State}
    (hs : s.memoryWf = true) :
    (storeLane c f data l t s).2.memoryWf = true := by
  unfold storeLane; split <;> simp [hs, globalWrite_memoryWf]

@[simp] theorem vectorStore_memoryWf (f : FM) (pair : Bool) (c : Ctx) {s : State} (hs : s.memoryWf = true) :
    (vectorStore f pair c s).state.memoryWf = true := by
  grind -ring -linarith -order [vectorStore, storeLane_memoryWf, globalAccess_memoryWf]

@[simp] theorem atomLane_memoryWf (c : Ctx) (f : FM) (regs : List Nat) (scalar : Bool) (opnd swp : Nat → Nat)
    (l : Nat) (t : LaneTrans) {s : State} (hs : s.memoryWf = true) :
    (atomLane c f regs scalar opnd swp l t s).2.memoryWf = true := by
  unfold atomLane
  split <;> grind -ring -linarith -order [recordRelease_memoryWf, dropLine_memoryWf, atomPlace_memoryWf,
    ackWrite_memoryWf, addFabric_memoryWf, touchHome_memoryWf]

@[simp] theorem sharedLanes_memoryWf (f : Nat → Nat → State → List (Word × Bool) × State) (xs : List (Nat × Int))
    {s : State} (hf : ∀ x y s, s.memoryWf = true → (f x y s).2.memoryWf = true) (hs : s.memoryWf = true) :
    (sharedLanes f xs s).2.memoryWf = true := by
  fun_induction sharedLanes f xs s <;> grind -ring -linarith -order

@[simp] theorem sharedAccess_memoryWf (c : Ctx) (f : FM) (off : Int) (limit : Nat)
    (doLane : Nat → Nat → State → List (Word × Bool) × State)
    (finish : List (Nat × List (Word × Bool)) → State → State) {s : State}
    (hdoLane : ∀ x y s, s.memoryWf = true → (doLane x y s).2.memoryWf = true)
    (hfinish : ∀ x s, s.memoryWf = true → (finish x s).memoryWf = true) (hs : s.memoryWf = true) :
    (sharedAccess c f off limit doLane finish s).state.memoryWf = true := by
  grind -ring -linarith -order [sharedAccess, PassResult.state, sharedLanes_memoryWf, countWarp_memoryWf]

@[simp] theorem sharedFetch_memoryWf (k o n : Nat) (s : State) :
    (sharedFetch k o n s).2.memoryWf = s.memoryWf :=
  foldl_memoryWf _ (by simp) _ _

theorem execVstsh_answerWf (hd : Hdr) (f : FM) {s : State} (hs : s.memoryWf = true) :
    answerWf (execVstsh hd f s) = true := by
  refine runPass_answerWf (fun c s hs => ?_) hs
  dsimp only
  split <;> simp [hs]

@[simp] theorem sharedAtom_memoryWf (c : Ctx) (f : FM) (keep : Bool) (d swp o : Nat) (s : State) :
    (sharedAtom c f keep d swp o s).2.memoryWf = s.memoryWf := by
  unfold sharedAtom
  dsimp only
  repeat' split
  all_goals simp

theorem execVatomsh_answerWf (hd : Hdr) (f : FM) {s : State} (hs : s.memoryWf = true) :
    answerWf (execVatomsh hd f s) = true := by
  refine runPass_answerWf (fun c s hs => ?_) hs
  dsimp only
  split <;> simp [hs]

@[simp] theorem prefetchLine_memoryWf (c : Ctx) (f : FM) (p : Place) {s : State} (hs : s.memoryWf = true) :
    (prefetchLine c f p s).memoryWf = true := by
  unfold prefetchLine; split <;> simp [hs, l1Load_memoryWf]

@[simp] theorem vprefEffect_memoryWf (f : FM) (c : Ctx) {s : State} (hs : s.memoryWf = true) :
    (vprefEffect f c s).state.memoryWf = true := by
  grind -ring -linarith -order [vprefEffect, PassResult.state, queueWalk_memoryWf, prefetchLine_memoryWf,
    memoryWf_foldl]

theorem execFence_answerWf (hd : Hdr) (f : FM) {s : State} (hs : s.memoryWf = true) :
    answerWf (execFence hd f s) = true := by
  refine runChecked_answerWf (fun c s hs => ?_) hs
  grind -ring -linarith -order [PassResult.state, releaseL1_memoryWf, acquireL1_memoryWf]

/-! ## Tiles -/

@[simp] theorem setTile_memoryWf (s : State) (t i : Nat) (x : Tile) :
    (s.setTile t i x).memoryWf = s.memoryWf := by
  grind -ring -linarith -order [State.setTile, modTeam_memoryWf, modCore_memoryWf]

@[simp] theorem modTile_memoryWf (s : State) (t i : Nat) (f : Tile → Tile) :
    (s.modTile t i f).memoryWf = s.memoryWf := by
  simp [State.modTile]

@[simp] theorem tileRead_memoryWf (t : Nat) (x : Tile) (b n : Nat) (s : State) :
    (tileRead t x b n s).2.memoryWf = s.memoryWf := by
  grind -ring -linarith -order [tileRead, resolveShared_memoryWf, foldl_memoryWf]

@[simp] theorem tileWrite_memoryWf (t : Nat) (x : Tile) (b : Nat) (bs : List (Byte × Bool)) (s : State) :
    (tileWrite t x b bs s).memoryWf = s.memoryWf :=
  foldl_memoryWf _ (fun s a => by dsimp only; split <;> simp) _ _

@[simp] theorem creditTile_memoryWf (t i n : Nat) (s : State) :
    (creditTile t i n s).memoryWf = s.memoryWf := by
  unfold creditTile
  dsimp only
  repeat' split
  all_goals simp

@[simp] theorem fillIssues_memoryWf (t i : Nat) (s : State) :
    (fillIssues t i s).memoryWf = s.memoryWf := by
  simp [fillIssues]

@[simp] theorem fillEnds_memoryWf (t i : Nat) (s : State) :
    (fillEnds t i s).memoryWf = s.memoryWf := by
  simp [fillEnds]

@[simp] theorem readerIssues_memoryWf (t i : Nat) (s : State) :
    (readerIssues t i s).2.memoryWf = s.memoryWf := by
  simp [readerIssues]

@[simp] theorem tallocEffect_memoryWf (hd : Hdr) (f : FX) (c : Ctx) (s : State) :
    (tallocEffect hd f c s).state.memoryWf = s.memoryWf := by
  unfold tallocEffect
  dsimp only
  repeat' split
  all_goals simp

theorem execTfree_answerWf (hd : Hdr) (f : FX) {s : State} (hs : s.memoryWf = true) :
    answerWf (execTfree hd f s) = true := by
  refine runPass_answerWf (fun c s hs => ?_) hs
  dsimp only
  split <;> simp [hs]

theorem execTrel_answerWf (hd : Hdr) (f : FX) {s : State} (hs : s.memoryWf = true) :
    answerWf (execTrel hd f s) = true := by
  refine runPass_answerWf (fun c s hs => ?_) hs
  dsimp only
  split <;> simp [hs]

/-! ## Barriers -/

@[simp] theorem setBar_memoryWf (s : State) (t b : Nat) (x : Barrier) :
    (s.setBar t b x).memoryWf = s.memoryWf := by
  grind -ring -linarith -order [State.setBar, modTeam_memoryWf, modCore_memoryWf]

@[simp] theorem modBar_memoryWf (s : State) (t b : Nat) (f : Barrier → Barrier) :
    (s.modBar t b f).memoryWf = s.memoryWf := by
  simp [State.modBar]

@[simp] theorem regroupReads_memoryWf (base n k : Nat) (s : State) :
    (regroupReads base n k s).memoryWf = s.memoryWf := by
  simp [regroupReads]

@[simp] theorem regroupNow_memoryWf (t b : Nat) (s : State) :
    (regroupNow t b s).memoryWf = s.memoryWf := by
  grind -ring -linarith -order [regroupNow, setWarp_memoryWf, modBar_memoryWf, regroupReads_memoryWf,
    modWarp_memoryWf, foldl_memoryWf]

@[simp] theorem regroupAll_memoryWf (t : Nat) (s : State) :
    (regroupAll t s).memoryWf = s.memoryWf := by
  grind -ring -linarith -order [regroupAll, regroupNow_memoryWf, foldl_memoryWf]

@[simp] theorem barTest_memoryWf (t b : Nat) (s : State) :
    (barTest t b s).memoryWf = s.memoryWf := by
  unfold barTest
  dsimp only
  repeat' split
  all_goals simp

@[simp] theorem barRelease_memoryWf (t b : Nat) (s : State) :
    (barRelease t b s).memoryWf = s.memoryWf := by
  simp [barRelease]

@[simp] theorem creditBarrier_memoryWf (t b n : Nat) (s : State) :
    (creditBarrier t b n s).memoryWf = s.memoryWf := by
  unfold creditBarrier
  dsimp only
  split <;> simp

@[simp] theorem arrive_memoryWf (k t b scope : Nat) {s : State} (hs : s.memoryWf = true) :
    (arrive k t b scope s).memoryWf = true := by
  simp [arrive, hs, releaseL1_memoryWf]

@[simp] theorem arriveWith_memoryWf (c : Ctx) (f : FX) (go : BitVec 16 → State → PassResult) {s : State}
    (hgo : ∀ x s, s.memoryWf = true → (go x s).state.memoryWf = true) (hs : s.memoryWf = true) :
    (arriveWith c f go s).state.memoryWf = true := by
  grind -ring -linarith -order [arriveWith, PassResult.state, arrive_memoryWf]

@[simp] theorem withBarrier_memoryWf (c : Ctx) (f : FX) (go : Nat → Nat → PassResult) {s : State}
    (hgo : ∀ x y, (go x y).state.memoryWf = true) (hs : s.memoryWf = true) :
    (withBarrier c f go s).state.memoryWf = true := by
  grind -ring -linarith -order [withBarrier, PassResult.state]

theorem execBinit_answerWf (hd : Hdr) (f : FX) {s : State} (hs : s.memoryWf = true) :
    answerWf (execBinit hd f s) = true := by
  refine runPass_answerWf (fun c s hs => ?_) hs
  grind -ring -linarith -order [PassResult.state, withBarrier_memoryWf, setBar_memoryWf]

@[simp] theorem waitDone_memoryWf (c : Ctx) (f : FX) (t b : Nat) (s : State) :
    (waitDone c f t b s).memoryWf = s.memoryWf := by
  simp [waitDone]

theorem execBwait_answerWf (hd : Hdr) (f : FX) {s : State} (hs : s.memoryWf = true) :
    answerWf (execBwait hd f s) = true := by
  refine runChecked_answerWf (fun c s hs => ?_) hs
  grind -ring -linarith -order [PassResult.state, withBarrier_memoryWf, waitDone_memoryWf, modWarp_memoryWf]

@[simp] theorem bsyncWait_memoryWf (c : Ctx) (f : FX) (t b : Nat) (p : BitVec 16) (s : State) :
    (bsyncWait c f t b p s).state.memoryWf = s.memoryWf := by
  unfold bsyncWait; split <;> simp

theorem execBsync_answerWf (hd : Hdr) (f : FX) {s : State} (hs : s.memoryWf = true) :
    answerWf (execBsync hd f s) = true := by
  refine runChecked_answerWf (fun c s hs => ?_) hs
  dsimp only
  split <;> simp [hs]

theorem execBexp_answerWf (hd : Hdr) (f : FX) {s : State} (hs : s.memoryWf = true) :
    answerWf (execBexp hd f s) = true := by
  refine runPass_answerWf (fun c s hs => ?_) hs
  grind -ring -linarith -order [PassResult.state, withBarrier_memoryWf, setBar_memoryWf, barTest_memoryWf]

theorem execRegroup_answerWf (hd : Hdr) (f : FX) {s : State} (hs : s.memoryWf = true) :
    answerWf (execRegroup hd f s) = true := by
  refine runPass_answerWf (fun c s hs => ?_) hs
  grind -ring -linarith -order [PassResult.state, arrive_memoryWf, withBarrier_memoryWf, countIssue_memoryWf,
    setBar_memoryWf, modWarp_memoryWf]

/-! ## Lane exchange, reductions and votes -/

@[simp] theorem exchange_memoryWf (hd : Hdr) (c : Ctx) (d a : RCode) (pick : Nat → Nat) (s : State) :
    (exchange hd c d a pick s).state.memoryWf = s.memoryWf := by
  simp [exchange]

@[simp] theorem gather_memoryWf (c : Ctx) (op : Nat) (bad : Nat → Lanes) (eff : List (Instr × Lanes) → PassResult)
    {s : State} (heff : ∀ x, (eff x).state.memoryWf = true) (hs : s.memoryWf = true) :
    (gather c op bad eff s).state.memoryWf = true := by
  grind -ring -linarith -order [gather, PassResult.state]

theorem execVred_answerWf (hd : Hdr) (f : FV) {s : State} (hs : s.memoryWf = true) :
    answerWf (execVred hd f s) = true := by
  refine runPass_answerWf (fun c s hs => ?_) hs
  dsimp only
  split <;> simp [hs]

theorem execVvote_answerWf (hd : Hdr) (f : FV) {s : State} (hs : s.memoryWf = true) :
    answerWf (execVvote hd f s) = true := by
  refine runPass_answerWf (fun c s hs => ?_) hs
  dsimp only
  split <;> simp [hs]

/-! ## Gangs -/

@[simp] theorem gangFault_memoryWf (g : Nat) (r : Rendezvous) (f : Nat → FaultInfo) (s : State) :
    (gangFault g r f s).memoryWf = s.memoryWf :=
  foldl_memoryWf _ (by simp) _ _

@[simp] theorem gangBreak_memoryWf (k : Nat) (s : State) :
    (gangBreak k s).memoryWf = s.memoryWf :=
  foldl_memoryWf _ (by simp) _ _

/-! ## Control instructions -/

theorem fetchFault_memoryWf {lanes : Lanes} {fs : List (BitVec 8 × A80 × Lanes)} {s : State} {r : PassResult}
    (hr : fetchFault lanes fs s = some r) : r.state.memoryWf = s.memoryWf := by
  obtain ⟨x, -, rfl⟩ := Option.map_eq_some_iff.1 hr
  dsimp only
  split <;> rfl

theorem fetchLines_memoryWf (k : Nat) (ts : List (Nat × Word × Lanes)) {s : State} (hs : s.memoryWf = true)
    {r : PassResult} (hr : fetchLines k ts s = some r) :
    r.state.memoryWf = true := by
  grind -ring -linarith -order [fetchLines, PassResult.state, fetchFault_memoryWf, freeze_memoryWf, memoryWf_foldl]

@[simp] theorem addMoves_memoryWf (s : State) (m : Lanes) (o : Word) (point : Option Word) :
    (s.addMoves m o point).memoryWf = s.memoryWf := rfl

@[simp] theorem writeLink_memoryWf (c : Ctx) (s : State) :
    (writeLink c s).memoryWf = s.memoryWf := rfl

theorem fetchTargets_memoryWf (c : Ctx) {s : State} (hs : s.memoryWf = true) {r : PassResult}
    (hr : fetchTargets c s = some r) :
    r.state.memoryWf = true := by
  grind -ring -linarith -order [fetchTargets, fetchLines_memoryWf]

@[simp] theorem directTransfer_memoryWf (f : FC) (link : Bool) (c : Ctx) {s : State} (hs : s.memoryWf = true) :
    (directTransfer f link c s).state.memoryWf = true := by
  unfold directTransfer
  split
  · exact hs
  split
  case h_1 r hr => exact fetchTargets_memoryWf c hs hr
  repeat' split
  case h_2 cause va _ =>
    cases hr : fetchFault c.live [(cause, va, c.live)] s with
    | none => exact hs
    | some r => exact (fetchFault_memoryWf hr).trans hs
  all_goals simp [hs]

theorem indirectOutcome_memoryWf (ls : List Landing) (s : State) {r : PassResult} (hr : indirectOutcome ls s = some r) :
    r.state.memoryWf = s.memoryWf := by
  grind -ring -linarith -order [indirectOutcome, PassResult.state]

@[simp] theorem indirectTransfer_memoryWf (f : FCX) (pad : Option (BitVec 7)) (link : Bool) (c : Ctx) {s : State}
    (hs : s.memoryWf = true) :
    (indirectTransfer f pad link c s).state.memoryWf = true := by
  grind -ring -linarith -order [indirectTransfer, PassResult.state, indirectOutcome_memoryWf, addMoves_memoryWf,
    fetchLines_memoryWf, writeLink_memoryWf]

theorem execExit_answerWf (hd : Hdr) (f : FX) {s : State} (hs : s.memoryWf = true) :
    answerWf (execExit hd f s) = true := by
  refine runPass_answerWf (fun c s hs => ?_) hs
  grind -ring -linarith -order [PassResult.state, gangBreak_memoryWf, modWarp_memoryWf]

theorem execJoin_answerWf (hd : Hdr) (f : FC) {s : State} (hs : s.memoryWf = true) :
    answerWf (execJoin hd f s) = true := by
  refine runPass_answerWf (fun c s hs => ?_) hs
  grind -ring -linarith -order [PassResult.state, setWarp_memoryWf, countWarp_memoryWf]

theorem execYield_answerWf (hd : Hdr) (f : FX) {s : State} (hs : s.memoryWf = true) :
    answerWf (execYield hd f s) = true := by
  refine runPass_answerWf (fun c s hs => ?_) hs
  grind -ring -linarith -order [PassResult.state, modWarp_memoryWf]

theorem execPlane_answerWf (hd : Hdr) (f : FX) {s : State} (hs : s.memoryWf = true) :
    answerWf (execPlane hd f s) = true := by
  refine runPass_answerWf (fun c s hs => ?_) hs
  grind -ring -linarith -order [PassResult.state, modCur_memoryWf, fetchLines_memoryWf]

@[simp] theorem icacheFill_memoryWf (g key : Nat) (tkey : BitVec 8) {s : State} (hs : s.memoryWf = true) :
    (icacheFill g key tkey s).memoryWf = true := by
  grind -ring -linarith -order [icacheFill, modCore_memoryWf, resolveMem_memoryWf, touchHome_memoryWf, memoryWf_foldl]

@[simp] theorem codePrefetch_memoryWf (g : Nat) (p : Place) (tkey : BitVec 8) {s : State} (hs : s.memoryWf = true) :
    (codePrefetch g p tkey s).memoryWf = true := by
  unfold codePrefetch; split <;> simp [hs]

@[simp] theorem prefetchCode_memoryWf (c : Ctx) (line : Int) {s : State} (hs : s.memoryWf = true) :
    (prefetchCode c line s).memoryWf = true := by
  unfold prefetchCode
  dsimp only
  repeat' split
  all_goals simp [hs]

theorem execIpref_answerWf (hd : Hdr) (f : FC) {s : State} (hs : s.memoryWf = true) :
    answerWf (execIpref hd f s) = true := by
  refine runPass_answerWf (fun c s hs => ?_) hs
  grind -ring -linarith -order [PassResult.state, prefetchCode_memoryWf, memoryWf_foldl]

theorem execWset_answerWf (hd : Hdr) (f : FW) {s : State} (hs : s.memoryWf = true) :
    answerWf (execWset hd f s) = true := by
  refine runPass_answerWf (fun c s hs => ?_) hs
  grind -ring -linarith -order [PassResult.state, replaceSet_memoryWf]

/-! ## Floating point -/

@[simp] theorem putFloat_memoryWf (c : Ctx) (d : RCode) (tag : BitVec 4) (g : Nat → Word × FFlags) (s : State) :
    (putFloat c d tag g s).state.memoryWf = s.memoryWf := rfl

@[simp] theorem putFloatPred_memoryWf (c : Ctx) (d : RCode) (g : Nat → Bool × FFlags) (s : State) :
    (putFloatPred c d g s).state.memoryWf = s.memoryWf := rfl

@[simp] theorem floatEffect_memoryWf (hd : Hdr) (f : FV) (op : FVal → FVal → FVal → FVal × FFlags) (c : Ctx)
    (s : State) :
    (floatEffect hd f op c s).state.memoryWf = s.memoryWf := rfl

@[simp] theorem minMaxEffect_memoryWf (hd : Hdr) (f : FV) (isMax : Bool) (c : Ctx) (s : State) :
    (minMaxEffect hd f isMax c s).state.memoryWf = s.memoryWf := rfl

@[simp] theorem putSpecial_memoryWf (c : Ctx) (d : RCode) (tag : BitVec 4) (g : Nat → Word × FFlags) (s : State) :
    (putSpecial c d tag g s).state.memoryWf = s.memoryWf := by
  unfold putSpecial
  dsimp only
  repeat' split
  all_goals simp

@[simp] theorem specialEffect_memoryWf (op : Nat) (hd : Hdr) (f : FV) (g : FVal → Nat → Nat × FFlags) (c : Ctx)
    (s : State) :
    (specialEffect op hd f g c s).state.memoryWf = s.memoryWf := by
  simp [specialEffect]

@[simp] theorem rootEffect_memoryWf (hd : Hdr) (f : FV) (g : FVal → FVal × FFlags) (c : Ctx) (s : State) :
    (rootEffect hd f g c s).state.memoryWf = s.memoryWf := by
  simp [rootEffect]

/-! ## Accumulator memory and the matrix engine -/

@[simp] theorem accAccess_memoryWf (c : Ctx) (f : FM) (doLane : Nat → Nat → State → List (Word × Bool) × State)
    (finish : List (Nat × List (Word × Bool)) → State → State) {s : State}
    (hdoLane : ∀ x y s, s.memoryWf = true → (doLane x y s).2.memoryWf = true)
    (hfinish : ∀ x s, s.memoryWf = true → (finish x s).memoryWf = true) (hs : s.memoryWf = true) :
    (accAccess c f doLane finish s).state.memoryWf = true := by
  grind -ring -linarith -order [accAccess, PassResult.state, sharedLanes_memoryWf]

@[simp] theorem accFetch_memoryWf (t o n : Nat) (s : State) :
    (accFetch t o n s).2.memoryWf = s.memoryWf := by
  grind -ring -linarith -order [accFetch, resolveAcc_memoryWf, foldl_memoryWf]

theorem execStacc_answerWf (hd : Hdr) (f : FM) {s : State} (hs : s.memoryWf = true) :
    answerWf (execStacc hd f s) = true := by
  refine runPass_answerWf (fun c s hs => ?_) hs
  grind -ring -linarith -order [accAccess_memoryWf, accWrite_memoryWf, memoryWf_foldl]

@[simp] theorem onceEffect_memoryWf (go : Ctx → State → PassResult) (c : Ctx) {s : State}
    (hgo : ∀ x s, s.memoryWf = true → (go x s).state.memoryWf = true) (hs : s.memoryWf = true) :
    (onceEffect go c s).state.memoryWf = true := by
  grind -ring -linarith -order [onceEffect, PassResult.state]

theorem execMbatch_answerWf (hd : Hdr) (f : FX) {s : State} (hs : s.memoryWf = true) :
    answerWf (execMbatch hd f s) = true := by
  refine runPass_answerWf (fun c s hs => ?_) hs
  grind -ring -linarith -order [PassResult.state, onceEffect_memoryWf, modWarp_memoryWf]

@[simp] theorem mwaitEffect_memoryWf (f : FX) (c : Ctx) (s : State) :
    (mwaitEffect f c s).state.memoryWf = s.memoryWf := by
  unfold mwaitEffect
  dsimp only
  repeat' split
  all_goals simp

theorem execMgang_answerWf (hd : Hdr) (f : FX) {s : State} (hs : s.memoryWf = true) :
    answerWf (execMgang hd f s) = true := by
  refine runPass_answerWf (fun c s hs => ?_) hs
  grind -ring -linarith -order [PassResult.state, onceEffect_memoryWf, modWarp_memoryWf]

@[simp] theorem resolveTile_memoryWf (t : Nat) (x : Tile) (r0 n : Nat) (s : State) :
    (resolveTile t x r0 n s).memoryWf = s.memoryWf :=
  foldl_memoryWf _ (by simp) _ _

@[simp] theorem gangFaultOthers_memoryWf (k : Nat) (r : Rendezvous) (js : List Joined) (f : Nat → FaultInfo)
    (s : State) :
    (gangFaultOthers k r js f s).memoryWf = s.memoryWf := by
  simp [gangFaultOthers]

@[simp] theorem gangWait_memoryWf (k : Nat) (r : Rendezvous) (s : State) :
    (gangWait k r s).memoryWf = s.memoryWf := rfl

@[simp] theorem mmaRelease_memoryWf (i : Instr) (k : Nat) (js : List Joined) (tile dbase cbase : Nat)
    (cols : BitVec 256) (s : State) :
    (mmaRelease i k js tile dbase cbase cols s).memoryWf = s.memoryWf := by
  grind -ring -linarith -order [mmaRelease, modCore_memoryWf, advanceHeld_memoryWf, modWarp_memoryWf,
    readerIssues_memoryWf, foldl_memoryWf]

@[simp] theorem mmaChecks_memoryWf (i : Instr) (k : Nat) (r : Rendezvous) (js : List Joined) (s : State) :
    (mmaChecks i k r js s).state.memoryWf = s.memoryWf := by
  unfold mmaChecks
  dsimp only
  repeat' split
  all_goals simp

@[simp] theorem mmaEffect_memoryWf (i : Instr) (c : Ctx) (s : State) :
    (mmaEffect i c s).state.memoryWf = s.memoryWf := by
  unfold mmaEffect
  dsimp only
  repeat' split
  all_goals simp

@[simp] theorem mldaEffect_memoryWf (hd : Hdr) (f : FX) (c : Ctx) (s : State) :
    (mldaEffect hd f c s).state.memoryWf = s.memoryWf := by
  unfold mldaEffect
  dsimp only
  repeat' split
  all_goals simp

theorem execMzero_answerWf (hd : Hdr) (f : FX) {s : State} (hs : s.memoryWf = true) :
    answerWf (execMzero hd f s) = true := by
  refine runPass_answerWf (fun c s hs => ?_) hs
  grind -ring -linarith -order [PassResult.state, onceEffect_memoryWf, modCore_memoryWf, modWarp_memoryWf]

@[simp] theorem resolveCommand_memoryWf (q : MatrixCmd) (n : Nat) (s : State) :
    (resolveCommand q n s).memoryWf = s.memoryWf := by
  simp [resolveCommand]

@[simp] theorem startCommand_memoryWf (g : Nat) (q : MatrixCmd) (s : State) :
    (startCommand g q s).2.memoryWf = s.memoryWf := by
  unfold startCommand
  dsimp only
  repeat' split
  all_goals simp

@[simp] theorem execMatrixCommandStart_answerWf (core : Nat) {s : State} (hs : s.memoryWf = true) :
    answerWf (execMatrixCommandStart core s) = true := by
  unfold execMatrixCommandStart
  dsimp only
  repeat' split
  all_goals simp [hs]

@[simp] theorem execMatrixCommandComplete_answerWf (core : Nat) {s : State} (hs : s.memoryWf = true) :
    answerWf (execMatrixCommandComplete core s) = true := by
  grind -ring -linarith -order [execMatrixCommandComplete, answerWf, modCore_memoryWf, modWarp_memoryWf,
    accWrite_memoryWf, memoryWf_foldl]

@[simp] theorem execReaderFinish_answerWf (core i : Nat) {s : State} (hs : s.memoryWf = true) :
    answerWf (execReaderFinish core i s) = true := by
  unfold execReaderFinish
  dsimp only
  repeat' split
  all_goals simp [hs]

/-! ## Engines' accesses and descriptors -/

@[simp] theorem enginePlace_memoryWf (g : Nat) (l : Launch) (va : A80) (a : Access) {s : State}
    (hs : s.memoryWf = true) :
    (enginePlace g l va a s).2.memoryWf = true := by
  grind -ring -linarith -order [enginePlace, farPlace_memoryWf, translateNow_memoryWf]

@[simp] theorem slicePlaceRead_memoryWf (tkey : BitVec 8) (p : Place) (n : Nat) {s : State} (hs : s.memoryWf = true) :
    (slicePlaceRead tkey p n s).2.memoryWf = true := by
  grind -ring -linarith -order [slicePlaceRead, resolveMem_memoryWf, touchHome_memoryWf, memoryWf_foldl]

@[simp] theorem engineRead_memoryWf (g : Nat) (l : Launch) (p : Place) (n : Nat) {s : State} (hs : s.memoryWf = true) :
    (engineRead g l p n s).2.memoryWf = true := by
  unfold engineRead; split <;> simp [hs, globalRead_memoryWf]

@[simp] theorem engineWrite_memoryWf (g : Nat) (l : Launch) (p : Place) (bs : List (Byte × Bool)) {s : State}
    (hs : s.memoryWf = true) :
    (engineWrite g l p bs s).memoryWf = true := by
  unfold engineWrite
  dsimp only
  repeat' split
  all_goals simp [hs, homeMove_memoryWf, busPost_memoryWf, touchHome_memoryWf]

@[simp] theorem readPieces_memoryWf (g : Nat) (l : Launch) (xs : List (A80 × Nat)) {s : State}
    (hs : s.memoryWf = true) :
    (readPieces g l xs s).2.memoryWf = true := by
  fun_induction readPieces g l xs s <;> grind -ring -linarith -order [engineRead_memoryWf, enginePlace_memoryWf]

@[simp] theorem readRun_memoryWf (g : Nat) (l : Launch) (va : A80) (n : Nat) {s : State} (hs : s.memoryWf = true) :
    (readRun g l va n s).2.memoryWf = true := by
  simp [readRun, hs]

@[simp] theorem writePlaces_memoryWf (g : Nat) (l : Launch) (xs : List (A80 × Nat)) {s : State}
    (hs : s.memoryWf = true) :
    (writePlaces g l xs s).2.memoryWf = true := by
  fun_induction writePlaces g l xs s <;> grind -ring -linarith -order [enginePlace_memoryWf]

@[simp] theorem writeAt_memoryWf (g : Nat) (l : Launch) (xs : List (EnginePlace × Nat)) (bs : List (Byte × Bool))
    {s : State} (hs : s.memoryWf = true) :
    (writeAt g l xs bs s).memoryWf = true := by
  fun_induction writeAt g l xs bs s <;> grind -ring -linarith -order [engineWrite_memoryWf, countErrorAt_memoryWf]

@[simp] theorem writeRun_memoryWf (g : Nat) (l : Launch) (va : A80) (bs : List (Byte × Bool)) {s : State}
    (hs : s.memoryWf = true) :
    (writeRun g l va bs s).2.memoryWf = true := by
  grind -ring -linarith -order [writeRun, writeAt_memoryWf, writePlaces_memoryWf]

theorem usedDesc_memoryWf (k e : Nat) (r : PassResult) (hr : r.state.memoryWf = true) :
    (usedDesc k e r).state.memoryWf = true := by
  unfold usedDesc; split <;> grind -ring -linarith -order [PassResult.state, modWarp_memoryWf]

@[simp] theorem withDescriptor_memoryWf (c : Ctx) (va : A80) (len align : Nat) (go : List Byte → State → PassResult)
    {s : State} (hgo : ∀ x s, s.memoryWf = true → (go x s).state.memoryWf = true) (hs : s.memoryWf = true) :
    (withDescriptor c va len align go s).state.memoryWf = true := by
  grind -ring -linarith -order [withDescriptor, PassResult.state, stateErrorAt_memoryWf, usedDesc_memoryWf,
    queueWalk_memoryWf, modWarp_memoryWf]

@[simp] theorem readDescPieces_memoryWf (g : Nat) (l : Launch) (xs : List (A80 × Nat)) {s : State}
    (hs : s.memoryWf = true) :
    (readDescPieces g l xs s).2.memoryWf = true := by
  fun_induction readDescPieces g l xs s <;> grind -ring -linarith -order [engineRead_memoryWf, enginePlace_memoryWf,
    globalRead_memoryWf]

@[simp] theorem readDescriptor_memoryWf (k : Nat) (d : DescRead) {s : State} (hs : s.memoryWf = true) :
    (readDescriptor k d s).2.memoryWf = true := by
  simp [readDescriptor, hs]

@[simp] theorem execDescriptorReadReturn_answerWf (warp : Nat) {s : State} (hs : s.memoryWf = true) :
    answerWf (execDescriptorReadReturn warp s) = true := by
  grind -ring -linarith -order [execDescriptorReadReturn, answerWf, stateErrorAt_memoryWf, readDescriptor_memoryWf,
    modWarp_memoryWf]

/-! ## The transform pipe -/

@[simp] theorem sendRequest_memoryWf (c : Ctx) (i : Instr) (lanes : Lanes) (vsrcs : List VReg) (ssrcs : List Word)
    (vds : TagList) (sds : List Nat) (float : Bool) (s : State) :
    (sendRequest c i lanes vsrcs ssrcs vds sds float s).state.memoryWf = s.memoryWf := by
  unfold sendRequest
  dsimp only
  split <;> simp

@[simp] theorem xdecEffect_memoryWf (hd : Hdr) (f : FX) (c : Ctx) (s : State) :
    (xdecEffect hd f c s).state.memoryWf = s.memoryWf := by
  unfold xdecEffect
  dsimp only
  repeat' split
  all_goals simp

theorem execXtopk_answerWf (hd : Hdr) (f : FX) {s : State} (hs : s.memoryWf = true) :
    answerWf (execXtopk hd f s) = true := by
  refine runPass_answerWf (fun c s hs => ?_) hs
  grind -ring -linarith -order [PassResult.state, onceEffect_memoryWf, sendRequest_memoryWf]

theorem execXplane_answerWf (hd : Hdr) (f : FX) {s : State} (hs : s.memoryWf = true) :
    answerWf (execXplane hd f s) = true := by
  refine runPass_answerWf (fun c s hs => ?_) hs
  dsimp only
  repeat' split
  all_goals simp [hs]

@[simp] theorem resolveStream_memoryWf (r : XRequest) (s : State) :
    (resolveStream r s).memoryWf = s.memoryWf := by
  grind -ring -linarith -order [resolveStream, sharedFetch_memoryWf, foldl_memoryWf]

@[simp] theorem execTransformServiceStart_answerWf (core : Nat) {s : State} (hs : s.memoryWf = true) :
    answerWf (execTransformServiceStart core s) = true := by
  grind -ring -linarith -order [execTransformServiceStart, answerWf, modCore_memoryWf]

@[simp] theorem execTransformReply_answerWf (core : Nat) {s : State} (hs : s.memoryWf = true) :
    answerWf (execTransformReply core s) = true := by
  unfold execTransformReply
  dsimp only
  repeat' split
  all_goals simp [hs]

/-! ## The copy engine -/

@[simp] theorem readBits_memoryWf (g : Nat) (l : Launch) (xs : List (A80 × Nat × Nat)) {s : State}
    (hs : s.memoryWf = true) :
    (readBits g l xs s).2.memoryWf = true := by
  fun_induction readBits g l xs s <;> grind -ring -linarith -order [readRun_memoryWf]

@[simp] theorem readElem_memoryWf (g : Nat) (l : Launch) (q : CopyCmd) (x : Tensor) (r c : Nat) {s : State}
    (hs : s.memoryWf = true) :
    (readElem g l q x r c s).2.memoryWf = true := by
  grind -ring -linarith -order [readElem, readBits_memoryWf]

@[simp] theorem gatherFrom_memoryWf (g : Nat) (l : Launch) (q : CopyCmd) (x : Tensor) (r : Nat) (xs : List Nat)
    {s : State} (hs : s.memoryWf = true) :
    (gatherFrom g l q x r xs s).2.2.2.memoryWf = true := by
  fun_induction gatherFrom g l q x r xs s <;> grind -ring -linarith -order [readElem_memoryWf]

@[simp] theorem deliverRow_memoryWf (t i row first : Nat) (bs : List (Byte × Bool)) (s : State) :
    (deliverRow t i row first bs s).2.memoryWf = s.memoryWf := by
  unfold deliverRow
  dsimp only
  split <;> simp

@[simp] theorem fillRow_memoryWf (t i row first : Nat) (bs : List (Byte × Bool)) (s : State) :
    (fillRow t i row first bs s).memoryWf = s.memoryWf := by
  simp [fillRow]

@[simp] theorem queueCopy_memoryWf (q : CopyCmd) (own : Bool) (s : State) :
    (queueCopy q own s).memoryWf = s.memoryWf := by
  grind -ring -linarith -order [queueCopy, State.memoryWf, modCore_memoryWf, fillIssues_memoryWf, readerIssues_memoryWf]

@[simp] theorem copyTile_memoryWf (c : Ctx) (f : FX) (q : CopyCmd) (s : State) :
    (copyTile c f q s).state.memoryWf = s.memoryWf := by
  unfold copyTile
  dsimp only
  repeat' split
  all_goals simp

@[simp] theorem copyIndex_memoryWf (c : Ctx) (f : FX) (q : CopyCmd) (s : State) :
    (copyIndex c f q s).state.memoryWf = s.memoryWf := by
  unfold copyIndex
  dsimp only
  repeat' split
  all_goals simp

@[simp] theorem copyChecks_memoryWf (c : Ctx) (f : FX) (kind : CopyKind) (d : List Byte) (s : State) :
    (copyChecks c f kind d s).state.memoryWf = s.memoryWf := by
  unfold copyChecks
  dsimp only
  repeat' split
  all_goals simp

@[simp] theorem copyEffect_memoryWf (f : FX) (kind : CopyKind) (c : Ctx) {s : State} (hs : s.memoryWf = true) :
    (copyEffect f kind c s).state.memoryWf = true := by
  simp [copyEffect, hs]

@[simp] theorem modCopy_memoryWf (g id : Nat) (f : CopyCmd → CopyCmd) (s : State) :
    (modCopy g id f s).memoryWf = s.memoryWf := rfl

@[simp] theorem stopCopy_memoryWf (g : Nat) (q : CopyCmd) (cause : BitVec 8) (va : A80) (s : State) :
    (stopCopy g q cause va s).memoryWf = s.memoryWf := by
  unfold stopCopy; split <;> simp

@[simp] theorem countSaturated_memoryWf (q : CopyCmd) (n : Nat) (s : State) :
    (countSaturated q n s).memoryWf = s.memoryWf := by
  unfold countSaturated; split <;> simp

@[simp] theorem castRow_memoryWf (g : Nat) (q : CopyCmd) (bs : List (Byte × Bool)) (s : State) :
    (castRow g q bs s).memoryWf = s.memoryWf :=
  foldl_memoryWf _ (fun s a => by dsimp only; split <;> simp) _ _

@[simp] theorem stoppedBy_memoryWf (g : Nat) (q : CopyCmd) (a : RowAns) (s : State) :
    (stoppedBy g q a s).memoryWf = s.memoryWf := by
  unfold stoppedBy; split <;> simp

@[simp] theorem fillStep_memoryWf (g : Nat) (q : CopyCmd) {s : State} (hs : s.memoryWf = true) :
    (fillStep g q s).memoryWf = true := by
  unfold fillStep
  dsimp only
  repeat' split
  all_goals simp [hs]

@[simp] theorem elemPlaces_memoryWf (g : Nat) (l : Launch) (ps : List (A80 × Nat × Nat)) {s : State}
    (hs : s.memoryWf = true) :
    (elemPlaces g l ps s).2.memoryWf = true := by
  simp [elemPlaces, hs]

@[simp] theorem mergeBits_memoryWf (g : Nat) (l : Launch) (p : EnginePlace) (bit n v : Nat) (bad : Bool) {s : State}
    (hs : s.memoryWf = true) :
    (mergeBits g l p bit n v bad s).memoryWf = true := by
  unfold mergeBits; split <;> simp [hs]

@[simp] theorem reachable_memoryWf (g : Nat) (l : Launch) (xs : List (Option (List (A80 × Nat × Nat)))) {s : State}
    (hs : s.memoryWf = true) :
    (reachable g l xs s).2.2.memoryWf = true := by
  fun_induction reachable g l xs s <;> grind -ring -linarith -order [elemPlaces_memoryWf]

@[simp] theorem storeBits_memoryWf (g : Nat) (l : Launch) (start n v : Nat) (bad : Bool) {s : State}
    (hs : s.memoryWf = true) :
    (storeBits g l start n v bad s).memoryWf = true := by
  unfold storeBits; split <;> simp [hs]

@[simp] theorem storeRun_memoryWf (g : Nat) (l : Launch) (w start : Nat) (xs : List (Nat × Bool)) {s : State}
    (hs : s.memoryWf = true) :
    (storeRun g l w start xs s).memoryWf = true := by
  grind -ring -linarith -order [storeRun, writeRun_memoryWf, storeBits_memoryWf]

@[simp] theorem storeElems_memoryWf (g : Nat) (l : Launch) (x : Tensor) (es : List StoreElem) {s : State}
    (hs : s.memoryWf = true) :
    (storeElems g l x es s).memoryWf = true := by
  grind -ring -linarith -order [storeElems, storeRun_memoryWf, storeBits_memoryWf, memoryWf_foldl]

@[simp] theorem storeStep_memoryWf (g : Nat) (q : CopyCmd) {s : State} (hs : s.memoryWf = true) :
    (storeStep g q s).memoryWf = true := by
  unfold storeStep
  dsimp only
  repeat' split
  all_goals simp [hs]

@[simp] theorem prefetchPlace_memoryWf (l : Launch) (lk level : Nat) (pin : Bool) (key : Nat) (s : State) :
    (prefetchPlace l lk level pin key s).memoryWf = s.memoryWf := by
  grind -ring -linarith -order [prefetchPlace, l2Place_memoryWf, segPlace_memoryWf]

@[simp] theorem prefetchLines_memoryWf (g : Nat) (l : Launch) (q : CopyCmd) (xs : List Nat) {s : State}
    (hs : s.memoryWf = true) :
    (prefetchLines g l q xs s).memoryWf = true := by
  fun_induction prefetchLines g l q xs s <;> grind -ring -linarith -order [stateErrorAt_memoryWf,
    translateNow_memoryWf, prefetchPlace_memoryWf, modCopy_memoryWf]

@[simp] theorem prefStep_memoryWf (g : Nat) (q : CopyCmd) {s : State} (hs : s.memoryWf = true) :
    (prefStep g q s).memoryWf = true := by
  simp [prefStep, hs]

@[simp] theorem execCopyRowWrite_answerWf (core i : Nat) {s : State} (hs : s.memoryWf = true) :
    answerWf (execCopyRowWrite core i s) = true := by
  unfold execCopyRowWrite
  dsimp only
  repeat' split
  all_goals simp [hs]

@[simp] theorem copyCredits_memoryWf (q : CopyCmd) (s : State) :
    (copyCredits q s).memoryWf = s.memoryWf := by
  grind -ring -linarith -order [copyCredits, creditBarrier_memoryWf, foldl_memoryWf]

@[simp] theorem execCopyCommandComplete_answerWf (core i : Nat) {s : State} (hs : s.memoryWf = true) :
    answerWf (execCopyCommandComplete core i s) = true := by
  unfold execCopyCommandComplete
  dsimp only
  repeat' split
  all_goals simp [hs]

@[simp] theorem execMulticastDelivery_answerWf (pkg i : Nat) {s : State} (hs : s.memoryWf = true) :
    answerWf (execMulticastDelivery pkg i s) = true := by
  unfold execMulticastDelivery
  dsimp only
  repeat' split
  all_goals simp [hs]

/-! ## Queues, channels and the turnaround -/

@[simp] theorem setHq_memoryWf (s : State) (t q : Nat) (x : HQueue) :
    (s.setHq t q x).memoryWf = s.memoryWf := rfl

@[simp] theorem withQueue_memoryWf (c : Ctx) (f : FX) (go : Nat → Nat → HQueue → PassResult) (s : State)
    (hgo : ∀ t q x, (go t q x).state.memoryWf = true) : (withQueue c f go s).state.memoryWf = true :=
  hgo _ _ _

theorem execHqpush_answerWf (hd : Hdr) (f : FX) {s : State} (hs : s.memoryWf = true) :
    answerWf (execHqpush hd f s) = true := by
  refine runChecked_answerWf (fun c s hs => ?_) hs
  grind -ring -linarith -order [PassResult.state, sharedStore_memoryWf, setHq_memoryWf, withQueue_memoryWf]

@[simp] theorem takeEntry_memoryWf (k t q : Nat) (x : HQueue) (s : State) :
    (takeEntry k t q x s).2.2.memoryWf = s.memoryWf := by
  simp [takeEntry]

@[simp] theorem produceWord_memoryWf (c : Ctx) (code : Nat) (v : Word) (poison : Bool) (s : State) :
    (produceWord c code v poison s).memoryWf = s.memoryWf := rfl

theorem execHqpop_answerWf (hd : Hdr) (f : FX) {s : State} (hs : s.memoryWf = true) :
    answerWf (execHqpop hd f s) = true := by
  refine runChecked_answerWf (fun c s hs => ?_) hs
  grind -ring -linarith -order [PassResult.state, produceWord_memoryWf, takeEntry_memoryWf, withQueue_memoryWf]

theorem execHqtry_answerWf (hd : Hdr) (f : FX) {s : State} (hs : s.memoryWf = true) :
    answerWf (execHqtry hd f s) = true := by
  refine runChecked_answerWf (fun c s hs => ?_) hs
  grind -ring -linarith -order [PassResult.state, takeEntry_memoryWf, modWarp_memoryWf, withQueue_memoryWf]

@[simp] theorem setSend_memoryWf (s : State) (t e : Nat) (x : Endpoint) :
    (s.setSend t e x).memoryWf = s.memoryWf := rfl

@[simp] theorem setRecv_memoryWf (s : State) (t e : Nat) (x : Endpoint) :
    (s.setRecv t e x).memoryWf = s.memoryWf := rfl

@[simp] theorem csendEffect_memoryWf (f : FX) (c : Ctx) {s : State} (hs : s.memoryWf = true) :
    (csendEffect f c s).state.memoryWf = true := by
  unfold csendEffect
  dsimp only
  repeat' split
  all_goals simp [hs, releaseL1_memoryWf]

@[simp] theorem returnCredit_memoryWf (k t : Nat) (x : Endpoint) (s : State) :
    (returnCredit k t x s).memoryWf = s.memoryWf := by
  unfold returnCredit; split <;> simp

@[simp] theorem crecvEffect_memoryWf (f : FX) (c : Ctx) (s : State) :
    (crecvEffect f c s).state.memoryWf = s.memoryWf := by
  unfold crecvEffect
  dsimp only
  repeat' split
  all_goals simp

@[simp] theorem execChannelDelivery_answerWf (pkg i : Nat) {s : State} (hs : s.memoryWf = true) :
    answerWf (execChannelDelivery pkg i s) = true := by
  unfold execChannelDelivery
  dsimp only
  repeat' split
  all_goals simp [hs]

@[simp] theorem execChannelCreditReturn_answerWf (pkg i : Nat) {s : State} (hs : s.memoryWf = true) :
    answerWf (execChannelCreditReturn pkg i s) = true := by
  unfold execChannelCreditReturn
  dsimp only
  repeat' split
  all_goals simp [hs]

@[simp] theorem endTurn_memoryWf (p : Nat) (s : State) :
    (endTurn p s).memoryWf = s.memoryWf := by
  unfold endTurn
  dsimp only
  repeat' split
  all_goals simp

@[simp] theorem execTurnaroundStart_answerWf (pkg : Nat) {s : State} (hs : s.memoryWf = true) :
    answerWf (execTurnaroundStart pkg s) = true := by
  unfold execTurnaroundStart
  dsimp only
  split <;> simp [hs]

@[simp] theorem execModuleDrained_answerWf (pkg module : Nat) {s : State} (hs : s.memoryWf = true) :
    answerWf (execModuleDrained pkg module s) = true := by
  unfold execModuleDrained
  dsimp only
  split <;> simp [hs]

@[simp] theorem execModuleDeadTimeExpiry_answerWf (pkg module : Nat) {s : State} (hs : s.memoryWf = true) :
    answerWf (execModuleDeadTimeExpiry pkg module s) = true := by
  unfold execModuleDeadTimeExpiry
  dsimp only
  split <;> simp [hs]

@[simp] theorem execStarvationGuard_answerWf (pkg toward : Nat) {s : State} (hs : s.memoryWf = true) :
    answerWf (execStarvationGuard pkg toward s) = true := by
  unfold execStarvationGuard
  dsimp only
  split <;> simp [hs]

@[simp] theorem veerEffect_memoryWf (f : FX) (c : Ctx) (s : State) :
    (veerEffect f c s).state.memoryWf = s.memoryWf := by
  unfold veerEffect
  dsimp only
  repeat' split
  all_goals simp

end Sys2Proof.Machine
end

section
/-!
PROOFS. Canonical memory, part 3: the front end, collectives, the fabric, teams and the host's commands.
-/

namespace Sys2Proof.Machine

open Sys2Proof

/-! ## The front end's accesses -/

@[simp] theorem fePlace_memoryWf (p : Nat) (r : Ring) (va : A80) (a : Access) {s : State} (hs : s.memoryWf = true) :
    (fePlace p r va a s).2.memoryWf = true := by
  unfold fePlace
  dsimp only
  repeat' split
  all_goals simp [hs]

@[simp] theorem fePieces_memoryWf (p : Nat) (r : Ring) (xs : List (A80 × Nat)) {s : State} (hs : s.memoryWf = true) :
    (fePieces p r xs s).2.memoryWf = true := by
  fun_induction fePieces p r xs s <;> grind -ring -linarith -order [fePlace_memoryWf, busTake_memoryWf,
    slicePlaceRead_memoryWf]

@[simp] theorem feRead_memoryWf (p : Nat) (r : Ring) (va : A80) (n : Nat) {s : State} (hs : s.memoryWf = true) :
    (feRead p r va n s).2.memoryWf = true := by
  simp [feRead, hs]

@[simp] theorem fePlaces_memoryWf (p : Nat) (r : Ring) (xs : List (A80 × Nat)) {s : State} (hs : s.memoryWf = true) :
    (fePlaces p r xs s).2.memoryWf = true := by
  fun_induction fePlaces p r xs s <;> grind -ring -linarith -order [fePlace_memoryWf]

@[simp] theorem feStore_memoryWf (p : Nat) (r : Ring) (xs : List (EnginePlace × Nat)) (bs : List (Byte × Bool))
    {s : State} (hs : s.memoryWf = true) :
    (feStore p r xs bs s).memoryWf = true := by
  fun_induction feStore p r xs bs s <;> grind -ring -linarith -order [homeMove_memoryWf, busPost_memoryWf,
    touchHome_memoryWf, countError_memoryWf]

@[simp] theorem feWrite_memoryWf (p : Nat) (r : Ring) (va : A80) (bs : List (Byte × Bool)) {s : State}
    (hs : s.memoryWf = true) :
    (feWrite p r va bs s).2.memoryWf = true := by
  grind -ring -linarith -order [feWrite, fePlaces_memoryWf, feStore_memoryWf]

@[simp] theorem readRecord_memoryWf (p ring slot : Nat) {s : State} (hs : s.memoryWf = true) :
    (readRecord p ring slot s).2.memoryWf = true := by
  grind -ring -linarith -order [readRecord, feRead_memoryWf]

/-! ## Collectives -/

@[simp] theorem withGroup_memoryWf (c : Ctx) (va : A80) (go : Group → State → PassResult) {s : State}
    (hgo : ∀ x s, s.memoryWf = true → (go x s).state.memoryWf = true) (hs : s.memoryWf = true) :
    (withGroup c va go s).state.memoryWf = true := by
  grind -ring -linarith -order [withGroup, PassResult.state, withDescriptor_memoryWf]

@[simp] theorem joinInst_memoryWf (table : List (BitVec 64)) (k : Word) (j : CollJoin) (s : State) :
    (joinInst table k j s).memoryWf = s.memoryWf := by
  unfold joinInst
  dsimp only
  repeat' split
  all_goals rfl

@[simp] theorem engineFault_memoryWf (c : Ctx) (a : EngineAns) (s : State) :
    (engineFault c a s).state.memoryWf = s.memoryWf := by
  unfold engineFault; split <;> simp

@[simp] theorem takeInstance_memoryWf (c : Ctx) (va : A80) (x : Group) (j : CollJoin) {s : State}
    (hs : s.memoryWf = true) :
    (takeInstance c va x j s).state.memoryWf = true := by
  grind -ring -linarith -order [takeInstance, PassResult.state, joinInst_memoryWf, homeStore_memoryWf,
    readRun_memoryWf, dropLine_memoryWf, enginePlace_memoryWf, engineFault_memoryWf, touchHome_memoryWf]

@[simp] theorem readRuns_memoryWf (k n : Nat) (reads : Bool) (xs : List LaneRun) (s : State) :
    (readRuns k n reads xs s).2.memoryWf = s.memoryWf := by
  fun_induction readRuns k n reads xs s <;> grind -ring -linarith -order [sharedFetch_memoryWf]

@[simp] theorem collChecks_memoryWf (c : Ctx) (f : FX) (q : CollParams) (get : Bool) (va : A80) (x : Group)
    {s : State} (hs : s.memoryWf = true) :
    (collChecks c f q get va x s).state.memoryWf = true := by
  unfold collChecks
  dsimp only
  repeat' split
  all_goals simp [hs]

@[simp] theorem collEffect_memoryWf (f : FX) (q : CollParams) (get : Bool) (c : Ctx) {s : State}
    (hs : s.memoryWf = true) :
    (collEffect f q get c s).state.memoryWf = true := by
  grind -ring -linarith -order [collEffect, withGroup_memoryWf, collChecks_memoryWf]

@[simp] theorem repartChecks_memoryWf (c : Ctx) (f : FX) (x : Repart) (g : Group) {s : State} (hs : s.memoryWf = true) :
    (repartChecks c f x g s).state.memoryWf = true := by
  unfold repartChecks
  dsimp only
  repeat' split
  all_goals simp [hs, releaseL1_memoryWf]

theorem execRepart_answerWf (hd : Hdr) (f : FX) {s : State} (hs : s.memoryWf = true) :
    answerWf (execRepart hd f s) = true := by
  refine runPass_answerWf (fun c s hs => ?_) hs
  grind -ring -linarith -order [PassResult.state, withGroup_memoryWf, withDescriptor_memoryWf, repartChecks_memoryWf]

@[simp] theorem modInst_memoryWf (s : State) (i : Nat) (f : Inst → Inst) :
    (s.modInst i f).memoryWf = s.memoryWf := by
  grind -ring -linarith -order [State.modInst, State.memoryWf]

@[simp] theorem modJoin_memoryWf (s : State) (i m : Nat) (f : CollJoin → CollJoin) :
    (s.modJoin i m f).memoryWf = s.memoryWf := by
  simp [State.modJoin]

@[simp] theorem fetchRun_memoryWf (j : CollJoin) (n : Nat) (r : CollRun) (s : State) :
    (fetchRun j n r s).2.memoryWf = s.memoryWf := by
  grind -ring -linarith -order [fetchRun, resolveShared_memoryWf, foldl_memoryWf]

@[simp] theorem sendParts_memoryWf (j : CollJoin) (n : Nat) (c : Chunk) (xs : List CollRun) (s : State) :
    (sendParts j n c xs s).2.memoryWf = s.memoryWf := by
  fun_induction sendParts j n c xs s <;> grind -ring -linarith -order [fetchRun_memoryWf]

@[simp] theorem writeMember_memoryWf (i : Nat) (x : Inst) (c : Chunk) (m : Nat) (s : State) :
    (writeMember i x c m s).memoryWf = s.memoryWf := by
  grind -ring -linarith -order [writeMember, modInst_memoryWf, modJoin_memoryWf, sharedMove_memoryWf, foldl_memoryWf]

@[simp] theorem writeChunk_memoryWf (i : Nat) (x : Inst) (c : Chunk) (s : State) :
    (writeChunk i x c s).memoryWf = s.memoryWf := by
  grind -ring -linarith -order [writeChunk, writeMember_memoryWf, foldl_memoryWf]

@[simp] theorem modChunk_memoryWf (s : State) (i n : Nat) (f : Chunk → Chunk) :
    (s.modChunk i n f).memoryWf = s.memoryWf := by
  simp [State.modChunk]

@[simp] theorem settleChunk_memoryWf (i n : Nat) (s : State) :
    (settleChunk i n s).memoryWf = s.memoryWf := by
  grind -ring -linarith -order [settleChunk, modChunk_memoryWf, writeChunk_memoryWf]

theorem holdInSlot_memoryWf (p d i n : Nat) (ms : List Nat) (s : State) {t : State}
    (ht : holdInSlot p d i n ms s = some t) :
    t.memoryWf = s.memoryWf := by
  grind -ring -linarith -order [holdInSlot, modPkg_memoryWf]

@[simp] theorem freeSlot_memoryWf (p i n : Nat) (s : State) :
    (freeSlot p i n s).memoryWf = s.memoryWf := rfl

@[simp] theorem freeSlots_memoryWf (i n : Nat) (s : State) :
    (freeSlots i n s).memoryWf = s.memoryWf :=
  foldl_memoryWf _ (by simp) _ _

@[simp] theorem reachRoot_memoryWf (i n : Nat) (ms : List Nat) (s : State) :
    (reachRoot i n ms s).memoryWf = s.memoryWf := by
  simp [reachRoot]

@[simp] theorem passUp_memoryWf (i n : Nat) (x : Inst) (c : Chunk) (fuel v : Nat) (s : State) :
    (passUp i n x c fuel v s).memoryWf = s.memoryWf := by
  fun_induction passUp i n x c fuel v s <;> grind -ring -linarith -order [holdInSlot_memoryWf, freeSlot_memoryWf,
    reachRoot_memoryWf]

@[simp] theorem sendChunk_memoryWf (i n m : Nat) (x : Inst) (c : Chunk) (j : CollJoin) (s : State) :
    (sendChunk i n m x c j s).memoryWf = s.memoryWf := by
  unfold sendChunk
  dsimp only
  split
  · split
    · rfl
    · rename_i h1
      obtain ⟨g, -, hg⟩ := Option.bind_eq_some_iff.1 h1
      simp [holdInSlot_memoryWf _ _ _ _ _ _ hg]
  · simp

@[simp] theorem retryChunk_memoryWf (i n m : Nat) (x : Inst) (c : Chunk) (s : State) :
    (retryChunk i n m x c s).memoryWf = s.memoryWf :=
  foldl_memoryWf _ (by simp) _ _

@[simp] theorem joinFault_memoryWf (i m : Nat) (a : EngineAns) (wr : Bool) (s : State) :
    (joinFault i m a wr s).memoryWf = s.memoryWf := by
  grind -ring -linarith -order [joinFault, modJoin_memoryWf, stateErrorAt_memoryWf, endTeam_memoryWf]

@[simp] theorem readItems_memoryWf (j : CollJoin) (xs : List Nat) {s : State} (hs : s.memoryWf = true) :
    (readItems j xs s).2.memoryWf = true := by
  fun_induction readItems j xs s <;> grind -ring -linarith -order [readRun_memoryWf]

@[simp] theorem landItems_memoryWf (j d : CollJoin) (xs : List (Nat × Nat)) {s : State} (hs : s.memoryWf = true) :
    (landItems j d xs s).2.memoryWf = true := by
  fun_induction landItems j d xs s <;> grind -ring -linarith -order [writeRun_memoryWf, readRun_memoryWf]

@[simp] theorem listResidue_memoryWf (x : Inst) (j : CollJoin) {s : State} (hs : s.memoryWf = true) :
    (listResidue x j s).2.memoryWf = true := by
  grind -ring -linarith -order [listResidue, writeRun_memoryWf]

theorem stepsUntil_memoryWf {α : Type} (fs : List (State → Option α × State)) {s : State}
    (hf : ∀ f ∈ fs, ∀ t, t.memoryWf = true → (f t).2.memoryWf = true) (hs : s.memoryWf = true) :
    (stepsUntil fs s).2.memoryWf = true := by
  fun_induction stepsUntil fs s with
  | case1 => exact hs
  | case2 f fs s s1 hr ih =>
    refine ih (fun g hg => hf g (List.mem_cons_of_mem _ hg)) ?_
    simpa [hr] using hf f List.mem_cons_self s hs
  | case3 => exact hf _ List.mem_cons_self _ hs

/-- Each step of a REPART's delivery keeps memory canonical. -/
theorem repartSteps_memoryWf {s : State} {x : Inst} {f : State → Option (Nat × EngineAns × Bool) × State}
    (hf : f ∈ repartSteps s x) {t : State} (ht : t.memoryWf = true) : (f t).2.memoryWf = true := by
  simp only [repartSteps, List.mem_append, List.mem_flatMap, List.mem_map] at hf
  rcases hf with ⟨d, -, j, -, rfl⟩ | ⟨j, -, rfl⟩
  · exact landItems_memoryWf _ _ _ ht
  · exact listResidue_memoryWf _ _ ht

@[simp] theorem repartMove_memoryWf (i : Nat) {s : State} (hs : s.memoryWf = true) :
    (repartMove i s).memoryWf = true := by
  unfold repartMove
  split
  · exact hs
  · rename_i x _
    have hm := stepsUntil_memoryWf (repartSteps s x) (fun f hf t ht => repartSteps_memoryWf hf ht) hs
    grind -ring -linarith -order [joinFault_memoryWf, modInst_memoryWf]

@[simp] theorem repartPacket_memoryWf (i m n : Nat) (x : Inst) (c : Chunk) (j : CollJoin) {s : State}
    (hs : s.memoryWf = true) :
    (repartPacket i m n x c j s).memoryWf = true := by
  grind -ring -linarith -order [repartPacket, modChunk_memoryWf, modJoin_memoryWf, joinFault_memoryWf,
    readItems_memoryWf, countErrorAt_memoryWf, repartMove_memoryWf]

@[simp] theorem execCollectivePacket_answerWf (inst member chunk : Nat) {s : State} (hs : s.memoryWf = true) :
    answerWf (execCollectivePacket inst member chunk s) = true := by
  unfold execCollectivePacket
  split <;> grind -ring -linarith -order [answerWf, modInst_memoryWf, retryChunk_memoryWf, repartPacket_memoryWf,
    sendChunk_memoryWf]

@[simp] theorem execCollectiveDeadlineExpiry_answerWf (inst member chunk : Nat) {s : State} (hs : s.memoryWf = true) :
    answerWf (execCollectiveDeadlineExpiry inst member chunk s) = true := by
  grind -ring -linarith -order [execCollectiveDeadlineExpiry, answerWf, modChunk_memoryWf]

@[simp] theorem execCollectiveRerun_answerWf (inst chunk : Nat) {s : State} (hs : s.memoryWf = true) :
    answerWf (execCollectiveRerun inst chunk s) = true := by
  unfold execCollectiveRerun
  dsimp only
  repeat' split
  all_goals simp [hs]

@[simp] theorem execMemberLost_answerWf (inst member chunk : Nat) {s : State} (hs : s.memoryWf = true) :
    answerWf (execMemberLost inst member chunk s) = true := by
  unfold execMemberLost
  dsimp only
  repeat' split
  all_goals simp [hs]

@[simp] theorem creditJoin_memoryWf (i : Nat) (x : Inst) (j : CollJoin) (s : State) :
    (creditJoin i x j s).memoryWf = s.memoryWf := by
  unfold creditJoin
  dsimp only
  repeat' split
  all_goals simp

@[simp] theorem closeInst_memoryWf (i : Nat) (s : State) :
    (closeInst i s).memoryWf = s.memoryWf := by
  grind -ring -linarith -order [closeInst, State.memoryWf]

@[simp] theorem execCollectiveInstanceComplete_answerWf (inst member : Nat) {s : State} (hs : s.memoryWf = true) :
    answerWf (execCollectiveInstanceComplete inst member s) = true := by
  grind -ring -linarith -order [execCollectiveInstanceComplete, answerWf, writeRun_memoryWf, modJoin_memoryWf,
    joinFault_memoryWf, creditJoin_memoryWf, closeInst_memoryWf]

@[simp] theorem execGatewayReset_answerWf (pkg die : Nat) {s : State} (hs : s.memoryWf = true) :
    answerWf (execGatewayReset pkg die s) = true := by
  unfold execGatewayReset; split <;> simp [hs]

/-! ## Fabric requests, writebacks and acknowledgements -/

@[simp] theorem execLongLatencyWriteback_answerWf (warp i : Nat) {s : State} (hs : s.memoryWf = true) :
    answerWf (execLongLatencyWriteback warp i s) = true := by
  grind -ring -linarith -order [execLongLatencyWriteback, answerWf, modWarp_memoryWf, regroupAll_memoryWf]

@[simp] theorem execWriteAcknowledgement_answerWf (warp i : Nat) {s : State} (hs : s.memoryWf = true) :
    answerWf (execWriteAcknowledgement warp i s) = true := by
  grind -ring -linarith -order [execWriteAcknowledgement, answerWf, modWarp_memoryWf]

@[simp] theorem answerRequest_memoryWf (r : FabricReq) (ws : List (Word × Bool)) (s : State) :
    (answerRequest r ws s).memoryWf = s.memoryWf := by
  unfold answerRequest
  dsimp only
  repeat' split
  all_goals simp

@[simp] theorem dropRequests_memoryWf (pkg : Nat) (ids : List Nat) (s : State) :
    (dropRequests pkg ids s).memoryWf = s.memoryWf := rfl

@[simp] theorem abandonRequest_memoryWf (r : FabricReq) (s : State) :
    (abandonRequest r s).memoryWf = s.memoryWf := by
  unfold abandonRequest
  dsimp only
  repeat' split
  all_goals simp

@[simp] theorem performRequest_memoryWf (r : FabricReq) (k : Nat) {s : State} (hs : s.memoryWf = true) :
    (performRequest r k s).memoryWf = true := by
  grind -ring -linarith -order [performRequest, homeStore_memoryWf, resolveMem_memoryWf, answerRequest_memoryWf,
    atomAt_memoryWf, touchHome_memoryWf, memoryWf_foldl]

@[simp] theorem serveRequest_memoryWf (r : FabricReq) (k : Nat) {s : State} (hs : s.memoryWf = true) :
    (serveRequest r k s).memoryWf = true := by
  unfold serveRequest; split <;> simp [hs, promoRecord_memoryWf]

@[simp] theorem execFabricTargetRequest_answerWf (pkg i : Nat) {s : State} (hs : s.memoryWf = true) :
    answerWf (execFabricTargetRequest pkg i s) = true := by
  unfold execFabricTargetRequest
  split <;> grind -ring -linarith -order [answerWf, askPromotion_memoryWf, dropRequests_memoryWf,
    serveRequest_memoryWf, memoryWf_foldl]

@[simp] theorem execFabricRequestTimeout_answerWf (pkg i : Nat) {s : State} (hs : s.memoryWf = true) :
    answerWf (execFabricRequestTimeout pkg i s) = true := by
  unfold execFabricRequestTimeout; split <;> simp [hs]

@[simp] theorem execLinkBringUp_answerWf (pkg number : Nat) {s : State} (hs : s.memoryWf = true) :
    answerWf (execLinkBringUp pkg number s) = true := by
  unfold execLinkBringUp; split <;> simp [hs]

/-! ## Teams and launches -/

@[simp] theorem beginTeam_memoryWf (lk number : Nat) (l : Launch) (seat : TeamSeat) (s : State) :
    (beginTeam lk number l seat s).memoryWf = s.memoryWf :=
  foldl_memoryWf _ (by simp) _ _

@[simp] theorem flushCluster_memoryWf (g : Nat) {s : State} (hs : s.memoryWf = true) :
    (flushCluster g s).memoryWf = true := by
  grind -ring -linarith -order [flushCluster, modCore_memoryWf, writeBack_memoryWf, memoryWf_foldl]

@[simp] theorem commitLaunch_memoryWf (lk : Nat) (l : Launch) (seats : List TeamSeat) {s : State}
    (hs : s.memoryWf = true) :
    (commitLaunch lk l seats s).memoryWf = true := by
  grind -ring -linarith -order [commitLaunch, setLaunch_memoryWf, beginTeam_memoryWf, flushCluster_memoryWf,
    memoryWf_foldl]

@[simp] theorem closeChannels_memoryWf (t : Nat) (s : State) :
    (closeChannels t s).memoryWf = s.memoryWf := by
  grind -ring -linarith -order [closeChannels, setSend_memoryWf, setRecv_memoryWf, foldl_memoryWf]

@[simp] theorem discardQueues_memoryWf (t : Nat) (s : State) :
    (discardQueues t s).memoryWf = s.memoryWf := by
  simp [discardQueues]

@[simp] theorem freeTeam_memoryWf (t : Nat) (run : TeamRun) {s : State} (hs : s.memoryWf = true) :
    (freeTeam t run s).memoryWf = true := by
  unfold freeTeam
  dsimp only
  repeat' split
  all_goals simp [hs]

@[simp] theorem clearPins_memoryWf (lk : Nat) (s : State) :
    (clearPins lk s).memoryWf = s.memoryWf := rfl

@[simp] theorem steerBack_memoryWf (lk : Nat) (s : State) :
    (steerBack lk s).memoryWf = s.memoryWf := by
  unfold steerBack
  dsimp only
  split <;> simp

@[simp] theorem finishLaunch_memoryWf (lk : Nat) (status cause : BitVec 8) (detail : Word) (team : Nat) (s : State) :
    (finishLaunch lk status cause detail team s).memoryWf = s.memoryWf := by
  simp [finishLaunch]

@[simp] theorem stopWarps_memoryWf (t : Nat) (s : State) :
    (stopWarps t s).memoryWf = s.memoryWf :=
  foldl_memoryWf _ (by simp) _ _

@[simp] theorem discardEngines_memoryWf (t : Nat) (s : State) :
    (discardEngines t s).memoryWf = s.memoryWf :=
  foldl_memoryWf _ (by simp) _ _

@[simp] theorem endOne_memoryWf (t : Nat) {s : State} (hs : s.memoryWf = true) :
    (endOne t s).memoryWf = true := by
  simp [endOne, hs]

@[simp] theorem execUncorrectableStateError_answerWf (team die : Nat) {s : State} (hs : s.memoryWf = true) :
    answerWf (execUncorrectableStateError team die s) = true := by
  grind -ring -linarith -order [execUncorrectableStateError, answerWf, stateError_memoryWf]

@[simp] theorem execCombinerTeamArrival_answerWf (launch i : Nat) {s : State} (hs : s.memoryWf = true) :
    answerWf (execCombinerTeamArrival launch i s) = true := by
  unfold execCombinerTeamArrival; split <;> simp [hs]

@[simp] theorem execCombinerRelease_answerWf (launch i : Nat) {s : State} (hs : s.memoryWf = true) :
    answerWf (execCombinerRelease launch i s) = true := by
  unfold execCombinerRelease
  dsimp only
  repeat' split
  all_goals simp [hs]

@[simp] theorem resolveTeam_memoryWf (t : Nat) (s : State) :
    (resolveTeam t s).memoryWf = s.memoryWf := by
  simp [resolveTeam, foldl_memoryWf]

@[simp] theorem preemptOne_memoryWf (t : Nat) {s : State} (hs : s.memoryWf = true) :
    (preemptOne t s).memoryWf = true := by
  simp [preemptOne, hs, l1CleanAll_memoryWf]

@[simp] theorem execPreempt_answerWf (team : Nat) {s : State} (hs : s.memoryWf = true) :
    answerWf (execPreempt team s) = true := by
  grind -ring -linarith -order [execPreempt, answerWf, preemptOne_memoryWf, memoryWf_foldl]

@[simp] theorem restoreTeam_memoryWf (t : Nat) (im : Image) (seat : TeamSeat) (s : State) :
    (restoreTeam t im seat s).memoryWf = s.memoryWf := by
  simp [restoreTeam, foldl_memoryWf]

@[simp] theorem resumeTeam_memoryWf (team : Nat) {s : State} (hs : s.memoryWf = true) :
    (resumeTeam team s).memoryWf = true := by
  grind -ring -linarith -order [resumeTeam, modTeam_memoryWf, restoreTeam_memoryWf, flushCluster_memoryWf,
    regroupAll_memoryWf, memoryWf_foldl]

@[simp] theorem execResume_answerWf (team : Nat) {s : State} (hs : s.memoryWf = true) :
    answerWf (execResume team s) = true := by
  simp [execResume, hs]

@[simp] theorem retryResumes_memoryWf (p : Nat) {s : State} (hs : s.memoryWf = true) :
    (retryResumes p s).memoryWf = true := by
  grind -ring -linarith -order [retryResumes, resumeTeam_memoryWf, memoryWf_foldl]

@[simp] theorem execTeamRetire_answerWf (team : Nat) {s : State} (hs : s.memoryWf = true) :
    answerWf (execTeamRetire team s) = true := by
  unfold execTeamRetire
  dsimp only
  repeat' split
  all_goals simp [hs]

@[simp] theorem execTeamEnd_answerWf (launch : Nat) {s : State} (hs : s.memoryWf = true) :
    answerWf (execTeamEnd launch s) = true := by
  grind -ring -linarith -order [execTeamEnd, answerWf, stopWarps_memoryWf, endOne_memoryWf, finishLaunch_memoryWf,
    retryResumes_memoryWf, memoryWf_foldl]

/-! ## The graph walker -/

@[simp] theorem setRun_memoryWf (p i : Nat) (r : NodeRun) (s : State) :
    (setRun p i r s).memoryWf = s.memoryWf := rfl

@[simp] theorem modRun_memoryWf (p i : Nat) (f : NodeRun → NodeRun) (s : State) :
    (modRun p i f s).memoryWf = s.memoryWf := by
  unfold modRun; split <;> simp

@[simp] theorem dropRun_memoryWf (p i : Nat) (s : State) :
    (dropRun p i s).memoryWf = s.memoryWf := rfl

@[simp] theorem addRun_memoryWf (p : Nat) (r : NodeRun) (s : State) :
    (addRun p r s).memoryWf = s.memoryWf := rfl

@[simp] theorem modRing_memoryWf (p ring : Nat) (f : Ring → Ring) (s : State) :
    (modRing p ring f s).memoryWf = s.memoryWf := rfl

@[simp] theorem setLive_memoryWf (p ring slot n : Nat) (s : State) :
    (setLive p ring slot n s).memoryWf = s.memoryWf := rfl

@[simp] theorem failRun_memoryWf (p i : Nat) (status cause : BitVec 8) (s : State) :
    (failRun p i status cause s).memoryWf = s.memoryWf := by
  simp [failRun]

@[simp] theorem notify_memoryWf (p : Nat) (n : Notice) (s : State) :
    (notify p n s).memoryWf = s.memoryWf := rfl

@[simp] theorem feFailAt_memoryWf (p i tries : Nat) (cause : BitVec 8) (what : Nat) (again : Option Nat) (s : State) :
    (feFailAt p i tries cause what again s).memoryWf = s.memoryWf := by
  grind -ring -linarith -order [feFailAt, dropRun_memoryWf, setRun_memoryWf, notify_memoryWf, failRun_memoryWf]

@[simp] theorem feFail_memoryWf (p i : Nat) (cause : BitVec 8) (what : Nat) (again : Option Nat) (s : State) :
    (feFail p i cause what again s).memoryWf = s.memoryWf := by
  simp [feFail]

@[simp] theorem replayRun_memoryWf (p i : Nat) (s : State) :
    (replayRun p i s).memoryWf = s.memoryWf := by
  simp [replayRun]

@[simp] theorem feBad_memoryWf (p i what n d : Nat) (s : State) :
    (feBad p i what n d s).memoryWf = s.memoryWf := by
  unfold feBad
  dsimp only
  repeat' split
  all_goals simp

@[simp] theorem takeCopy_memoryWf (p i : Nat) (d : List Byte) (s : State) :
    (takeCopy p i d s).memoryWf = s.memoryWf := by
  unfold takeCopy
  dsimp only
  repeat' split
  all_goals simp

@[simp] theorem readForStart_memoryWf (p i tries : Nat) (again : Option Nat) {s : State} (hs : s.memoryWf = true) :
    (readForStart p i tries again s).memoryWf = true := by
  grind -ring -linarith -order [readForStart, feBad_memoryWf, readRecord_memoryWf, setRun_memoryWf, takeCopy_memoryWf,
    failRun_memoryWf, feFailAt_memoryWf]

@[simp] theorem fetchCopy_memoryWf (p i : Nat) {s : State} (hs : s.memoryWf = true) :
    (fetchCopy p i s).memoryWf = true := by
  grind -ring -linarith -order [fetchCopy, readForStart_memoryWf, modRing_memoryWf, takeCopy_memoryWf]

@[simp] theorem decrement_memoryWf (p ring slot n : Nat) (s : State) :
    (decrement p ring slot n s).memoryWf = s.memoryWf := by
  unfold decrement
  dsimp only
  split <;> simp

@[simp] theorem loadCount_memoryWf (p ring slot tries : Nat) (i again : Option Nat) {s : State}
    (hs : s.memoryWf = true) :
    (loadCount p ring slot tries i again s).memoryWf = true := by
  grind -ring -linarith -order [loadCount, modRun_memoryWf, addRun_memoryWf, readRecord_memoryWf, decrement_memoryWf,
    dropRun_memoryWf, notify_memoryWf, countError_memoryWf]

@[simp] theorem releaseOne_memoryWf (p ref : Nat) {s : State} (hs : s.memoryWf = true) :
    (releaseOne p ref s).memoryWf = true := by
  unfold releaseOne
  dsimp only
  repeat' split
  all_goals simp [hs]

theorem promoteLine_memoryWf (k : Nat) {s : State} (hs : s.memoryWf = true) {t : State}
    (ht : promoteLine k s = some t) :
    t.memoryWf = true := by
  grind -ring -linarith -order [promoteLine, promote_memoryWf, memoryWf_foldl]

@[simp] theorem feAcquire_memoryWf (p : Nat) (r : Ring) (va : A80) (n : Nat) {s : State} (hs : s.memoryWf = true) :
    (feAcquire p r va n s).2.memoryWf = true := by
  grind -ring -linarith -order [feAcquire, fePlace_memoryWf, feRead_memoryWf, promoteLine_memoryWf]

@[simp] theorem loadPhase_memoryWf (p : Nat) (tkey : BitVec 8) (phase : Nat) (s : State) :
    (loadPhase p tkey phase s).memoryWf = s.memoryWf := rfl

@[simp] theorem tryPlace_memoryWf (p i : Nat) {s : State} (hs : s.memoryWf = true) :
    (tryPlace p i s).memoryWf = true := by
  unfold tryPlace
  dsimp only
  repeat' split
  all_goals simp [hs]

@[simp] theorem kernelStep_memoryWf (p i : Nat) (g : Ring) (d : NodeRec) (again : Option Nat) {s : State}
    (hs : s.memoryWf = true) :
    (kernelStep p i g d again s).memoryWf = true := by
  grind -ring -linarith -order [kernelStep, feFail_memoryWf, feRead_memoryWf, modRun_memoryWf, feBad_memoryWf,
    tryPlace_memoryWf, failRun_memoryWf]

@[simp] theorem copyPieces_memoryWf (p : Nat) (g : Ring) (xs : List (A80 × Nat)) (dst : A80) {s : State}
    (hs : s.memoryWf = true) :
    (copyPieces p g xs dst s).2.memoryWf = true := by
  fun_induction copyPieces p g xs dst s <;> grind -ring -linarith -order [feRead_memoryWf, feWrite_memoryWf]

@[simp] theorem succeed_memoryWf (p i : Nat) (refs : List Nat) (s : State) :
    (succeed p i refs s).memoryWf = s.memoryWf := by
  simp [succeed]

@[simp] theorem copyStep_memoryWf (p i : Nat) (g : Ring) (d : NodeRec) {s : State} (hs : s.memoryWf = true) :
    (copyStep p i g d s).memoryWf = true := by
  grind -ring -linarith -order [copyStep, feBad_memoryWf, succeed_memoryWf, failRun_memoryWf, copyPieces_memoryWf,
    loadPhase_memoryWf]

@[simp] theorem condStep_memoryWf (p i : Nat) (g : Ring) (d : NodeRec) (again : Option Nat) {s : State}
    (hs : s.memoryWf = true) :
    (condStep p i g d again s).memoryWf = true := by
  grind -ring -linarith -order [condStep, feAcquire_memoryWf, feFail_memoryWf, feBad_memoryWf, succeed_memoryWf]

@[simp] theorem whileStep_memoryWf (p i : Nat) (g : Ring) (d : NodeRec) (again : Option Nat) {s : State}
    (hs : s.memoryWf = true) :
    (whileStep p i g d again s).memoryWf = true := by
  grind -ring -linarith -order [whileStep, feAcquire_memoryWf, feFail_memoryWf, feBad_memoryWf, succeed_memoryWf,
    releaseOne_memoryWf, setLive_memoryWf, dropRun_memoryWf, memoryWf_foldl]

@[simp] theorem signalStep_memoryWf (p i : Nat) (g : Ring) (d : NodeRec) (again : Option Nat) {s : State}
    (hs : s.memoryWf = true) :
    (signalStep p i g d again s).memoryWf = true := by
  grind -ring -linarith -order [signalStep, feFail_memoryWf, feWrite_memoryWf, feBad_memoryWf, succeed_memoryWf]

@[simp] theorem waitStep_memoryWf (p i : Nat) (g : Ring) (d : NodeRec) (again : Option Nat) {s : State}
    (hs : s.memoryWf = true) :
    (waitStep p i g d again s).memoryWf = true := by
  grind -ring -linarith -order [waitStep, feAcquire_memoryWf, feFail_memoryWf, modRun_memoryWf, feBad_memoryWf,
    succeed_memoryWf]

@[simp] theorem nodeStep_memoryWf (p i : Nat) (g : Ring) (d : NodeRec) (again : Option Nat) {s : State}
    (hs : s.memoryWf = true) :
    (nodeStep p i g d again s).memoryWf = true := by
  unfold nodeStep; split <;> simp [hs]

@[simp] theorem startNode_memoryWf (p ring slot kind : Nat) {s : State} (hs : s.memoryWf = true) :
    (startNode p ring slot kind s).memoryWf = true := by
  unfold startNode
  dsimp only
  repeat' split
  all_goals simp [hs]

@[simp] theorem execNopNode_answerWf (pkg ring slot : Nat) {s : State} (hs : s.memoryWf = true) :
    answerWf (execNopNode pkg ring slot s) = true := by
  simp [execNopNode, hs]

@[simp] theorem execKernelNode_answerWf (pkg ring slot : Nat) {s : State} (hs : s.memoryWf = true) :
    answerWf (execKernelNode pkg ring slot s) = true := by
  simp [execKernelNode, hs]

@[simp] theorem execCopyNode_answerWf (pkg ring slot : Nat) {s : State} (hs : s.memoryWf = true) :
    answerWf (execCopyNode pkg ring slot s) = true := by
  simp [execCopyNode, hs]

@[simp] theorem execCondNode_answerWf (pkg ring slot : Nat) {s : State} (hs : s.memoryWf = true) :
    answerWf (execCondNode pkg ring slot s) = true := by
  simp [execCondNode, hs]

@[simp] theorem execWhileNode_answerWf (pkg ring slot : Nat) {s : State} (hs : s.memoryWf = true) :
    answerWf (execWhileNode pkg ring slot s) = true := by
  simp [execWhileNode, hs]

@[simp] theorem execSignalNode_answerWf (pkg ring slot : Nat) {s : State} (hs : s.memoryWf = true) :
    answerWf (execSignalNode pkg ring slot s) = true := by
  simp [execSignalNode, hs]

@[simp] theorem execWaitNode_answerWf (pkg ring slot : Nat) {s : State} (hs : s.memoryWf = true) :
    answerWf (execWaitNode pkg ring slot s) = true := by
  simp [execWaitNode, hs]

@[simp] theorem execWaitNodeReread_answerWf (pkg ring slot : Nat) {s : State} (hs : s.memoryWf = true) :
    answerWf (execWaitNodeReread pkg ring slot s) = true := by
  grind -ring -linarith -order [execWaitNodeReread, answerWf, waitStep_memoryWf]

@[simp] theorem execLaunchRetry_answerWf (pkg ring slot : Nat) {s : State} (hs : s.memoryWf = true) :
    answerWf (execLaunchRetry pkg ring slot s) = true := by
  unfold execLaunchRetry; split <;> simp [hs]

@[simp] theorem execLaunchWaitExpiry_answerWf (pkg ring slot : Nat) {s : State} (hs : s.memoryWf = true) :
    answerWf (execLaunchWaitExpiry pkg ring slot s) = true := by
  unfold execLaunchWaitExpiry; split <;> simp [hs]

@[simp] theorem doorbell_memoryWf (p ring : Nat) (v : BitVec 64) (s : State) :
    (doorbell p ring v s).memoryWf = s.memoryWf := by
  unfold doorbell
  dsimp only
  repeat' split
  all_goals simp

@[simp] theorem takeBell_memoryWf (p ring : Nat) (v : BitVec 64) (s : State) :
    (takeBell p ring v s).memoryWf = s.memoryWf := rfl

@[simp] theorem execDoorbellStart_answerWf (pkg ring : Nat) (value : BitVec 64) {s : State} (hs : s.memoryWf = true) :
    answerWf (execDoorbellStart pkg ring value s) = true := by
  simp [execDoorbellStart, hs]

@[simp] theorem execDoorbellRefetch_answerWf (pkg ring : Nat) (value : BitVec 64) {s : State} (hs : s.memoryWf = true) :
    answerWf (execDoorbellRefetch pkg ring value s) = true := by
  simp [execDoorbellRefetch, hs]

@[simp] theorem prefetchRecord_memoryWf (p ring slot tries : Nat) {s : State} (hs : s.memoryWf = true) :
    (prefetchRecord p ring slot tries s).memoryWf = true := by
  grind -ring -linarith -order [prefetchRecord, addRun_memoryWf, readRecord_memoryWf, modRing_memoryWf,
    countError_memoryWf]

@[simp] theorem execRecordPrefetch_answerWf (pkg ring slot : Nat) {s : State} (hs : s.memoryWf = true) :
    answerWf (execRecordPrefetch pkg ring slot s) = true := by
  simp [execRecordPrefetch, hs]

@[simp] theorem execRecordReread_answerWf (pkg ring slot : Nat) {s : State} (hs : s.memoryWf = true) :
    answerWf (execRecordReread pkg ring slot s) = true := by
  grind -ring -linarith -order [execRecordReread, answerWf, prefetchRecord_memoryWf, readForStart_memoryWf,
    loadCount_memoryWf]

@[simp] theorem settleRun_memoryWf (p i : Nat) (again : Option Nat) {s : State} (hs : s.memoryWf = true) :
    (settleRun p i again s).memoryWf = true := by
  fun_cases settleRun p i again s <;> grind -ring -linarith -order [feFail_memoryWf, feWrite_memoryWf, feBad_memoryWf,
    releaseOne_memoryWf, dropRun_memoryWf, setRun_memoryWf, memoryWf_foldl]

@[simp] theorem completeRun_memoryWf (p i : Nat) (again : Option Nat) {s : State} (hs : s.memoryWf = true) :
    (completeRun p i again s).memoryWf = true := by
  grind -ring -linarith -order [completeRun, feFail_memoryWf, feRead_memoryWf, settleRun_memoryWf, feBad_memoryWf,
    dropRun_memoryWf, setRun_memoryWf]

@[simp] theorem execNodeComplete_answerWf (pkg ring slot : Nat) {s : State} (hs : s.memoryWf = true) :
    answerWf (execNodeComplete pkg ring slot s) = true := by
  unfold execNodeComplete; split <;> simp [hs]

@[simp] theorem feService_memoryWf (p i : Nat) {s : State} (hs : s.memoryWf = true) :
    (feService p i s).memoryWf = true := by
  unfold feService
  dsimp only
  repeat' split
  all_goals simp [hs]

@[simp] theorem restoreLine_memoryWf (x : CacheLine) {s : State} (hs : s.memoryWf = true) :
    (restoreLine x s).memoryWf = true := by
  unfold restoreLine
  split
  · exact hs
  · exact memoryWf_foldl _ (fun _ j ht => setWordPoison_memoryWf _ _ ht) _ _ (putMem_memoryWf _ _ hs)

@[simp] theorem dropCached_memoryWf (p lo hi : Nat) {s : State} (hs : s.memoryWf = true) :
    (dropCached p lo hi s).memoryWf = true := by
  grind -ring -linarith -order [dropCached, State.memoryWf, restoreLine_memoryWf, modPkg_memoryWf, memoryWf_foldl]

@[simp] theorem dropRange_memoryWf (p root : Nat) (r : A80 × Nat) {s : State} (hs : s.memoryWf = true) :
    (dropRange p root r s).memoryWf = true := by
  grind -ring -linarith -order [dropRange, dropCached_memoryWf, memoryWf_foldl]

@[simp] theorem relaunch_memoryWf (p i : Nat) {s : State} (hs : s.memoryWf = true) :
    (relaunch p i s).memoryWf = true := by
  grind -ring -linarith -order [relaunch, kernelStep_memoryWf]

@[simp] theorem execSquallReplay_answerWf (launch : Nat) {s : State} (hs : s.memoryWf = true) :
    answerWf (execSquallReplay launch s) = true := by
  grind -ring -linarith -order [execSquallReplay, answerWf, stopWarps_memoryWf, endOne_memoryWf, relaunch_memoryWf,
    modRun_memoryWf, clearPins_memoryWf, dropRange_memoryWf, closeChannels_memoryWf, countDie_memoryWf,
    modLaunch_memoryWf, retryResumes_memoryWf, memoryWf_foldl]

/-! ## Commands, firmware and withdrawal -/

@[simp] theorem answer_memoryWf (p tag status : Nat) (s : State) :
    (answer p tag status s).memoryWf = s.memoryWf := rfl

@[simp] theorem execRingBind_answerWf (pkg tag ring : Nat) (base : A80) (k : Nat) (root : BitVec 56) (asn : Nat)
    (tkey : BitVec 8) {s : State} (hs : s.memoryWf = true) :
    answerWf (execRingBind pkg tag ring base k root asn tkey s) = true := by
  unfold execRingBind
  dsimp only
  repeat' split
  all_goals simp [hs]

@[simp] theorem execRingUnbind_answerWf (pkg tag ring : Nat) {s : State} (hs : s.memoryWf = true) :
    answerWf (execRingUnbind pkg tag ring s) = true := by
  grind -ring -linarith -order [execRingUnbind, answerWf, answer_memoryWf, modPkg_memoryWf]

@[simp] theorem execInvalidate_answerWf (pkg tag asn : Nat) (all : Bool) (lo hi : Nat) {s : State}
    (hs : s.memoryWf = true) :
    answerWf (execInvalidate pkg tag asn all lo hi s) = true := by
  grind -ring -linarith -order [execInvalidate, State.memoryWf, answerWf, answer_memoryWf, modPkg_memoryWf]

@[simp] theorem execPartition_answerWf (pkg tag die part : Nat) (mask : BitVec 160) {s : State}
    (hs : s.memoryWf = true) :
    answerWf (execPartition pkg tag die part mask s) = true := by
  unfold execPartition
  dsimp only
  repeat' split
  all_goals simp [hs]

@[simp] theorem execCollSize_answerWf (pkg tag n : Nat) {s : State} (hs : s.memoryWf = true) :
    answerWf (execCollSize pkg tag n s) = true := by
  unfold execCollSize; split <;> simp [hs]

@[simp] theorem execResidencyWrite_answerWf (pkg tag die entry : Nat) (value : BitVec 128) {s : State}
    (hs : s.memoryWf = true) :
    answerWf (execResidencyWrite pkg tag die entry value s) = true := by
  unfold execResidencyWrite
  dsimp only
  split <;> simp [hs]

@[simp] theorem promoteWhere_memoryWf (p : Nat) (f : Nat → Promo → Bool) {s : State} (hs : s.memoryWf = true) :
    (promoteWhere p f s).memoryWf = true :=
  memoryWf_foldl _ (fun s a hs => by simp [hs, promote_memoryWf]) _ _ hs

@[simp] theorem dropLinesWhere_memoryWf (p : Nat) (f : Nat → Bool) (s : State) :
    (dropLinesWhere p f s).memoryWf = s.memoryWf := rfl

@[simp] theorem setCxlWindow_memoryWf (p n : Nat) (w : CxlWindow) {s : State} (hs : s.memoryWf = true) :
    (setCxlWindow p n w s).memoryWf = true := by
  simp [setCxlWindow, hs]

@[simp] theorem execCxlWindow_answerWf (pkg tag die window base size : Nat) (ports : BitVec 4) {s : State}
    (hs : s.memoryWf = true) :
    answerWf (execCxlWindow pkg tag die window base size ports s) = true := by
  unfold execCxlWindow
  dsimp only
  split <;> simp [hs]

@[simp] theorem execSteerGrant_answerWf (pkg tag tkey : Nat) (grant : Bool) {s : State} (hs : s.memoryWf = true) :
    answerWf (execSteerGrant pkg tag tkey grant s) = true := by
  unfold execSteerGrant; split <;> simp [hs]

@[simp] theorem execFwUpdate_answerWf (pkg tag addr len : Nat) {s : State} (hs : s.memoryWf = true) :
    answerWf (execFwUpdate pkg tag addr len s) = true := by
  unfold execFwUpdate
  dsimp only
  repeat' split
  all_goals simp [hs, busTake_memoryWf]

@[simp] theorem execLullTakeover_answerWf (pkg : Nat) {s : State} (hs : s.memoryWf = true) :
    answerWf (execLullTakeover pkg s) = true := by
  unfold execLullTakeover
  dsimp only
  repeat' split
  all_goals simp [hs]

@[simp] theorem execAttest_answerWf (pkg tag : Nat) (nonce : BitVec 256) (addr : Nat) {s : State}
    (hs : s.memoryWf = true) :
    answerWf (execAttest pkg tag nonce addr s) = true := by
  simp [execAttest, hs, busPost_memoryWf]

@[simp] theorem execBreakResume_answerWf (pkg tag team warpid : Nat) {s : State} (hs : s.memoryWf = true) :
    answerWf (execBreakResume pkg tag team warpid s) = true := by
  unfold execBreakResume
  dsimp only
  repeat' split
  all_goals simp [hs]

@[simp] theorem execNotifyQueue_answerWf (pkg tag base size : Nat) {s : State} (hs : s.memoryWf = true) :
    answerWf (execNotifyQueue pkg tag base size s) = true := by
  simp [execNotifyQueue, hs]

@[simp] theorem serveInbound_memoryWf (p : Nat) (xs : List (Bool × List (Nat × Nat) × List Byte)) {s : State}
    (hs : s.memoryWf = true) : (serveInbound p xs s).memoryWf = true := by
  fun_induction serveInbound p xs s with
  | case1 => exact hs
  | case2 => exact hs
  | case3 ps data rest s _ ih =>
    refine ih (List.foldlRecOn (motive := fun a : State × List Byte => a.1.memoryWf = true) ps _ hs fun a ha q _ => ?_)
    exact homeStore_memoryWf _ _ (touchHome_memoryWf _ _ ha)
  | case4 _ ps data rest s _ _ bs t hr ih =>
    have ht := List.foldlRecOn (motive := fun a : List (Byte × Bool) × State => a.2.memoryWf = true) (b := ([], s))
      ps (fun a q => (a.1 ++ (keyRead q.1 q.2 a.2).1, (keyRead q.1 q.2 a.2).2)) hs
      fun a ha q _ => keyRead_memoryWf q.1 q.2 ha
    exact ih (by rw [show _ = (bs, t) from hr] at ht; exact ht)

@[simp] theorem execBar2Window_answerWf (pkg tag wbase0 wbase1 : Nat) {s : State} (hs : s.memoryWf = true) :
    answerWf (execBar2Window pkg tag wbase0 wbase1 s) = true := by
  unfold execBar2Window
  dsimp only
  split <;> simp [hs]

@[simp] theorem execResizableBarSizeWrite_answerWf (pkg logSize : Nat) {s : State} (hs : s.memoryWf = true) :
    answerWf (execResizableBarSizeWrite pkg logSize s) = true := by
  unfold execResizableBarSizeWrite; split <;> simp [hs]

@[simp] theorem execCommandBadOpcode_answerWf (pkg tag : Nat) (opcode : BitVec 16) {s : State}
    (hs : s.memoryWf = true) :
    answerWf (execCommandBadOpcode pkg tag opcode s) = true := by
  unfold execCommandBadOpcode; split <;> simp [hs]

@[simp] theorem execRegisterWriteIgnored_answerWf (pkg offset : Nat) (value : BitVec 64) {s : State}
    (hs : s.memoryWf = true) :
    answerWf (execRegisterWriteIgnored pkg offset value s) = true := by
  unfold execRegisterWriteIgnored; split <;> simp [hs]

@[simp] theorem refuseCommand_memoryWf (p : Nat) (bs : List Byte) (status : Nat) (s : State) :
    (refuseCommand p bs status s).memoryWf = s.memoryWf := rfl

@[simp] theorem execBar2Request_answerWf (pkg : Nat) (write : Bool) (offset : Nat) (data : List Byte) {s : State}
    (hs : s.memoryWf = true) :
    answerWf (execBar2Request pkg write offset data s) = true := by
  unfold execBar2Request
  dsimp only
  split <;> simp [hs]

@[simp] theorem execPcieLinkDown_answerWf (pkg die : Nat) {s : State} (hs : s.memoryWf = true) :
    answerWf (execPcieLinkDown pkg die s) = true := by
  unfold execPcieLinkDown; split <;> simp [hs]

@[simp] theorem execPcieLinkUp_answerWf (pkg die : Nat) {s : State} (hs : s.memoryWf = true) :
    answerWf (execPcieLinkUp pkg die s) = true := by
  unfold execPcieLinkUp; split <;> simp [hs]

@[simp] theorem rewriteCapacity_memoryWf (p d : Nat) (s : State) :
    (rewriteCapacity p d s).memoryWf = s.memoryWf := rfl

@[simp] theorem execCoreDrain_answerWf (core : Nat) {s : State} (hs : s.memoryWf = true) :
    answerWf (execCoreDrain core s) = true := by
  unfold execCoreDrain; split <;> simp [hs]

@[simp] theorem modDie_memoryWf (p d : Nat) (f : DieMap → DieMap) (s : State) :
    (modDie p d f s).memoryWf = s.memoryWf := rfl

@[simp] theorem cleanRegion_memoryWf (p d q : Nat) {s : State} (hs : s.memoryWf = true) :
    (cleanRegion p d q s).memoryWf = true := by
  grind -ring -linarith -order [cleanRegion, modCore_memoryWf, modPkg_memoryWf, writeBack_memoryWf, memoryWf_foldl]

@[simp] theorem finishRegion_memoryWf (p d q : Nat) {s : State} (hs : s.memoryWf = true) :
    (finishRegion p d q s).memoryWf = true := by
  grind -ring -linarith -order [finishRegion, promoteWhere_memoryWf, modDie_memoryWf, serveInbound_memoryWf,
    cleanRegion_memoryWf, dropLinesWhere_memoryWf]

@[simp] theorem finishWithdrawal_memoryWf (p d slice : Nat) {s : State} (hs : s.memoryWf = true) :
    (finishWithdrawal p d slice s).memoryWf = true := by
  simp [finishWithdrawal, hs]

@[simp] theorem execHbmSliceWithdraw_answerWf (pkg die slice : Nat) {s : State} (hs : s.memoryWf = true) :
    answerWf (execHbmSliceWithdraw pkg die slice s) = true := by
  unfold execHbmSliceWithdraw
  dsimp only
  repeat' split
  all_goals simp [hs]

@[simp] theorem execVacateComplete_answerWf (pkg die : Nat) {s : State} (hs : s.memoryWf = true) :
    answerWf (execVacateComplete pkg die s) = true := by
  unfold execVacateComplete
  dsimp only
  repeat' split
  all_goals simp [hs]

@[simp] theorem execCxlSliceWithdraw_answerWf (pkg die port slice : Nat) {s : State} (hs : s.memoryWf = true) :
    answerWf (execCxlSliceWithdraw pkg die port slice s) = true := by
  unfold execCxlSliceWithdraw
  dsimp only
  repeat' split
  all_goals simp [hs]

@[simp] theorem execDeviceReset_answerWf (pkg : Nat) {s : State} (hs : s.memoryWf = true) :
    answerWf (execDeviceReset pkg s) = true := by
  grind -ring -linarith -order [execDeviceReset, State.memoryWf, answerWf, setPkg_memoryWf]

end Sys2Proof.Machine
end

section
/-!
PROOFS. Canonical memory, part 4: issue, the events of translation, fetch, services and time, the dispatch over every
instruction and event, a step, and StepKeepsMemoryCanonical.
-/

namespace Sys2Proof.Machine

open Sys2Proof

/-! ## Issue -/

@[simp] theorem faultAtIssue_memoryWf (q : Issue) (p : Nat) (cause : BitVec 8) (va : A80) (lines : List A80)
    (s : State) :
    (faultAtIssue q p cause va lines s).memoryWf = s.memoryWf := by
  unfold faultAtIssue; split <;> simp

@[simp] theorem dropCode_memoryWf (k : Nat) (va : A80) (s : State) :
    (dropCode k va s).memoryWf = s.memoryWf := by
  unfold dropCode; split <;> simp

@[simp] theorem refetch_memoryWf (k : Nat) (va : A80) (s : State) :
    (refetch k va s).memoryWf = s.memoryWf := by
  simp [refetch]

@[simp] theorem beginIssue_memoryWf (k e : Nat) (s : State) :
    (beginIssue k e s).memoryWf = s.memoryWf := by
  fun_cases beginIssue k e s <;> grind -ring -linarith -order [State.memoryWf, finishIssue_memoryWf, trapAt_memoryWf,
    freeze_memoryWf, modWarp_memoryWf, dropCode_memoryWf, refetch_memoryWf, faultAtIssue_memoryWf, foldl_memoryWf]

@[simp] theorem noteRole_memoryWf (q : Issue) (s : State) :
    (noteRole q s).memoryWf = s.memoryWf := by
  unfold noteRole
  dsimp only
  repeat' split
  all_goals simp

@[simp] theorem pauseIssue_memoryWf (q : Issue) (s : State) :
    (pauseIssue q s).memoryWf = s.memoryWf := by
  unfold pauseIssue; split <;> simp

@[simp] theorem notedIssue_memoryWf (q : Issue) (s : State) :
    (notedIssue q s).memoryWf = s.memoryWf := by
  simp [notedIssue]

@[simp] theorem closeIssue_memoryWf (s : State) :
    (closeIssue s).memoryWf = s.memoryWf := by
  grind -ring -linarith -order [closeIssue, State.memoryWf, notedIssue_memoryWf, modWarp_memoryWf, pauseIssue_memoryWf]

/-! ## Translation, fetch, services, time and scrubbing -/

@[simp] theorem execWalkStart_answerWf (pkg i : Nat) {s : State} (hs : s.memoryWf = true) :
    answerWf (execWalkStart pkg i s) = true := by
  unfold execWalkStart; split <;> simp [hs]

@[simp] theorem failWalk_memoryWf (key : Nat) (c : BitVec 8) (k : Nat) (s : State) :
    (failWalk key c k s).memoryWf = s.memoryWf := rfl

@[simp] theorem failWaiter_memoryWf (v : Walk) (c : BitVec 8) (m : Nat × Nat) (s : State) :
    (failWaiter v c m s).memoryWf = s.memoryWf := rfl

@[simp] theorem giveLeaf_memoryWf (v : Walk) (e : BitVec 64) (big : Bool) (m : Nat × Nat) (s : State) :
    (giveLeaf v e big m s).memoryWf = s.memoryWf := by
  unfold giveLeaf; split <;> simp

@[simp] theorem giveLine_memoryWf (pkg : Nat) (v : Walk) (e : BitVec 64) (big : Bool) (x : Nat × Nat) {s : State}
    (hs : s.memoryWf = true) :
    (giveLine pkg v e big x s).memoryWf = true := by
  unfold giveLine
  dsimp only
  repeat' split
  all_goals simp [hs]

@[simp] theorem execWalkComplete_answerWf (pkg i : Nat) {s : State} (hs : s.memoryWf = true) :
    answerWf (execWalkComplete pkg i s) = true := by
  grind -ring -linarith -order [execWalkComplete, answerWf, giveLeaf_memoryWf, stateErrorAt_memoryWf,
    failWaiter_memoryWf, giveLine_memoryWf, modPkg_memoryWf, walkReads_memoryWf, memoryWf_foldl]

@[simp] theorem execIcacheLineArrival_answerWf (warp i : Nat) {s : State} (hs : s.memoryWf = true) :
    answerWf (execIcacheLineArrival warp i s) = true := by
  unfold execIcacheLineArrival
  dsimp only
  repeat' split
  all_goals simp [hs]

@[simp] theorem trapParked_memoryWf (k : Nat) (f : FaultRec) (s : State) :
    (trapParked k f s).memoryWf = s.memoryWf := by
  simp [trapParked]

@[simp] theorem serviceWarp_memoryWf (k : Nat) (s : State) :
    (serviceWarp k s).memoryWf = s.memoryWf := by
  unfold serviceWarp
  dsimp only
  repeat' split
  all_goals simp

@[simp] theorem serviceCopy_memoryWf (g id : Nat) (s : State) :
    (serviceCopy g id s).memoryWf = s.memoryWf := by
  grind -ring -linarith -order [serviceCopy, stateErrorAt_memoryWf, endTeam_memoryWf, modCopy_memoryWf]

@[simp] theorem serviceJoin_memoryWf (inst m : Nat) (s : State) :
    (serviceJoin inst m s).memoryWf = s.memoryWf := by
  unfold serviceJoin
  dsimp only
  repeat' split
  all_goals simp

@[simp] theorem execPageFaultServiceReply_answerWf (kind : FaultOwner) (id i : Nat) {s : State}
    (hs : s.memoryWf = true) :
    answerWf (execPageFaultServiceReply kind id i s) = true := by
  unfold execPageFaultServiceReply; split <;> simp [hs]

@[simp] theorem execSyscReply_answerWf (warp : Nat) {s : State} (hs : s.memoryWf = true) :
    answerWf (execSyscReply warp s) = true := by
  unfold execSyscReply
  dsimp only
  repeat' split
  all_goals simp [hs, releaseL1_memoryWf]

@[simp] theorem execPromotionRequest_answerWf (pkg slice line : Nat) {s : State} (hs : s.memoryWf = true) :
    answerWf (execPromotionRequest pkg slice line s) = true :=
  memoryWf_foldl _ (fun s a hs => by simp [hs, promote_memoryWf]) _ _ hs

@[simp] theorem execStagingComplete_answerWf (warp : Nat) {s : State} (hs : s.memoryWf = true) :
    answerWf (execStagingComplete warp s) = true := by
  grind -ring -linarith -order [execStagingComplete, answerWf, stageSet_memoryWf, modWarp_memoryWf]

@[simp] theorem execReadyAgeExpiry_answerWf (warp entry : Nat) {s : State} (hs : s.memoryWf = true) :
    answerWf (execReadyAgeExpiry warp entry s) = true := by
  unfold execReadyAgeExpiry
  dsimp only
  repeat' split
  all_goals simp [hs]

@[simp] theorem execYieldTimeout_answerWf (warp entry : Nat) {s : State} (hs : s.memoryWf = true) :
    answerWf (execYieldTimeout warp entry s) = true := by
  unfold execYieldTimeout; split <;> simp [hs]

@[simp] theorem execRegisterScrub_answerWf (core sched : Nat) {s : State} (hs : s.memoryWf = true) :
    answerWf (execRegisterScrub core sched s) = true := by
  grind -ring -linarith -order [execRegisterScrub, answerWf, resolveMainFile_memoryWf, memoryWf_foldl]

@[simp] theorem execAccumScrub_answerWf (core : Nat) {s : State} (hs : s.memoryWf = true) :
    answerWf (execAccumScrub core s) = true :=
  memoryWf_foldl _ (fun s a hs => by simp [hs]) _ _ hs

@[simp] theorem sweepLine_memoryWf (p d w : Nat) (s : State) :
    (sweepLine p d w s).memoryWf = s.memoryWf := by
  unfold sweepLine
  dsimp only
  repeat' split
  all_goals simp

@[simp] theorem execResidencySweep_answerWf (pkg die : Nat) {s : State} (hs : s.memoryWf = true) :
    answerWf (execResidencySweep pkg die s) = true := by
  grind -ring -linarith -order [execResidencySweep, answerWf, modPkg_memoryWf, sweepLine_memoryWf, memoryWf_foldl]

@[simp] theorem execClockCycle_answerWf (clock : Clock) {s : State} (hs : s.memoryWf = true) :
    answerWf (execClockCycle clock s) = true := by
  unfold execClockCycle
  split <;> grind -ring -linarith -order [answerWf, modCore_memoryWf, modPkg_memoryWf, countWarp_memoryWf,
    memoryWf_foldl]

/-! ## Trap-mode instructions -/

@[simp] theorem trapEffect_memoryWf (cause : BitVec 8) (c : Ctx) (s : State) :
    (trapEffect cause c s).state.memoryWf = s.memoryWf := by
  unfold trapEffect; split <;> simp

@[simp] theorem eretEffect_memoryWf (f : FX) (c : Ctx) (s : State) :
    (eretEffect f c s).state.memoryWf = s.memoryWf := by
  unfold eretEffect
  dsimp only
  repeat' split
  all_goals simp

/-! ## Every instruction and event -/

/-- Every instruction and every event keeps memory canonical. -/
theorem exec_answerWf (i : Instr) {s : State} (hs : s.memoryWf = true) : answerWf (exec i s) = true := by
  cases i with
  | nop h bits => exact (runPass_answerWf (by simp) hs : answerWf (execNop h bits s) = true)
  | pad h f => exact (runPass_answerWf (by simp) hs : answerWf (execPad h f s) = true)
  | bra h f => exact (runPass_answerWf (by simp +contextual) hs : answerWf (execBra h f s) = true)
  | brx h f => exact (runPass_answerWf (by simp +contextual) hs : answerWf (execBrx h f s) = true)
  | call h f => exact (runPass_answerWf (by simp +contextual) hs : answerWf (execCall h f s) = true)
  | callx h f => exact (runPass_answerWf (by simp +contextual) hs : answerWf (execCallx h f s) = true)
  | ret h f => exact (runPass_answerWf (by simp +contextual) hs : answerWf (execRet h f s) = true)
  | exit h f => exact execExit_answerWf h f hs
  | join h f => exact execJoin_answerWf h f hs
  | yield h f => exact execYield_answerWf h f hs
  | plane h f => exact execPlane_answerWf h f hs
  | regroup h f => exact execRegroup_answerWf h f hs
  | ipref h f => exact execIpref_answerWf h f hs
  | wset h f => exact execWset_answerWf h f hs
  | rep h f => exact (runPass_answerWf (by simp) hs : answerWf (execRep h f s) = true)
  | trap h f => exact (runPass_answerWf (by simp) hs : answerWf (execTrap h f s) = true)
  | eret h f => exact (runPass_answerWf (by simp) hs : answerWf (execEret h f s) = true)
  | brk h f => exact (runPass_answerWf (by simp) hs : answerWf (execBrk h f s) = true)
  | sysc h f => exact (runPass_answerWf (by simp) hs : answerWf (execSysc h f s) = true)
  | ksave h f => exact (runPass_answerWf (by simp) hs : answerWf (execKsave h f s) = true)
  | kload h f => exact (runPass_answerWf (by simp) hs : answerWf (execKload h f s) = true)
  | smov h f => exact (runPass_answerWf (by simp) hs : answerWf (execSmov h f s) = true)
  | smovi h f => exact (runPass_answerWf (by simp) hs : answerWf (execSmovi h f s) = true)
  | sadd h f => exact (runPass_answerWf (by simp) hs : answerWf (execSadd h f s) = true)
  | ssub h f => exact (runPass_answerWf (by simp) hs : answerWf (execSsub h f s) = true)
  | smul h f => exact (runPass_answerWf (by simp) hs : answerWf (execSmul h f s) = true)
  | smulh h f => exact (runPass_answerWf (by simp) hs : answerWf (execSmulh h f s) = true)
  | sand h f => exact (runPass_answerWf (by simp) hs : answerWf (execSand h f s) = true)
  | sor h f => exact (runPass_answerWf (by simp) hs : answerWf (execSor h f s) = true)
  | sxor h f => exact (runPass_answerWf (by simp) hs : answerWf (execSxor h f s) = true)
  | sshl h f => exact (runPass_answerWf (by simp) hs : answerWf (execSshl h f s) = true)
  | sshr h f => exact (runPass_answerWf (by simp) hs : answerWf (execSshr h f s) = true)
  | ssar h f => exact (runPass_answerWf (by simp) hs : answerWf (execSsar h f s) = true)
  | smin h f => exact (runPass_answerWf (by simp) hs : answerWf (execSmin h f s) = true)
  | smax h f => exact (runPass_answerWf (by simp) hs : answerWf (execSmax h f s) = true)
  | scmp h f => exact (runPass_answerWf (by simp) hs : answerWf (execScmp h f s) = true)
  | ssel h f => exact (runPass_answerWf (by simp) hs : answerWf (execSsel h f s) = true)
  | spopc h f => exact (runPass_answerWf (by simp) hs : answerWf (execSpopc h f s) = true)
  | sclz h f => exact (runPass_answerWf (by simp) hs : answerWf (execSclz h f s) = true)
  | alea h f => exact (runPass_answerWf (by simp) hs : answerWf (execAlea h f s) = true)
  | amov h f => exact execAmov_answerWf h f hs
  | amovi h f => exact (runPass_answerWf (by simp) hs : answerWf (execAmovi h f s) = true)
  | ahi h f => exact (runPass_answerWf (by simp) hs : answerWf (execAhi h f s) = true)
  | sld h f => exact (runPass_answerWf (by simp +contextual) hs : answerWf (execSld h f s) = true)
  | sst h f => exact (runPass_answerWf (by simp +contextual) hs : answerWf (execSst h f s) = true)
  | satom h f => exact (runPass_answerWf (by simp +contextual) hs : answerWf (execSatom h f s) = true)
  | srd h f => exact execSrd_answerWf h f hs
  | swr h f => exact (runPass_answerWf (by simp) hs : answerWf (execSwr h f s) = true)
  | pmov h f => exact execPmov_answerWf h f hs
  | plog h f => exact (runPass_answerWf (by simp) hs : answerWf (execPlog h f s) = true)
  | vmov h f => exact (runPass_answerWf (by simp) hs : answerWf (execVmov h f s) = true)
  | vmovi h f => exact (runPass_answerWf (by simp) hs : answerWf (execVmovi h f s) = true)
  | vtag h f => exact (runPass_answerWf (by simp) hs : answerWf (execVtag h f s) = true)
  | vadd h f => exact (runPass_answerWf (by simp) hs : answerWf (execVadd h f s) = true)
  | vsub h f => exact (runPass_answerWf (by simp) hs : answerWf (execVsub h f s) = true)
  | vmul h f => exact (runPass_answerWf (by simp) hs : answerWf (execVmul h f s) = true)
  | vmulh h f => exact (runPass_answerWf (by simp) hs : answerWf (execVmulh h f s) = true)
  | vmad h f => exact (runPass_answerWf (by simp) hs : answerWf (execVmad h f s) = true)
  | vabsd h f => exact (runPass_answerWf (by simp) hs : answerWf (execVabsd h f s) = true)
  | vmin h f => exact (runPass_answerWf (by simp) hs : answerWf (execVmin h f s) = true)
  | vmax h f => exact (runPass_answerWf (by simp) hs : answerWf (execVmax h f s) = true)
  | vand h f => exact (runPass_answerWf (by simp) hs : answerWf (execVand h f s) = true)
  | vor h f => exact (runPass_answerWf (by simp) hs : answerWf (execVor h f s) = true)
  | vxor h f => exact (runPass_answerWf (by simp) hs : answerWf (execVxor h f s) = true)
  | vbool h f => exact (runPass_answerWf (by simp) hs : answerWf (execVbool h f s) = true)
  | vshl h f => exact (runPass_answerWf (by simp) hs : answerWf (execVshl h f s) = true)
  | vshr h f => exact (runPass_answerWf (by simp) hs : answerWf (execVshr h f s) = true)
  | vsar h f => exact (runPass_answerWf (by simp) hs : answerWf (execVsar h f s) = true)
  | vpopc h f => exact (runPass_answerWf (by simp) hs : answerWf (execVpopc h f s) = true)
  | vclz h f => exact (runPass_answerWf (by simp) hs : answerWf (execVclz h f s) = true)
  | vbrev h f => exact (runPass_answerWf (by simp) hs : answerWf (execVbrev h f s) = true)
  | vbfx h f => exact (runPass_answerWf (by simp) hs : answerWf (execVbfx h f s) = true)
  | vbfi h f => exact (runPass_answerWf (by simp) hs : answerWf (execVbfi h f s) = true)
  | vcmpReg h f => exact (runPass_answerWf (by simp) hs : answerWf (execVcmpReg h f s) = true)
  | vcmpImm h f => exact (runPass_answerWf (by simp) hs : answerWf (execVcmpImm h f s) = true)
  | vsel h f => exact (runPass_answerWf (by simp) hs : answerWf (execVsel h f s) = true)
  | vlane h f => exact (runPass_answerWf (by simp) hs : answerWf (execVlane h f s) = true)
  | vperm h f => exact (runPass_answerWf (by simp) hs : answerWf (execVperm h f s) = true)
  | qxch h f => exact (runPass_answerWf (by simp) hs : answerWf (execQxch h f s) = true)
  | vred h f => exact execVred_answerWf h f hs
  | vscan h f => exact (runPass_answerWf (by simp +contextual) hs : answerWf (execVscan h f s) = true)
  | vvote h f => exact execVvote_answerWf h f hs
  | fadd h f => exact (runPass_answerWf (by simp) hs : answerWf (execFadd h f s) = true)
  | fsub h f => exact (runPass_answerWf (by simp) hs : answerWf (execFsub h f s) = true)
  | fmul h f => exact (runPass_answerWf (by simp) hs : answerWf (execFmul h f s) = true)
  | ffma h f => exact (runPass_answerWf (by simp) hs : answerWf (execFfma h f s) = true)
  | fmin h f => exact (runPass_answerWf (by simp) hs : answerWf (execFmin h f s) = true)
  | fmax h f => exact (runPass_answerWf (by simp) hs : answerWf (execFmax h f s) = true)
  | fcmp h f => exact (runPass_answerWf (by simp) hs : answerWf (execFcmp h f s) = true)
  | fclass h f => exact (runPass_answerWf (by simp) hs : answerWf (execFclass h f s) = true)
  | frcp h f => exact (runPass_answerWf (by simp) hs : answerWf (execFrcp h f s) = true)
  | frsq h f => exact (runPass_answerWf (by simp) hs : answerWf (execFrsq h f s) = true)
  | fsqrt h f => exact (runPass_answerWf (by simp) hs : answerWf (execFsqrt h f s) = true)
  | fexp2 h f => exact (runPass_answerWf (by simp) hs : answerWf (execFexp2 h f s) = true)
  | flog2 h f => exact (runPass_answerWf (by simp) hs : answerWf (execFlog2 h f s) = true)
  | fsin h f => exact (runPass_answerWf (by simp) hs : answerWf (execFsin h f s) = true)
  | fcos h f => exact (runPass_answerWf (by simp) hs : answerWf (execFcos h f s) = true)
  | frnd h f => exact (runPass_answerWf (by simp) hs : answerWf (execFrnd h f s) = true)
  | fdot2 h f => exact (runPass_answerWf (by simp) hs : answerWf (execFdot2 h f s) = true)
  | vcvt h f => exact (runPass_answerWf (by simp) hs : answerWf (execVcvt h f s) = true)
  | vpack h f => exact (runPass_answerWf (by simp) hs : answerWf (execVpack h f s) = true)
  | vunpk h f => exact (runPass_answerWf (by simp) hs : answerWf (execVunpk h f s) = true)
  | xdec h f => exact (runPass_answerWf (by simp +contextual) hs : answerWf (execXdec h f s) = true)
  | xscan h f => exact (runPass_answerWf (by simp +contextual) hs : answerWf (execXscan h f s) = true)
  | xsort h f => exact (runPass_answerWf (by simp +contextual) hs : answerWf (execXsort h f s) = true)
  | xtopk h f => exact execXtopk_answerWf h f hs
  | xplane h f => exact execXplane_answerWf h f hs
  | vld h f => exact (runPass_answerWf (by simp +contextual) hs : answerWf (execVld h f s) = true)
  | vst h f => exact (runPass_answerWf (by simp +contextual) hs : answerWf (execVst h f s) = true)
  | vldf h f => exact (runPass_answerWf (by simp +contextual) hs : answerWf (execVldf h f s) = true)
  | vstf h f => exact (runPass_answerWf (by simp +contextual) hs : answerWf (execVstf h f s) = true)
  | vatom h f => exact (runPass_answerWf (by simp +contextual) hs : answerWf (execVatom h f s) = true)
  | vldsh h f => exact (runPass_answerWf (by simp +contextual) hs : answerWf (execVldsh h f s) = true)
  | vstsh h f => exact execVstsh_answerWf h f hs
  | vatomsh h f => exact execVatomsh_answerWf h f hs
  | ldacc h f => exact (runPass_answerWf (by simp +contextual) hs : answerWf (execLdacc h f s) = true)
  | stacc h f => exact execStacc_answerWf h f hs
  | vpref h f => exact (runPass_answerWf (by simp +contextual) hs : answerWf (execVpref h f s) = true)
  | clred h f => exact (runPass_answerWf (by simp +contextual) hs : answerWf (execClred h f s) = true)
  | clput h f => exact (runPass_answerWf (by simp +contextual) hs : answerWf (execClput h f s) = true)
  | clget h f => exact (runPass_answerWf (by simp +contextual) hs : answerWf (execClget h f s) = true)
  | mma h f => exact (runPass_answerWf (by simp) hs : answerWf (execMma h f s) = true)
  | mmap h f => exact (runPass_answerWf (by simp) hs : answerWf (execMmap h f s) = true)
  | mlda h f => exact (runPass_answerWf (by simp) hs : answerWf (execMlda h f s) = true)
  | mzero h f => exact execMzero_answerWf h f hs
  | mgang h f => exact execMgang_answerWf h f hs
  | mbatch h f => exact execMbatch_answerWf h f hs
  | mwait h f => exact (runPass_answerWf (by simp +contextual) hs : answerWf (execMwait h f s) = true)
  | mcolm h f => exact (runPass_answerWf (by simp +contextual) hs : answerWf (execMcolm h f s) = true)
  | tcopy h f => exact (runPass_answerWf (by simp +contextual) hs : answerWf (execTcopy h f s) = true)
  | tstore h f => exact (runPass_answerWf (by simp +contextual) hs : answerWf (execTstore h f s) = true)
  | tgather h f => exact (runPass_answerWf (by simp +contextual) hs : answerWf (execTgather h f s) = true)
  | tmcast h f => exact (runPass_answerWf (by simp +contextual) hs : answerWf (execTmcast h f s) = true)
  | tpref h f => exact (runPass_answerWf (by simp +contextual) hs : answerWf (execTpref h f s) = true)
  | repart h f => exact execRepart_answerWf h f hs
  | veer h f => exact (runPass_answerWf (by simp +contextual) hs : answerWf (execVeer h f s) = true)
  | fence h f => exact execFence_answerWf h f hs
  | talloc h f => exact (runPass_answerWf (by simp) hs : answerWf (execTalloc h f s) = true)
  | tfree h f => exact execTfree_answerWf h f hs
  | trel h f => exact execTrel_answerWf h f hs
  | tstat h f => exact (runPass_answerWf (by simp) hs : answerWf (execTstat h f s) = true)
  | hqpush h f => exact execHqpush_answerWf h f hs
  | hqpop h f => exact execHqpop_answerWf h f hs
  | hqtry h f => exact execHqtry_answerWf h f hs
  | csend h f => exact (runChecked_answerWf (by simp +contextual) hs : answerWf (execCsend h f s) = true)
  | crecv h f => exact (runChecked_answerWf (by simp) hs : answerWf (execCrecv h f s) = true)
  | cpoll h f => exact (runChecked_answerWf (by simp) hs : answerWf (execCpoll h f s) = true)
  | binit h f => exact execBinit_answerWf h f hs
  | barv h f => exact (runChecked_answerWf (by simp +contextual) hs : answerWf (execBarv h f s) = true)
  | bwait h f => exact execBwait_answerWf h f hs
  | bsync h f => exact execBsync_answerWf h f hs
  | bexp h f => exact execBexp_answerWf h f hs
  | longLatencyWriteback warp n => exact execLongLatencyWriteback_answerWf warp n hs
  | transformServiceStart core => exact execTransformServiceStart_answerWf core hs
  | transformReply core => exact execTransformReply_answerWf core hs
  | matrixCommandStart core => exact execMatrixCommandStart_answerWf core hs
  | matrixCommandComplete core => exact execMatrixCommandComplete_answerWf core hs
  | copyRowWrite core n => exact execCopyRowWrite_answerWf core n hs
  | copyCommandComplete core n => exact execCopyCommandComplete_answerWf core n hs
  | multicastDelivery pkg n => exact execMulticastDelivery_answerWf pkg n hs
  | readerFinish core n => exact execReaderFinish_answerWf core n hs
  | channelDelivery pkg n => exact execChannelDelivery_answerWf pkg n hs
  | channelCreditReturn pkg n => exact execChannelCreditReturn_answerWf pkg n hs
  | teamRetire team => exact execTeamRetire_answerWf team hs
  | teamEnd launch => exact execTeamEnd_answerWf launch hs
  | combinerTeamArrival launch n => exact execCombinerTeamArrival_answerWf launch n hs
  | combinerRelease launch n => exact execCombinerRelease_answerWf launch n hs
  | collectivePacket inst member chunk => exact execCollectivePacket_answerWf inst member chunk hs
  | collectiveDeadlineExpiry inst member chunk => exact execCollectiveDeadlineExpiry_answerWf inst member chunk hs
  | collectiveRerun inst chunk => exact execCollectiveRerun_answerWf inst chunk hs
  | memberLost inst member chunk => exact execMemberLost_answerWf inst member chunk hs
  | collectiveInstanceComplete inst member => exact execCollectiveInstanceComplete_answerWf inst member hs
  | fabricTargetRequest pkg n => exact execFabricTargetRequest_answerWf pkg n hs
  | fabricRequestTimeout pkg n => exact execFabricRequestTimeout_answerWf pkg n hs
  | bar2Request pkg write offset data => exact execBar2Request_answerWf pkg write offset data hs
  | pcieLinkDown pkg die => exact execPcieLinkDown_answerWf pkg die hs
  | promotionRequest pkg slice line => exact execPromotionRequest_answerWf pkg slice line hs
  | walkStart pkg n => exact execWalkStart_answerWf pkg n hs
  | walkComplete pkg n => exact execWalkComplete_answerWf pkg n hs
  | pageFaultServiceReply kind id n => exact execPageFaultServiceReply_answerWf kind id n hs
  | icacheLineArrival warp n => exact execIcacheLineArrival_answerWf warp n hs
  | stagingComplete warp => exact execStagingComplete_answerWf warp hs
  | readyAgeExpiry warp entry => exact execReadyAgeExpiry_answerWf warp entry hs
  | yieldTimeout warp entry => exact execYieldTimeout_answerWf warp entry hs
  | registerScrub core sched => exact execRegisterScrub_answerWf core sched hs
  | accumScrub core => exact execAccumScrub_answerWf core hs
  | uncorrectableStateError team die => exact execUncorrectableStateError_answerWf team die hs
  | residencySweep pkg die => exact execResidencySweep_answerWf pkg die hs
  | turnaroundStart pkg => exact execTurnaroundStart_answerWf pkg hs
  | moduleDrained pkg module => exact execModuleDrained_answerWf pkg module hs
  | moduleDeadTimeExpiry pkg module => exact execModuleDeadTimeExpiry_answerWf pkg module hs
  | starvationGuard pkg toward => exact execStarvationGuard_answerWf pkg toward hs
  | doorbellStart pkg ring value => exact execDoorbellStart_answerWf pkg ring value hs
  | doorbellRefetch pkg ring value => exact execDoorbellRefetch_answerWf pkg ring value hs
  | recordPrefetch pkg ring slot => exact execRecordPrefetch_answerWf pkg ring slot hs
  | recordReread pkg ring slot => exact execRecordReread_answerWf pkg ring slot hs
  | nopNode pkg ring slot => exact execNopNode_answerWf pkg ring slot hs
  | kernelNode pkg ring slot => exact execKernelNode_answerWf pkg ring slot hs
  | launchRetry pkg ring slot => exact execLaunchRetry_answerWf pkg ring slot hs
  | launchWaitExpiry pkg ring slot => exact execLaunchWaitExpiry_answerWf pkg ring slot hs
  | copyNode pkg ring slot => exact execCopyNode_answerWf pkg ring slot hs
  | condNode pkg ring slot => exact execCondNode_answerWf pkg ring slot hs
  | whileNode pkg ring slot => exact execWhileNode_answerWf pkg ring slot hs
  | signalNode pkg ring slot => exact execSignalNode_answerWf pkg ring slot hs
  | waitNode pkg ring slot => exact execWaitNode_answerWf pkg ring slot hs
  | waitNodeReread pkg ring slot => exact execWaitNodeReread_answerWf pkg ring slot hs
  | nodeComplete pkg ring slot => exact execNodeComplete_answerWf pkg ring slot hs
  | syscReply warp => exact execSyscReply_answerWf warp hs
  | squallReplay launch => exact execSquallReplay_answerWf launch hs
  | preempt team => exact execPreempt_answerWf team hs
  | resume team => exact execResume_answerWf team hs
  | lullTakeover pkg => exact execLullTakeover_answerWf pkg hs
  | hbmSliceWithdraw pkg die slice => exact execHbmSliceWithdraw_answerWf pkg die slice hs
  | vacateComplete pkg die => exact execVacateComplete_answerWf pkg die hs
  | cxlSliceWithdraw pkg die port slice => exact execCxlSliceWithdraw_answerWf pkg die port slice hs
  | coreDrain core => exact execCoreDrain_answerWf core hs
  | deviceReset pkg => exact execDeviceReset_answerWf pkg hs
  | ringBind pkg tag ring base k root asn tkey => exact execRingBind_answerWf pkg tag ring base k root asn tkey hs
  | ringUnbind pkg tag ring => exact execRingUnbind_answerWf pkg tag ring hs
  | invalidate pkg tag asn all lo hi => exact execInvalidate_answerWf pkg tag asn all lo hi hs
  | partition pkg tag die part mask => exact execPartition_answerWf pkg tag die part mask hs
  | collSize pkg tag n => exact execCollSize_answerWf pkg tag n hs
  | residencyWrite pkg tag die entry value => exact execResidencyWrite_answerWf pkg tag die entry value hs
  | cxlWindow pkg tag die window base size ports => exact execCxlWindow_answerWf pkg tag die window base size ports hs
  | steerGrant pkg tag tkey grant => exact execSteerGrant_answerWf pkg tag tkey grant hs
  | fwUpdate pkg tag addr len => exact execFwUpdate_answerWf pkg tag addr len hs
  | attest pkg tag nonce addr => exact execAttest_answerWf pkg tag nonce addr hs
  | breakResume pkg tag team warpid => exact execBreakResume_answerWf pkg tag team warpid hs
  | notifyQueue pkg tag base size => exact execNotifyQueue_answerWf pkg tag base size hs
  | bar2Window pkg tag wbase0 wbase1 => exact execBar2Window_answerWf pkg tag wbase0 wbase1 hs
  | commandBadOpcode pkg tag opcode => exact execCommandBadOpcode_answerWf pkg tag opcode hs
  | registerWriteIgnored pkg offset value => exact execRegisterWriteIgnored_answerWf pkg offset value hs
  | pcieLinkUp pkg die => exact execPcieLinkUp_answerWf pkg die hs
  | undefinedMajorOpcode word =>
    exact (runPass_answerWf (by simp) hs : answerWf (execUndefinedMajorOpcode word s) = true)
  | writeAcknowledgement warp n => exact execWriteAcknowledgement_answerWf warp n hs
  | descriptorReadReturn warp => exact execDescriptorReadReturn_answerWf warp hs
  | gatewayReset pkg die => exact execGatewayReset_answerWf pkg die hs
  | linkBringUp pkg number => exact execLinkBringUp_answerWf pkg number hs
  | resizableBarSizeWrite pkg logSize => exact execResizableBarSizeWrite_answerWf pkg logSize hs
  | clockCycle clock => exact execClockCycle_answerWf clock hs

/-! ## The next move -/

@[simp] theorem noteReady_memoryWf (s : State) :
    (noteReady s).memoryWf = s.memoryWf := rfl

@[simp] theorem nextMove_memoryWf (s : State) :
    (nextMove s).2.memoryWf = s.memoryWf := by
  unfold nextMove
  dsimp only
  repeat' split
  all_goals rfl

/-! ## A step -/

theorem runPasses_answerWf (n : Nat) {s : State} (hs : s.memoryWf = true) : answerWf (runPasses n s) = true := by
  fun_induction runPasses n s with
  | case1 => simp [hs]
  | case2 => exact hs
  | case3 n s q _ _ t ht ih => exact ih (by simpa [ht] using exec_answerWf (passInstr q) hs)
  | case4 => rfl
  | case5 => rfl
  | case6 => simp [hs]

theorem issueSplit_answerWf (k e : Nat) {s : State} (hs : s.memoryWf = true) : answerWf (issueSplit k e s) = true := by
  unfold issueSplit
  split
  · exact runPasses_answerWf _ (by simp [hs])
  · exact hs

theorem step_answerWf {s : State} (hs : s.memoryWf = true) : answerWf (step s) = true := by
  have hn := (nextMove_memoryWf s).trans hs
  unfold step
  split <;> rename_i hm <;> rw [hm] at hn
  · exact exec_answerWf _ hn
  · exact issueSplit_answerWf _ _ hn
  · exact strikeAt_memoryWf _ hn
  · exact hn
  · rw [answerWf_next]; split <;> exact hn
  · split
    · exact exec_answerWf _ hn
    · simpa using hn
  · exact hn

/-- Settles O53: every answer of a step from a canonical state is canonical. -/
theorem stepKeepsMemoryCanonical : Obligations.StepKeepsMemoryCanonical := by
  intro s t hs ht
  have h := step_answerWf hs
  rwa [ht] at h

end Sys2Proof.Machine
end

section
/-!
PROOFS. Links, withdrawal of cores and slices, and device reset: what each event answers under its conditions, and
CapacityLinksAndReset from these.
-/

namespace Sys2Proof.Machine

open Sys2Proof Sys2Proof.Claims

/-! ## Links and cores -/

theorem pcieLinkDown_acts (p d : Nat) : Acts (.pcieLinkDown p d) (fun _ => d < 2)
    (onPkg p (fun _ x => { x with linksDown := tput x.linksDown d true })) :=
  fun _ hd => if_neg (Nat.not_le.2 hd)

theorem pcieLinkUp_acts (p d : Nat) : Acts (.pcieLinkUp p d) (fun _ => d < 2)
    (onPkg p (fun _ x => { x with linksDown := tdel x.linksDown d })) :=
  fun _ hd => if_neg (Nat.not_le.2 hd)

theorem coreDrain_acts (g : Nat) : Acts (.coreDrain g)
    (fun s => (∀ t ∈ s.teams, t.2.run = .running → t.2.core ≠ g) ∧ (s.core g).withdrawn = false)
    (fun s => rewriteCapacity (pkgOf g) (dieOf g) (onCore g (fun c => { c with withdrawn := true }) s)) := by
  rintro s ⟨hteams, hcore⟩
  refine if_neg ?_
  simp only [hcore, Bool.or_false, List.any_eq_true, Bool.and_eq_true, beq_iff_eq]
  rintro ⟨t, ht, hg, hrun⟩
  exact hteams t ht hrun hg

/-! ## Slices of HBM -/

/-- R289: the withdrawal of a slice that carries lines begins with the request to vacate the last two regions. -/
theorem hbmSliceWithdraw_begins (p d slice : Nat) : Acts (.hbmSliceWithdraw p d slice)
    (fun s => d < 2 ∧ slice < 256 ∧ ((s.pkg p).dieMap d).withdrawing = none ∧ slice ∈ ((s.pkg p).dieMap d).list ∧
      2 ≤ ((s.pkg p).dieMap d).list.length)
    (fun s => notify p (.vacate d (2 * ((s.pkg p).dieMap d).list.length - 1))
      (notify p (.vacate d (2 * ((s.pkg p).dieMap d).list.length - 2))
        (modDie p d (fun m => { m with withdrawing := some slice }) s))) := by
  rintro s ⟨hd, hslice, hw, hmem, hn⟩
  show execHbmSliceWithdraw p d slice s = _
  simp [execHbmSliceWithdraw, hw, hmem, Nat.not_le.2 hd, Nat.not_le.2 hslice, Nat.not_lt.2 hn]

/-- R289: while regions are left, a further step of the withdrawal finishes the migrating region and begins the next. -/
theorem hbmSliceWithdraw_goesOn (p d slice q : Nat) : Acts (.hbmSliceWithdraw p d slice)
    (fun s => d < 2 ∧ slice < 256 ∧ ((s.pkg p).dieMap d).withdrawing = some slice ∧
      ((s.pkg p).dieMap d).current = some q ∧ q + 3 < 2 * ((s.pkg p).dieMap d).list.length)
    (fun s => modDie p d (fun m => { m with regions := tput m.regions (q + 1) .migrating }) (finishRegion p d q s)) := by
  rintro s ⟨hd, hslice, hw, hq, hn⟩
  show execHbmSliceWithdraw p d slice s = _
  simp [execHbmSliceWithdraw, hw, hq, hn, Nat.not_le.2 hd, Nat.not_le.2 hslice]

/-- R289: the step that finishes the last region in use ends the withdrawal. -/
theorem hbmSliceWithdraw_ends (p d slice q : Nat) : Acts (.hbmSliceWithdraw p d slice)
    (fun s => d < 2 ∧ slice < 256 ∧ ((s.pkg p).dieMap d).withdrawing = some slice ∧
      ((s.pkg p).dieMap d).current = some q ∧ 2 * ((s.pkg p).dieMap d).list.length ≤ q + 3)
    (fun s => finishWithdrawal p d slice (finishRegion p d q s)) := by
  rintro s ⟨hd, hslice, hw, hq, hn⟩
  show execHbmSliceWithdraw p d slice s = _
  simp [execHbmSliceWithdraw, hw, hq, Nat.not_lt.2 hn, Nat.not_le.2 hd, Nat.not_le.2 hslice]

theorem vacateComplete_acts (p d slice : Nat) : Acts (.vacateComplete p d)
    (fun s => d < 2 ∧ ((s.pkg p).dieMap d).withdrawing = some slice ∧ ((s.pkg p).dieMap d).current = none)
    (modDie p d (fun m =>
      { (m.other (m.list.filter (· != slice))) with regions := tput m.regions 0 .migrating })) := by
  rintro s ⟨hd, hw, hq⟩
  show execVacateComplete p d s = _
  simp [execVacateComplete, hw, hq, Nat.not_le.2 hd]

/-! ## Slices of CXL -/

theorem cxlSliceWithdraw_acts (p d port slice : Nat) : Acts (.cxlSliceWithdraw p d port slice)
    (fun s => d < 2 ∧ port < 4 ∧ slice ∈ ((s.pkg p).dieMap d).cxlList port)
    (fun s =>
      let ours (home : Nat) : Bool := home / 8 == (288 * d + 256) / 8 + port
      modDie p d (fun x => { x with cxlSlices := tput x.cxlSlices port ((x.cxlList port).filter (· != slice)) })
        (dropLinesWhere p (fun tag =>
          match homeOf s (128 * tag) with | some h => keyKind (128 * tag) == 2 && ours h | none => false)
          (promoteWhere p (fun h _ => ours h) s))) := by
  rintro s ⟨hd, hport, hmem⟩
  show execCxlSliceWithdraw p d port slice s = _
  unfold execCxlSliceWithdraw
  rw [if_neg (by simp [Nat.not_le.2 hd, Nat.not_le.2 hport])]
  dsimp only
  exact if_neg (by simp [hmem])

/-! ## Device reset -/

/-- A device reset leaves its package as after reset, without cores or warps, its launches finished, and memory as it
was (R310; logs 1 and 7). -/
theorem deviceReset_answers (p : Nat) (s : State) : ∃ t, exec (.deviceReset p) s = .next t ∧ t.pkg p = Package.reset ∧
    (∀ c ∈ t.cores, pkgOf c.1 ≠ p) ∧ (∀ w ∈ t.warps, pkgOf (coreOf w.1) ≠ p) ∧
    (∀ l ∈ t.launches, l.2.pkg = p → l.2.finished = true) ∧ t.mem = s.mem := by
  refine ⟨_, rfl, pkg_setPkg_self _ _ _, fun c hc => ?_, fun w hw => ?_, fun l hl hp => ?_, rfl⟩
  · simpa using (List.mem_filter.1 hc).2
  · simpa using (List.mem_filter.1 hw).2
  · obtain ⟨l0, -, rfl⟩ := List.mem_map.1 hl
    by_cases h0 : l0.2.pkg = p
    · rw [if_pos h0]
    · rw [if_neg h0] at hp; exact absurd hp h0

/-- Settles O49: every event answers what its lemma above says. -/
theorem capacityLinksAndReset : Obligations.CapacityLinksAndReset := fun p d g slice port q =>
  ⟨pcieLinkDown_acts p d, pcieLinkUp_acts p d, coreDrain_acts g, hbmSliceWithdraw_begins p d slice,
    hbmSliceWithdraw_goesOn p d slice q, hbmSliceWithdraw_ends p d slice q, vacateComplete_acts p d slice,
    cxlSliceWithdraw_acts p d port slice, deviceReset_answers p⟩

end Sys2Proof.Machine
end

section
/-!
PROOFS. Frames of a pass: what settling the split table, the end of a pass and the entry to a trap leave of every warp,
core and memory.
-/

namespace Sys2Proof.Machine

open Sys2Proof

/-- A warp without its split table and the events that it counts: what settling leaves alone (R239, R242, R243, R483). -/
def Warp.offTable (w : Warp) : Warp :=
  { w with splits := [], unseated := 0#96, uactive := 0#96, uoffset := [], evcnt := [] }

/-- A warp without what the end of a pass and the steps before a trap change: its split table, latches, planes and
counters, its failed walks, and whether it has retired (R99, R238, R240). -/
def Warp.data (w : Warp) : Warp :=
  { w.offTable with hl := [], walkFails := [], trapDone := Progress.start, plane0 := 0#96, plane1 := 0#96,
                    retired := false, trapSplit := none }

/-- A fold of steps that keep what g sees keeps it. -/
theorem foldl_keeps {α β γ : Type} (g : β → γ) {f : β → α → β} (hf : ∀ b a, g (f b a) = g b) (xs : List α) (b : β) :
    g (xs.foldl f b) = g b := by
  induction xs generalizing b with
  | nil => rfl
  | cons x xs ih => rw [List.foldl_cons, ih, hf]

/-- What a warp's offTable determines. -/
theorem data_eq_of_offTable {w u : Warp} (h : u.offTable = w.offTable) : u.data = w.data := by
  show u.offTable.data = w.offTable.data
  rw [h]

/-! ## The split table -/

@[simp] theorem setSplit_offTable (w : Warp) (e : Nat) (x : Split) : (w.setSplit e x).offTable = w.offTable := rfl
@[simp] theorem modSplit_offTable (w : Warp) (e : Nat) (f : Split → Split) : (w.modSplit e f).offTable = w.offTable := rfl
@[simp] theorem counted_offTable (w : Warp) (code n : Nat) : (w.counted code n).offTable = w.offTable := rfl

@[simp] theorem markJoins_offTable (w : Warp) : w.markJoins.offTable = w.offTable := by
  unfold Warp.markJoins
  exact foldl_keeps Warp.offTable (fun x e => modSplit_offTable x e _) _ _

@[simp] theorem dropToken_offTable (w : Warp) (t : Nat) : (w.dropToken t).offTable = w.offTable := by
  unfold Warp.dropToken
  exact foldl_keeps Warp.offTable (fun x e => modSplit_offTable x e _) _ _

@[simp] theorem seatIn_offTable (w : Warp) (e l : Nat) : (w.seatIn e l).offTable = w.offTable := rfl
@[simp] theorem unseatSplit_offTable (w : Warp) (e : Nat) : (w.unseatSplit e).offTable = w.offTable := rfl

@[simp] theorem fuse_offTable (w : Warp) (t : Nat) : (w.fuse t).offTable = w.offTable := by
  unfold Warp.fuse
  dsimp only
  split
  · rfl
  · exact foldl_keeps Warp.offTable (fun x e => by split <;> rfl) _ _

@[simp] theorem freeDead_offTable (w : Warp) : w.freeDead.offTable = w.offTable :=
  foldl_keeps Warp.offTable (fun x e => by split <;> rfl) _ _

@[simp] theorem placeGroup_offTable (w : Warp) (stack : Tbl Nat) (o : Word) (g active : Lanes) :
    (w.placeGroup stack o g active).offTable = w.offTable := by
  unfold Warp.placeGroup
  split <;> rfl

theorem pushToken_offTable {w u : Warp} {e : Nat} {point : Word} (h : w.pushToken e point = some u) :
    u.offTable = w.offTable := by
  unfold Warp.pushToken at h
  dsimp only at h
  split at h
  · split at h
    · cases h
    · cases h; rfl
  · cases h

/-- A token pushed, or the table as it was where none is pushed. -/
theorem pushed_offTable (w : Warp) (e : Nat) (point : Option Word) :
    ((match point with | some p => w.pushToken e p | none => some w).getD w).offTable = w.offTable := by
  cases point with
  | none => rfl
  | some p =>
    cases h : w.pushToken e p with
    | none => simp [h]
    | some u => simpa [h] using pushToken_offTable h

@[simp] theorem moveLanes_offTable (w : Warp) (e : Nat) (moves : List (Lanes × Word)) (follow : Word)
    (point : Option Word) : (w.moveLanes e moves follow point).1.offTable = w.offTable := by
  unfold Warp.moveLanes
  dsimp only
  split
  · rfl
  · rfl
  · rw [foldl_keeps Warp.offTable (fun v o => placeGroup_offTable v _ _ _ _), modSplit_offTable]
    exact pushed_offTable w e point

theorem settleOne_offTable {w u : Warp} {r : Bool} (h : w.settleOne = some (u, r)) : u.offTable = w.offTable := by
  unfold Warp.settleOne at h
  dsimp only at h
  repeat' split at h
  all_goals cases h
  all_goals simp

@[simp] theorem settleGo_offTable (k : Nat) (w : Warp) (n : Nat) : (Warp.settleGo k w n).1.offTable = w.offTable := by
  induction k generalizing w n with
  | zero => rfl
  | succ k ih =>
    unfold Warp.settleGo
    split
    · next h => rw [ih, settleOne_offTable h]
    · rfl

/-! ## The rest of a warp -/

@[simp] theorem modSplit_data (w : Warp) (e : Nat) (f : Split → Split) : (w.modSplit e f).data = w.data := rfl
@[simp] theorem freeDead_data (w : Warp) : w.freeDead.data = w.data := data_eq_of_offTable (freeDead_offTable w)
@[simp] theorem moveLanes_data (w : Warp) (e : Nat) (moves : List (Lanes × Word)) (follow : Word)
    (point : Option Word) : (w.moveLanes e moves follow point).1.data = w.data :=
  data_eq_of_offTable (moveLanes_offTable w e moves follow point)
@[simp] theorem placeGroup_data (w : Warp) (stack : Tbl Nat) (o : Word) (g active : Lanes) :
    (w.placeGroup stack o g active).data = w.data := data_eq_of_offTable (placeGroup_offTable w stack o g active)
@[simp] theorem advanceTrap_data (w : Warp) (q : Issue) : (w.advanceTrap q).data = w.data := rfl
@[simp] theorem ageLatches_data (w : Warp) (fresh : List Nat) : (w.ageLatches fresh).data = w.data := rfl

@[simp] theorem shiftPlanes_data (w : Warp) (ms : List (Lanes × Nat)) : (w.shiftPlanes ms).data = w.data := by
  induction ms generalizing w with
  | nil => rfl
  | cons m ms ih => exact ih _

@[simp] theorem captureHold_data (c : Ctx) (i : Instr) (w : Warp) : (captureHold c i w).data = w.data := by
  unfold captureHold
  repeat' split
  all_goals rfl

@[simp] theorem forgetEntry_data (w : Warp) (e : Nat) : (w.forgetEntry e).data = w.data := by
  unfold Warp.forgetEntry
  split <;> rfl

@[simp] theorem placeRep_data (w : Warp) (stack : Tbl Nat) (rep : Word) (j : Nat) (follow : Word) (g active : Lanes) :
    (w.placeRep stack rep j follow g active).data = w.data := by
  unfold Warp.placeRep
  split <;> simp

@[simp] theorem placeWaiting_data (w : Warp) (x : Split) (stack : Tbl Nat) (ps : BitVec 4) (o : Word) :
    (w.placeWaiting x stack ps o).data = w.data := by
  unfold Warp.placeWaiting
  dsimp only
  split <;> simp

@[simp] theorem pushToken_getD_data (w : Warp) (e : Nat) (point : Word) :
    ((w.pushToken e point).getD w).data = w.data :=
  data_eq_of_offTable (pushed_offTable w e (some point))

@[simp] theorem foldl_placeGroup_data (w : Warp) (stack : Tbl Nat) (none' : Word → Bool) (g active : Word → Lanes)
    (os : List Word) :
    (os.foldl (fun v o => if none' o = true then v else v.placeGroup stack o (g o) (active o)) w).data = w.data :=
  foldl_keeps Warp.data (fun v o => by split <;> simp) _ _

/-- Lanes that move before a trap move in the split table alone (R240). -/
@[simp] theorem divideForTrap_data (w : Warp) (e : Nat) (r : Reissue) (again : Option Nat) :
    (w.divideForTrap e r again).1.data = w.data := by
  unfold Warp.divideForTrap
  dsimp only
  repeat' split
  all_goals simp

@[simp] theorem readyTrap_data (w : Warp) (e : Nat) (r : Reissue) (decoded : Bool) (again : Option Nat) :
    (w.readyTrap e r decoded again).1.data = w.data := by
  unfold Warp.readyTrap
  dsimp only
  split
  · split <;> simp
  · show (Warp.divideForTrap _ e r again).1.data = w.data
    rw [divideForTrap_data]
    split <;> simp

/-! ## The state -/

/-- Two states that hold the same data: they differ in nothing but the issue in progress and its bookkeeping, the events
that cores count, and what the end of a pass changes of a warp. -/
structure SameData (s t : State) : Prop where
  mem : t.mem = s.mem
  memPoison : t.memPoison = s.memPoison
  memUpset : t.memUpset = s.memUpset
  posted : t.posted = s.posted
  pkgs : t.pkgs = s.pkgs
  teams : t.teams = s.teams
  launches : t.launches = s.launches
  insts : t.insts = s.insts
  core : ∀ g, { t.core g with events := [] } = { s.core g with events := [] }
  warp : ∀ k, (t.warp k).data = (s.warp k).data

theorem SameData.refl (s : State) : SameData s s := ⟨rfl, rfl, rfl, rfl, rfl, rfl, rfl, rfl, fun _ => rfl, fun _ => rfl⟩

theorem SameData.trans {s t u : State} (h : SameData s t) (h' : SameData t u) : SameData s u :=
  ⟨h'.mem.trans h.mem, h'.memPoison.trans h.memPoison, h'.memUpset.trans h.memUpset, h'.posted.trans h.posted,
    h'.pkgs.trans h.pkgs, h'.teams.trans h.teams, h'.launches.trans h.launches, h'.insts.trans h.insts,
    fun g => (h'.core g).trans (h.core g), fun k => (h'.warp k).trans (h.warp k)⟩

theorem SameData.team {s t : State} (h : SameData s t) (k : Nat) : t.team k = s.team k := by
  simp only [State.team, h.teams]

theorem SameData.launch {s t : State} (h : SameData s t) (k : Nat) : t.launch k = s.launch k := by
  simp only [State.launch, h.launches]

/-- A field of a warp's data. -/
theorem SameData.ofWarp {α : Type} {s t : State} (h : SameData s t) (k : Nat) (g : Warp → α)
    (hg : ∀ w : Warp, g w.data = g w) : g (t.warp k) = g (s.warp k) := by
  rw [← hg, h.warp k, hg]

theorem SameData.warpLaunch {s t : State} (h : SameData s t) (k : Nat) : t.warpLaunch k = s.warpLaunch k := by
  simp only [State.warpLaunch, State.launchOf, h.team, h.launch, h.ofWarp k (·.team) fun _ => rfl]

theorem modCur_sameData (s : State) (f : Issue → Issue) : SameData s (s.modCur f) :=
  ⟨rfl, rfl, rfl, rfl, rfl, rfl, rfl, rfl, fun _ => rfl, fun _ => rfl⟩

theorem setWarp_sameData {s : State} {k : Nat} {w : Warp} (h : w.data = (s.warp k).data) : SameData s (s.setWarp k w) :=
  ⟨rfl, rfl, rfl, rfl, rfl, rfl, rfl, rfl, fun _ => rfl, fun j => by
    rw [warp_setWarp]
    split
    · next hj => rw [h, hj]
    · rfl⟩

theorem modWarp_sameData {s : State} {k : Nat} {f : Warp → Warp} (h : (f (s.warp k)).data = (s.warp k).data) :
    SameData s (s.modWarp k f) := setWarp_sameData h

theorem countCore_sameData (code n g : Nat) (s : State) : SameData s (countCore code n g s) := by
  unfold countCore
  split
  · exact .refl s
  · refine ⟨rfl, rfl, rfl, rfl, rfl, rfl, rfl, rfl, fun j => ?_, fun _ => rfl⟩
    rw [core_modCore]
    split
    · next hj => rw [hj]
    · rfl

@[simp] theorem countCore_warp (code n g : Nat) (s : State) (j : Nat) : (countCore code n g s).warp j = s.warp j := by
  unfold countCore
  split <;> rfl

theorem countWarp_sameData (code n k : Nat) (s : State) : SameData s (countWarp code n k s) := by
  unfold countWarp
  split
  · exact .refl s
  · exact (modWarp_sameData rfl).trans (countCore_sameData _ _ _ _)

theorem countWarp_offTable (code n k : Nat) (s : State) (j : Nat) :
    ((countWarp code n k s).warp j).offTable = (s.warp j).offTable := by
  unfold countWarp
  split
  · rfl
  · rw [countCore_warp, warp_modWarp]
    split
    · next hj => rw [hj]; rfl
    · rfl

/-- Settling changes the split table of its warp alone, and counts. -/
theorem settle_offTable (k : Nat) (s : State) (j : Nat) : ((settle k s).warp j).offTable = (s.warp j).offTable := by
  unfold settle
  dsimp only
  rw [countWarp_offTable, warp_setWarp]
  split
  · next hj => rw [hj, markJoins_offTable, settleGo_offTable]
  · rfl

theorem settle_sameData (k : Nat) (s : State) : SameData s (settle k s) := by
  unfold settle
  dsimp only
  refine (setWarp_sameData (data_eq_of_offTable ?_)).trans (countWarp_sameData _ _ _ _)
  rw [markJoins_offTable, settleGo_offTable]

/-! ## The end of a pass -/

theorem countReads_sameData (c : Ctx) (i : Instr) (s : State) : SameData s (countReads c i s) :=
  countWarp_sameData _ _ _ _

theorem countIssue_sameData (c : Ctx) (n : Nat) (s : State) : SameData s (countIssue c n s) := by
  unfold countIssue
  dsimp only
  split
  · exact (countWarp_sameData _ _ _ _).trans (modWarp_sameData rfl)
  · exact countWarp_sameData _ _ _ _

theorem retireIfDone_sameData (k : Nat) (s : State) : SameData s (retireIfDone k s) := by
  unfold retireIfDone
  dsimp only
  split
  · exact modWarp_sameData rfl
  · exact .refl s

theorem finishIssue_sameData (q : Issue) (s : State) : SameData s (finishIssue q s) := by
  have hcur := modCur_sameData s (fun q => { q with status := .finished })
  have hset {w : Warp} (h : w.data = (s.warp q.warp).data) :
      SameData s ((s.modCur (fun q => { q with status := .finished })).setWarp q.warp w) :=
    hcur.trans (setWarp_sameData h)
  unfold finishIssue
  dsimp only
  split
  · exact hset (by simp)
  · split
    · split
      · exact hset (by simp)
      · exact (hset (by simp)).trans (settle_sameData _ _)
    · exact (hset (by simp)).trans ((countWarp_sameData _ _ _ _).trans
        ((settle_sameData _ _).trans (retireIfDone_sameData _ _)))

theorem completePass_sameData (c : Ctx) (i : Instr) (all : Bool) (s : State) : SameData s (completePass c i all s) := by
  unfold completePass
  extract_lets rest fresh ages s1 low s2 s3
  have h1 : SameData s s1 := modWarp_sameData (by dsimp only; split <;> simp)
  have h2 : SameData s1 s2 := by
    dsimp only [s2]
    split
    · exact .refl s1
    · exact countIssue_sameData _ _ _
  have h3 : SameData s s3 := h1.trans (h2.trans (modCur_sameData _ _))
  split
  · split
    · exact h3.trans (finishIssue_sameData _ _)
    · exact h3
  · exact h3

/-- R97, R99, R238: the end of a pass changes no data. -/
theorem passEnd_sameData (c : Ctx) (i : Instr) (all : Bool) (s : State) : SameData s (passEnd c i all s) :=
  (countReads_sameData c i s).trans (completePass_sameData c i all _)

end Sys2Proof.Machine
end

section
/-!
PROOFS. ERET: the three ways on that R215 gives are the branches of Warp.eret, and EretLeavesTrapMode from these.
-/

namespace Sys2Proof.Machine

open Sys2Proof Sys2Proof.Claims

/-! ## ERET -/

theorem trapMoved_eq_false {w : Warp} (ho : w.trapPc.extractLsb' 0 32 = w.trapPc0.extractLsb' 0 32) :
    w.trapMoved = false := by
  simp [Warp.trapMoved, fieldOf, ho]

theorem trapMoved_eq_true {w : Warp} (ho : w.trapPc.extractLsb' 0 32 ≠ w.trapPc0.extractLsb' 0 32) :
    w.trapMoved = true := by
  simp [Warp.trapMoved, fieldOf, ho]

/-- What ERET does of its own when nothing holds it back: the warp leaves trap mode, its issue is counted, and the
working set that entry put aside is restored (R96, R215). -/
def eretGoes (f : FX) (k : Nat) (s : State) : State :=
  replaceSet k (s.warp k).savedWs
    (settle k (countWarp 0x01 1 k (s.modWarp k (fun w => w.eret (f.ctl.getLsbD 0)))))

/-- An offset that the handler left alone needs no landing check. -/
theorem eretEffect_unmoved (f : FX) (c : Ctx) (s : State) (hm : (s.warp c.k).trapMoved = false) :
    eretEffect f c s = .moved (eretGoes f c.k s) := by
  simp [eretEffect, eretGoes, hm]

/-- An offset that the handler moved is gone to once every plane lands there. -/
theorem eretEffect_lands (f : FX) (c : Ctx) (s : State) (hl : ∀ x ∈ eretLandings c.k s, x = .lands) :
    eretEffect f c s = .moved (eretGoes f c.k s) := by
  have hwait : (eretLandings c.k s).find? (fun l => match l with | .waits _ => true | _ => false) = none := by
    rw [List.find?_eq_none]
    intro x hx
    simp [hl x hx]
  have hfail : (eretLandings c.k s).find? (· != .lands) = none := by
    rw [List.find?_eq_none]
    intro x hx
    simp [hl x hx]
  unfold eretEffect
  dsimp only
  split
  · rfl
  · rw [hfail]
    split
    · next h => exact absurd (hwait.symm.trans h) (by simp)
    · rfl

/-- An ERET that goes leaves trap mode as its warp's TRAPPC and CTL say. -/
theorem eret_goes (h : Hdr) (f : FX) (s : State) (q : Issue) (hq : s.cur = some q)
    (hc : clears (.eret h f) .once s q = true)
    (he : eretEffect f (passCtx s q (.eret h f) .once) (readState (.eret h f) s q) =
      .moved (eretGoes f q.warp (readState (.eret h f) s q))) :
    exec (.eret h f) s = .next ((eretGoes f q.warp (readState (.eret h f) s q)).modCur
      (fun q => { q with todo := [], status := .finished })) := by
  show runPass (.eret h f) .once (eretEffect f) s = _
  rw [runPass_clears _ _ _ _ _ hq hc, he]
  rfl

/-- Settles O21: the offset left alone with CTL 0 and 1, and the offset moved. -/
theorem eretLeavesTrapMode : Obligations.EretLeavesTrapMode := by
  intro h f s q hq hc
  set r := readState (.eret h f) s q with hr
  refine ⟨fun ho hctl => ?_, fun ho hctl => ?_, fun ho hl => ?_⟩
  · have hm := trapMoved_eq_false ho
    rw [eret_goes h f s q hq hc (eretEffect_unmoved f _ _ hm)]
    simp only [eretGoes, ← hr, State.modWarp, Warp.eret, hm, hctl]
    rfl
  · have hm := trapMoved_eq_false ho
    rw [eret_goes h f s q hq hc (eretEffect_unmoved f _ _ hm)]
    simp only [eretGoes, ← hr, State.modWarp, Warp.eret, hm, hctl]
    rfl
  · have hm := trapMoved_eq_true ho
    rw [eret_goes h f s q hq hc (eretEffect_lands f _ _ hl)]
    simp only [eretGoes, ← hr, State.modWarp, Warp.eret, hm]
    rfl

end Sys2Proof.Machine
end

section
/-!
PROOFS. Undefined opcodes and forbidden classes: checks 3 and 4 of R42 find them, and the trap that follows (R71, R72,
R208).
-/

namespace Sys2Proof.Machine

open Sys2Proof Sys2Proof.Claims

/-! ## Checks 3 and 4 of R42 -/

/-- The words of an issue begin with the word of its first plane. -/
theorem mem_issueWords_head (q : Issue) (i : Instr) (ht : q.todo ≠ []) :
    (q.todo.headD 0, some i) ∈ issueWords q (q.todo.headD 0) i := by
  cases h : q.todo with
  | nil => exact absurd h ht
  | cons p ps => simp [issueWords, issueWords.upTo, h]

/-- A check over the slots of an issue fails where the word of the first plane fails it. -/
theorem all_slotAll_false (f : Instr → Bool) (q : Issue) (i : Instr) (ht : q.todo ≠ []) (hf : f i = false) :
    (issueWords q (q.todo.headD 0) i).all (fun x => slotAll f (q.line x.1) (slotNum q.offset) x.2) = false :=
  List.all_eq_false.2 ⟨_, mem_issueWords_head q i ht, by rw [slotAll_some, hf]; simp⟩

/-- Where the lines are whole, the checks of R42 begin with those of the opcode and the role. -/
theorem decodeFault_whole (w : Warp) (planes : Nat) (q : Issue) (p : Nat) (i : Instr)
    (hlines : ∀ x ∈ q.lines, parityOk x.2 = true ∧ lineWordOk x.2 = true) :
    let first (f : Instr → Bool) : Bool :=
      (issueWords q p i).all (fun x => slotAll f (q.line x.1) (slotNum q.offset) x.2)
    (first (fun x => !undefinedOp x) = false → decodeFault w planes q p i = some causeIllegalOpcode) ∧
    (first (fun x => !undefinedOp x) = true → first (fun x => roleMay w.role x.opNum) = false →
      decodeFault w planes q p i = some causeRole) := by
  have hparity : q.lines.any (fun x => !parityOk x.2) = false := by simpa using fun p b hx => (hlines (p, b) hx).1
  have hword : q.lines.any (fun x => !lineWordOk x.2) = false := by simpa using fun p b hx => (hlines (p, b) hx).2
  refine ⟨fun hundef => ?_, fun hdef hrole => ?_⟩
  · unfold decodeFault
    refine (if_neg ?_).trans ((if_neg ?_).trans (if_pos ?_))
    · exact Bool.eq_false_iff.1 hparity
    · exact Bool.eq_false_iff.1 hword
    · exact Bool.not_eq_true' _ ▸ hundef
  · unfold decodeFault
    refine (if_neg ?_).trans ((if_neg ?_).trans ((if_neg ?_).trans (if_pos ?_)))
    · exact Bool.eq_false_iff.1 hparity
    · exact Bool.eq_false_iff.1 hword
    · simpa using hdef
    · exact Bool.not_eq_true' _ ▸ hrole

/-- A check of R42 that fails is the fault at decode. -/
theorem issueFault_of_decodeFault {w : Warp} {planes : Nat} {q : Issue} {p : Nat} {i : Instr} {cause : BitVec 8}
    (h : decodeFault w planes q p i = some cause) : issueFault w planes q p i = some cause := by
  simp [issueFault, h]

/-- Classes are of opcodes below 256: no role is refused what has no opcode (R14). -/
theorem opNum_lt_of_roleMay {role : BitVec 2} {op : Nat} (h : roleMay role op = false) : op < 256 := by
  by_contra hop
  have hclass : 8 ≤ classOfOp op := by unfold classOfOp; omega
  unfold roleMay at h
  split at h
  case h_6 => simp at h; omega
  all_goals omega

/-- R71: an undefined major opcode raises ILLEGAL-OPCODE, whatever the role. -/
theorem undefinedMajorOpcode_traps (word : BitVec 96) (s : State) (q : Issue) (hq : s.cur = some q)
    (hc : q.checked = false) (ht : q.todo ≠ []) (hlines : ∀ x ∈ q.lines, parityOk x.2 = true ∧ lineWordOk x.2 = true) :
    exec (.undefinedMajorOpcode word) s =
      .next (trapAt (passCtx s q (.undefinedMajorOpcode word) .vec) false (plainFault causeIllegalOpcode) s) := by
  have hop : (Instr.undefinedMajorOpcode word).opNum < 256 := (opOf word).isLt
  have hundef := all_slotAll_false (fun x => !undefinedOp x) q (.undefinedMajorOpcode word) ht rfl
  exact exec_issueFault _ hop s q hq hc _ (by decide)
    (issueFault_of_decodeFault ((decodeFault_whole _ _ q _ _ hlines).1 hundef))

/-- R72: an instruction of a class that the role may not issue raises ROLE, where no word is of an undefined opcode. -/
theorem forbiddenClass_traps (i : Instr) (s : State) (q : Issue) (hq : s.cur = some q) (hc : q.checked = false)
    (ht : q.todo ≠ []) (hlines : ∀ x ∈ q.lines, parityOk x.2 = true ∧ lineWordOk x.2 = true)
    (hr : roleMay (s.warp q.warp).role i.opNum = false)
    (hd : ∀ x ∈ issueWords q (q.todo.headD 0) i, ∀ y, x.2 = some y → undefinedOp y = false ∧
      (isRep y = true → undefinedOp (instrAt (q.line x.1) (slotNum q.offset + 1)) = false)) :
    exec i s = .next (trapAt (passCtx s q i .vec) false (plainFault causeRole) s) := by
  have hdef : (issueWords q (q.todo.headD 0) i).all
      (fun x => slotAll (fun y => !undefinedOp y) (q.line x.1) (slotNum q.offset) x.2) = true := by
    refine List.all_eq_true.2 fun ⟨p, y⟩ hx => ?_
    cases y with
    | none => rfl
    | some y =>
      obtain ⟨hy, hrep⟩ := hd _ hx y rfl
      rw [slotAll_some, hy]
      cases hr : isRep y with
      | false => rfl
      | true => simp [hrep hr]
  have hrole := all_slotAll_false (fun x => roleMay (s.warp q.warp).role x.opNum) q i ht hr
  exact exec_issueFault i (opNum_lt_of_roleMay hr) s q hq hc _ (by decide)
    (issueFault_of_decodeFault ((decodeFault_whole _ _ q _ _ hlines).2 hdef hrole))

/-! ## The trap -/

/-- A fault outside trap mode that a handler takes enters trap mode (R208). -/
theorem raiseFault_enters (k e : Nat) (pc : BitVec 64) (f : FaultInfo) (s : State) (hf : f.cause ≠ causePoison)
    (hm : (s.warp k).trapMode = false) (hh : (s.warpLaunch k).handler ≠ 0#80) :
    raiseFault k e pc f s = s.modWarp k (fun x => x.enterTrap e pc f) := by
  simp [raiseFault, hf, hm, hh]

/-- A pass that faults outside trap mode, with a handler, leaves its warp as trap entry writes it, but for its split table
and counters; what it writes is of a warp that holds the same data (R208). -/
theorem trapAt_enters (c : Ctx) (decoded : Bool) (f : FaultInfo) (s : State) (hf : f.cause ≠ causePoison)
    (hm : (s.warp c.k).trapMode = false) (hh : (s.warpLaunch c.k).handler ≠ 0#80) :
    ∃ (w : Warp) (pc : BitVec 64), w.data = (s.warp c.k).data ∧
      ((trapAt c decoded f s).warp c.k).offTable = (w.enterTrap c.e pc f).offTable := by
  unfold trapAt
  extract_lets s0 r pc w
  have h0 : SameData s s0 := by
    dsimp only [s0]
    split
    · exact countIssue_sameData _ _ _
    · exact .refl s
  have hm0 : w.trapMode = false := (h0.ofWarp c.k (·.trapMode) fun _ => rfl).trans hm
  cases hready : w.readyTrap c.e r decoded (nextRep c.q) with
  | mk w1 ov =>
    have hw1 : w1.data = w.data := by
      rw [← readyTrap_data w c.e r decoded (nextRep c.q), hready]
    dsimp only
    set s1 := countWarp 0x06 (if ov then 1 else 0) c.k (s0.setWarp c.k (w1.shiftPlanes c.q.shifts))
    have h1 : SameData s s1 :=
      h0.trans ((setWarp_sameData ((shiftPlanes_data _ _).trans hw1)).trans (countWarp_sameData _ _ _ _))
    have hm1 : (s1.warp c.k).trapMode = false := (h1.ofWarp c.k (·.trapMode) fun _ => rfl).trans hm
    have hh1 : (s1.warpLaunch c.k).handler ≠ 0#80 := by rwa [h1.warpLaunch]
    refine ⟨s1.warp c.k, pc, h1.warp c.k, ?_⟩
    rw [raiseFault_enters _ _ _ _ _ hf hm1 hh1, hm0]
    simp [settle_offTable]

/-- Settles O24: checks 3 and 4 stop the issue, and the trap of the first is that of R208. -/
theorem undefinedOpcodesAndRoles : Obligations.UndefinedOpcodesAndRoles := by
  intro s q hq w fault hc ht hlines
  refine ⟨fun word => undefinedMajorOpcode_traps word s q hq hc ht hlines, fun word hm hh => ?_,
    fun i hr hd => forbiddenClass_traps i s q hq hc ht hlines hr hd⟩
  refine ⟨_, undefinedMajorOpcode_traps word s q hq hc ht hlines, ?_⟩
  obtain ⟨u, pc, hu, ht⟩ := trapAt_enters (passCtx s q (.undefinedMajorOpcode word) .vec) false (plainFault causeIllegalOpcode) s
    (by decide) hm hh
  have hlive : u.live = w.live := (congrArg Warp.live hu :)
  have hws : u.ws = w.ws := (congrArg Warp.ws hu :)
  refine ⟨congrArg Warp.trapMode ht, congrArg Warp.trapCause ht, congrArg Warp.trapVa ht, congrArg Warp.trapLanes ht,
    (congrArg Warp.savedWs ht).trans hws, (congrArg Warp.trapSplit ht).trans ?_⟩
  simp [Warp.offTable, Warp.enterTrap, hlive]

end Sys2Proof.Machine
end

section
/-!
PROOFS. Fragments and batches: what MLDA, MZERO, MBATCH and MWAIT do under each of the statement's conditions, and
FragmentsAndBatches from these (R390, R391, R394, R395).
-/

namespace Sys2Proof.Machine

open Sys2Proof Sys2Proof.Claims

/-! ## MLDA -/

/-- Without a lane that takes part in any pass MLDA only checks its tile (R13, R390). -/
theorem mlda_idles (h : Hdr) (f : FX) : TakesIf (.mlda h f) .once
    (fun c s => c.any = false ∧ (s.warp c.k).acquireOut = false ∧
      readerCheck s (s.warp c.k).team (c.view.sval c.e f.e1.toNat) (some h.fmt) = .issues)
    (fun _ s => s) := by
  refine takesIf_of (eff := mldaEffect h f) (fun _ => rfl) ?_
  rintro c s ⟨hany, hacq, hready⟩
  simp [mldaEffect, hacq, hready, hany]

/-- MLDA reads the rows of its lanes from the tile, once the words it reads are resolved. -/
theorem mlda_reads (h : Hdr) (f : FX) : TakesIf (.mlda h f) .once
    (fun c s => c.any = true ∧ (s.warp c.k).acquireOut = false ∧
      readerCheck s (s.warp c.k).team (c.view.sval c.e f.e1.toNat) (some h.fmt) = .issues)
    (fun c s =>
      let t := (s.warp c.k).team
      let i := handleIndex (c.view.sval c.e f.e1.toNat)
      let rd := readerIssues t i s
      let s2 := rd.2.modCore (coreOf c.k) (fun y => { y with
        readers := y.readers.map (fun r => if r.id = rd.1 then { r with finished := true } else r) })
      let x := s2.tile t i
      let row0 := ((c.view.sval c.e f.e2.toNat).extractLsb' 0 16).toNat
      let col0 := ((c.view.sval c.e f.e2.toNat).extractLsb' 16 16).toNat
      let s3 := resolveTile t x row0 (min 96 (x.dim1 - row0)) s2
      let k := mldaRegs h.fmt (f.ctl.extractLsb' 0 4).toNat
      let rows := (lanesOf c.live).map (fun l =>
        (l, (List.range k).map (fragWord h.fmt (mldaRow s3 t x h.fmt (row0 + l) col0))))
      s3.modWarp c.k (fun w => w.produceV c.q.wb h.fmt (span f.e0.toNat k) (fun b =>
        { b with vwrites := b.vwrites ++ laneWrites f.e0.toNat k c.part rows }))) := by
  refine takesIf_of (eff := mldaEffect h f) (fun _ => rfl) ?_
  rintro c s ⟨hany, hacq, hready⟩
  simp only [mldaEffect, hacq, hready, hany, Bool.false_eq_true, if_false, Bool.not_true, List.map_map]
  rfl

/-! ## Instructions that take effect once, with a live lane -/

/-- With a live lane taking part an instruction that takes effect once does so (R381). -/
theorem onceEffect_live {go : Ctx → State → PassResult} {c : Ctx} {s : State} (hc : c.live ≠ 0#96) :
    onceEffect go c s = go c s := by
  simp [onceEffect, noLanes, hc]

/-- What gives such an instruction its completion statement. -/
theorem takesIf_once {i : Instr} {pre : Ctx → State → Prop} {g : Ctx → State → State} {go : Ctx → State → PassResult}
    (hx : ∀ s, exec i s = runPass i .once (onceEffect go) s) (he : ∀ c s, pre c s → go c s = .ok (g c s)) :
    TakesIf i .once (fun c s => some1 c s ∧ pre c s) g :=
  takesIf_of hx fun c s ⟨hc, hp⟩ => (onceEffect_live hc).trans (he c s hp)

/-! ## MZERO -/

theorem mzero_queues (h : Hdr) (f : FX) : TakesIf (.mzero h f) .once
    (fun c s => some1 c s ∧ (c.view.sval c.e f.e1.toNat).toNat ≠ 0 ∧ (s.warp c.k).acquireOut = false ∧
      (c.view.sval c.e f.e0.toNat).toNat + (c.view.sval c.e f.e1.toNat).toNat ≤
        (s.launchOf (s.warp c.k).team).info.accum ∧
      (s.core (coreOf c.k)).matrix.length < 16)
    (fun c s => (s.modCore (coreOf c.k) (fun y => { y with matrix := y.matrix ++
      [{ op := .zero (c.view.sval c.e f.e0.toNat).toNat (c.view.sval c.e f.e1.toNat).toNat, team := (s.warp c.k).team,
         members := [{ warp := c.k, rows := 0#96, regs := [], batch := (s.warp c.k).batchNext }],
         tile := 0, reader := 0, dbase := (c.view.sval c.e f.e0.toNat).toNat, cbase := 0, columns := 0#256,
         started := false, writes := [], flags := 0#5, sat := false }] })).modWarp c.k Warp.batchJoin) := by
  refine takesIf_once (fun _ => rfl) ?_
  rintro c s ⟨hn, hacq, hfit, hroom⟩
  simp [hn, hacq, Nat.not_lt.2 hfit, Nat.not_le.2 hroom]

theorem mzero_ofNone (h : Hdr) (f : FX) : TakesIf (.mzero h f) .once
    (fun c s => some1 c s ∧ (c.view.sval c.e f.e1.toNat).toNat = 0 ∧
      (c.view.sval c.e f.e0.toNat).toNat ≤ (s.launchOf (s.warp c.k).team).info.accum)
    (fun _ s => s) := by
  refine takesIf_once (fun _ => rfl) ?_
  rintro c s ⟨hn, hfit⟩
  simp [hn, Nat.not_lt.2 hfit]

/-! ## MBATCH and MWAIT -/

theorem mbatch_closes (h : Hdr) (f : FX) : TakesIf (.mbatch h f) .once
    (fun c s => some1 c s ∧ ((s.warp c.k).batchNext - 1#16 - (s.warp c.k).batchDone).toNat < 64)
    (onWarp (fun c w => w.closeBatch.setS c.e f.e0.toNat (w.batchNext.setWidth 32))) := by
  refine takesIf_once (fun _ => rfl) fun c s hout => ?_
  exact if_neg (Nat.not_le.2 hout)

/-- The batch number that MWAIT names (R395). -/
def mwaitNumber (f : FX) (c : Ctx) : BitVec 16 :=
  if f.e1 = 643#10 then f.ctl.extractLsb' 0 16 else (c.view.sval c.e f.e1.toNat).extractLsb' 0 16

/-- MWAIT by how far back its batch lies (R395). -/
theorem mwaitEffect_eq (f : FX) (c : Ctx) (s : State) : mwaitEffect f c s =
    let w := s.warp c.k
    let n := mwaitNumber f c
    let d := (w.batchNext - n).toNat
    if d = 0 ∨ 32768 < d then .fault s (plainFault causeBarrier)
    else if 64 < d then .ok (s.modWarp c.k (fun w => w.setS c.e f.e0.toNat 0x8000#32))
    else if d ≤ w.batchesOut then .wait s
    else .ok (s.modWarp c.k (fun x =>
      ((x.setBatch n { w.batch n with returned := true }).orFlags (w.batch n).flags).setS c.e f.e0.toNat
        (batchStatus (w.batch n)))) := by
  unfold mwaitEffect mwaitNumber fieldOf
  simp only [beq_iff_eq, Bool.or_eq_true, decide_eq_true_eq]

theorem mwait_complete (h : Hdr) (f : FX) : TakesIf (.mwait h f) .once
    (fun c s =>
      let back := ((s.warp c.k).batchNext - mwaitNumber f c).toNat
      some1 c s ∧ 1 ≤ back ∧ back ≤ 64 ∧ ((s.warp c.k).batchNext - 1#16 - (s.warp c.k).batchDone).toNat < back)
    (fun c s =>
      let b := (s.warp c.k).batch (mwaitNumber f c)
      s.modWarp c.k (fun w => ((w.setBatch (mwaitNumber f c) { b with returned := true }).orFlags b.flags).setS c.e
        f.e0.toNat ((if b.sat then 0x100#32 else 0#32) ||| b.flags.setWidth 32))) := by
  refine takesIf_once (go := mwaitEffect f) (fun _ => rfl) ?_
  rintro c s ⟨hone, hnear, hdone⟩
  rw [mwaitEffect_eq]
  dsimp only
  rw [if_neg (by omega), if_neg (by omega)]
  exact if_neg (Nat.not_le.2 hdone)

theorem mwait_far (h : Hdr) (f : FX) : TakesIf (.mwait h f) .once
    (fun c s =>
      let back := ((s.warp c.k).batchNext - mwaitNumber f c).toNat
      some1 c s ∧ 65 ≤ back ∧ back ≤ 32768)
    (onWarp (fun c w => w.setS c.e f.e0.toNat 0x8000#32)) := by
  refine takesIf_once (go := mwaitEffect f) (fun _ => rfl) ?_
  rintro c s ⟨hfar, hlast⟩
  rw [mwaitEffect_eq]
  dsimp only
  rw [if_neg (by omega), if_pos (by omega)]
  rfl

/-- Settles O31: each clause is its instruction's lemma above. -/
theorem fragmentsAndBatches : Obligations.FragmentsAndBatches := fun h f =>
  ⟨mlda_reads h f, mlda_idles h f, mzero_queues h f, mzero_ofNone h f, mbatch_closes h f, mwait_complete h f,
    mwait_far h f⟩

end Sys2Proof.Machine
end

section
/-!
PROOFS. Stores to shared memory: what bytes put into a core's shared memory change and what they leave, and the same of
the lanes of a VSTSH (R22, R336, R337, R340).
-/

namespace Sys2Proof.Machine

open Sys2Proof Sys2Proof.Claims

/-! ## Bytes put one after the other -/

/-- Bytes put at places of a memory, one after the other. -/
def putBytes (place : Nat → Nat) (bs : List Byte) (m : Memory) : Memory :=
  (List.range bs.length).foldl (fun m i => mput m (place i) ((lget bs i).getD 0#8)) m

theorem lget_eq_getElem? {α : Type} (xs : List α) (i : Nat) : lget xs i = xs[i]? := by
  induction xs generalizing i with
  | nil => rfl
  | cons x xs ih =>
    cases i with
    | zero => rfl
    | succ i => exact ih i

theorem mget_mput {m : Memory} (h : swf m = true) (a x : Nat) (b : Byte) :
    mget (mput m a b) x = if x = a then b else mget m x := sget_sput (w := 8) h a x b

section
variable (place : Nat → Nat) (val : Nat → Byte)

theorem foldl_mput_swf (is : List Nat) {m : Memory} (h : swf m = true) :
    swf (is.foldl (fun m i => mput m (place i) (val i)) m) = true := by
  induction is generalizing m with
  | nil => exact h
  | cons i is ih => exact ih (wf_mput h)

theorem mget_foldl_mput_other (is : List Nat) {m : Memory} (h : swf m = true) {x : Nat} (hx : ∀ i ∈ is, x ≠ place i) :
    mget (is.foldl (fun m i => mput m (place i) (val i)) m) x = mget m x := by
  induction is generalizing m with
  | nil => rfl
  | cons i is ih =>
    have hput : swf (mput m (place i) (val i)) = true := wf_mput h
    rw [List.foldl_cons, ih hput (fun j hj => hx j (List.mem_cons_of_mem _ hj)), mget_mput h,
      if_neg (hx i List.mem_cons_self)]

/-- The last byte put at a place stands there. -/
theorem mget_foldl_mput_last (k : Nat) {m : Memory} (h : swf m = true) {n : Nat} (hn : n < k)
    (hlast : ∀ j, n < j → j < k → place j ≠ place n) :
    mget ((List.range k).foldl (fun m i => mput m (place i) (val i)) m) (place n) = val n := by
  induction k with
  | zero => omega
  | succ k ih =>
    rw [List.range_succ, List.foldl_append, List.foldl_cons, List.foldl_nil, mget_mput (foldl_mput_swf place val _ h)]
    by_cases hk : n = k
    · rw [hk, if_pos rfl]
    · rw [if_neg (Ne.symm (hlast k (by omega) (by omega)))]
      exact ih (by omega) fun j hj hjk => hlast j hj (by omega)

end

theorem putBytes_swf (place : Nat → Nat) (bs : List Byte) {m : Memory} (h : swf m = true) :
    swf (putBytes place bs m) = true := foldl_mput_swf _ _ _ h

theorem mget_putBytes_other {place : Nat → Nat} {bs : List Byte} {m : Memory} (h : swf m = true) {x : Nat}
    (hx : ∀ n, n < bs.length → x ≠ place n) : mget (putBytes place bs m) x = mget m x :=
  mget_foldl_mput_other _ _ _ h fun i hi => hx i (List.mem_range.1 hi)

theorem mget_putBytes_last {place : Nat → Nat} {bs : List Byte} {m : Memory} (h : swf m = true) {n : Nat} {b : Byte}
    (hb : bs[n]? = some b) (hlast : ∀ j, n < j → j < bs.length → place j ≠ place n) :
    mget (putBytes place bs m) (place n) = b := by
  have hn : n < bs.length := (List.getElem?_eq_some_iff.1 hb).1
  rw [putBytes, mget_foldl_mput_last place _ bs.length h hn hlast, lget_eq_getElem?, hb]
  rfl

theorem leBytes_length (n v : Nat) : (leBytes n v).length = n := by
  induction n generalizing v with
  | zero => rfl
  | succ n ih => rw [leBytes, List.length_cons, ih]

/-! ## A store into a resident team's shared memory -/

theorem foldl_putShared_shared (place : Nat → Nat) (val : Nat → Byte) (is : List Nat) (c : Core) :
    (is.foldl (fun c i => c.putShared (place i) (val i)) c).shared =
      is.foldl (fun m i => mput m (place i) (val i)) c.shared := by
  induction is generalizing c with
  | nil => rfl
  | cons i is ih => exact ih _

theorem foldl_sharedMark_shared (place : Nat → Nat) (poison : Bool) (is : List Nat) (c : Core) :
    (is.foldl (fun c i => c.sharedMark (place i) poison) c).shared = c.shared :=
  foldl_keeps Core.shared (f := fun c i => c.sharedMark (place i) poison) (fun _ _ => rfl) is c

/-- A store into the shared memory of a resident team puts its bytes where the block map says, in the team's core, and
changes of nothing else but that core (R22, R340). -/
theorem sharedStore_resident (tk o : Nat) (bs : List Byte) (s : State) (hi : (s.team tk).image = none) :
    ∃ f : Core → Core, sharedStore tk o bs s = s.modCore (s.team tk).core f ∧
      ∀ c, (f c).shared = putBytes (fun n => sharedPhys (s.team tk) (o + n)) bs c.shared := by
  unfold sharedStore sharedMove
  dsimp only
  rw [hi]
  refine ⟨_, rfl, fun c => ?_⟩
  rw [foldl_sharedMark_shared, foldl_sharedMark_shared, foldl_putShared_shared]
  simp only [putBytes, List.length_map, lget_eq_getElem?, List.getElem?_map]
  congr 1
  funext m i
  cases bs[i]? <;> rfl

/-- What a store into shared memory leaves of the bytes of every core. -/
theorem sharedStore_other (tk o : Nat) (bs : List Byte) (s : State) (hi : (s.team tk).image = none)
    (hwf : ∀ g, swf (s.core g).shared = true) (g a : Nat)
    (ha : g ≠ (s.team tk).core ∨ ∀ n, n < bs.length → a ≠ sharedPhys (s.team tk) (o + n)) :
    mget ((sharedStore tk o bs s).core g).shared a = mget (s.core g).shared a := by
  obtain ⟨f, hf, hshared⟩ := sharedStore_resident tk o bs s hi
  rw [hf, core_modCore]
  split
  · next hg =>
    rw [hshared, mget_putBytes_other (hwf _) (ha.resolve_left (not_not_intro hg)), hg]
  · rfl

theorem sharedStore_swf (tk o : Nat) (bs : List Byte) (s : State) (hi : (s.team tk).image = none)
    (hwf : ∀ g, swf (s.core g).shared = true) (g : Nat) : swf ((sharedStore tk o bs s).core g).shared = true := by
  obtain ⟨f, hf, hshared⟩ := sharedStore_resident tk o bs s hi
  rw [hf, core_modCore]
  split
  · rw [hshared]; exact putBytes_swf _ _ (hwf _)
  · exact hwf g

/-! ## The lanes of a VSTSH -/

/-- A lane's store of a VSTSH. -/
def storeShared (k : Nat) (data : Nat → List Byte) (l o : Nat) (s : State) : List (Word × Bool) × State :=
  ([], sharedStore (s.warp k).team o (data l) s)

/-- Lanes that store one after the other change the bytes that they name, of their team's core, and nothing else but that
core. -/
theorem sharedLanes_store (k : Nat) (data : Nat → List Byte) (xs : List (Nat × Int)) (s : State)
    (hi : (s.warpTeam k).image = none) (hwf : ∀ g, swf (s.core g).shared = true) :
    let t := (sharedLanes (storeShared k data) xs s).2
    t.mem = s.mem ∧ t.warps = s.warps ∧
    ∀ g a, (g ≠ (s.warpTeam k).core ∨
        ∀ x ∈ xs, ∀ n, n < (data x.1).length → a ≠ sharedPhys (s.warpTeam k) (x.2.toNat + n)) →
      mget (t.core g).shared a = mget (s.core g).shared a := by
  induction xs generalizing s with
  | nil => exact ⟨rfl, rfl, fun _ _ _ => rfl⟩
  | cons x xs ih =>
    set s1 := sharedStore (s.warp k).team x.2.toNat (data x.1) s with hs1
    obtain ⟨f, hf, -⟩ := sharedStore_resident (s.warp k).team x.2.toNat (data x.1) s hi
    have hteam : s1.warpTeam k = s.warpTeam k := by rw [hs1, hf]; rfl
    obtain ⟨hmem, hwarps, hother⟩ := ih s1 (by rw [hteam]; exact hi) (sharedStore_swf _ _ _ s hi hwf)
    refine ⟨hmem.trans (by rw [hs1, hf]; rfl), hwarps.trans (by rw [hs1, hf]; rfl), fun g a ha => ?_⟩
    have hrest : g ≠ (s1.warpTeam k).core ∨
        ∀ y ∈ xs, ∀ n, n < (data y.1).length → a ≠ sharedPhys (s1.warpTeam k) (y.2.toNat + n) := by
      rw [hteam]
      exact ha.imp_right fun h y hy => h y (List.mem_cons_of_mem _ hy)
    exact (hother g a hrest).trans (sharedStore_other _ _ _ s hi hwf g a (ha.imp_right fun h => h x List.mem_cons_self))

/-- An access to shared memory that is aligned, in bounds and need not wait is made, lane after lane (R336, R337). -/
theorem sharedAccess_made (c : Ctx) (f : FM) (off : Int) (limit : Nat)
    (doLane : Nat → Nat → State → List (Word × Bool) × State)
    (finish : List (Nat × List (Word × Bool)) → State → State) (s : State) (hfree : sharedFree c f off limit s) :
    sharedAccess c f off limit doLane finish s = .ok (atShared c f off doLane finish s) := by
  obtain ⟨hlanes, horder⟩ := hfree
  have hlive : ∀ l ∈ lanesOf c.live, c.live.getLsbD l = true := fun l hl => (List.mem_filter.1 hl).2
  set xs := (lanesOf c.live).map (fun l => (l, sharedOff c f off l)) with hxs
  have hmis : xs.filter (fun x => x.2 % (widthBytes f : Int) != 0) = [] := by
    rw [List.filter_eq_nil_iff, hxs]
    rintro _ hx
    obtain ⟨l, hl, rfl⟩ := List.mem_map.1 hx
    have hal : sharedOff c f off l % 2 ^ f.width.toNat = 0 := (hlanes l (hlive l hl)).1
    simp [widthBytes, hal]
  have hout : xs.filter (fun x => decide (x.2 < 0) || decide (x.2 + (widthBytes f : Int) > (limit : Int))) = [] := by
    rw [List.filter_eq_nil_iff, hxs]
    rintro _ hx
    obtain ⟨l, hl, rfl⟩ := List.mem_map.1 hx
    obtain ⟨-, hlo, hhi⟩ := hlanes l (hlive l hl)
    have hlo' : 0 ≤ sharedOff c f off l := hlo
    have hhi' : sharedOff c f off l + 2 ^ f.width.toNat ≤ (limit : Int) := hhi
    simp only [widthBytes, Bool.or_eq_true, decide_eq_true_eq, Nat.cast_pow, Nat.cast_ofNat]
    omega
  have hgo : (!xs.isEmpty && orderWaits (s.warp c.k) c.q.wb f.ord.toNat 0) = false := by
    rcases horder with h | h
    · simp [hxs, h, lanesOf]
    · simp [h]
  unfold sharedAccess
  dsimp only
  rw [← hxs, hmis, hout]
  dsimp only
  rw [hgo]
  rfl

/-- VSTSH completes with its lanes' stores. -/
theorem vstsh_takes (h : Hdr) (f : FM) : TakesIf (.vstsh h f) .vec
    (fun c s => sharedFree c f f.offset.toInt (s.warpLaunch c.k).info.shared s ∧ (c.live = 0#96 ∨ xdecOut s c.k = false))
    (fun c s => atShared c f f.offset.toInt (storeShared c.k (fun l => leBytes (widthBytes f) (vectorData c f l)))
      (fun _ t => t) s) := by
  refine takesIf_of (fun s => (rfl : execVstsh h f s = _)) ?_
  rintro c s ⟨hfree, hxdec⟩
  have hgo : (!noLanes c.live && xdecOut s c.k) = false := by
    rcases hxdec with h | h <;> simp [noLanes, h]
  dsimp only
  rw [hgo]
  exact (if_neg Bool.false_ne_true).trans (sharedAccess_made c f _ _ (storeShared c.k _) _ s hfree)

/-! ## What a warp's data determines -/

theorem sameRegisters_of_data {w u : Warp} (h : u.data = w.data) : sameRegisters [] w u :=
  ⟨fun r _ => (congrArg (·.vreg r) h :), fun n _ _ => (congrArg (·.sreg n) h :),
    fun n _ => (congrArg (fun x => tget x.aregs n) h :), fun n _ => (congrArg (·.preg n) h :),
    (congrArg Warp.mcols h :), (congrArg Warp.save h :), (congrArg Warp.gang h :), (congrArg Warp.batches h :),
    (congrArg Warp.kregs h :)⟩

theorem SameData.shared {s t : State} (h : SameData s t) (g : Nat) : (t.core g).shared = (s.core g).shared :=
  (congrArg Core.shared (h.core g) :)

/-- Settles O58: the rule of one store, and of VSTSH that of its lanes with the end of the pass. -/
theorem sharedStoresChangeTheirBytesOnly : Obligations.SharedStoresChangeTheirBytesOnly := by
  refine ⟨fun tk o bs s hi hwf => ?_, fun h f s q hq hc hread hi hwf => ?_⟩
  · obtain ⟨g, hg, hshared⟩ := sharedStore_resident tk o bs s hi
    refine ⟨by rw [hg]; rfl, by rw [hg]; rfl, fun n b hb hlast => ?_, fun g a ha => sharedStore_other tk o bs s hi hwf g a ha⟩
    rw [hg, core_modCore_self, hshared]
    exact mget_putBytes_last (hwf _) hb hlast
  · intro c off hfree hxdec
    set data := fun l => leBytes (widthBytes f) (vectorData c f l)
    set xs := (lanesOf c.live).map (fun l => (l, sharedAt c f off l))
    obtain ⟨hmem, hwarps, hother⟩ := sharedLanes_store c.k data xs s hi hwf
    have hend := (countWarp_sameData 0x04 (sharedConflicts (2 ^ f.width.toNat) xs) c.k
      (sharedLanes (storeShared c.k data) xs s).2).trans (passEnd_sameData c (.vstsh h f) false _)
    refine ⟨_, vstsh_takes h f s q hq hc (by rw [hread]; exact ⟨hfree, hxdec⟩), ?_⟩
    rw [hread]
    refine ⟨hend.mem.trans hmem, fun k => ?_, fun g a ha => ?_⟩
    · have hk : (sharedLanes (storeShared c.k data) xs s).2.warp k = s.warp k := by simp only [State.warp, hwarps]
      exact sameRegisters_of_data ((hend.warp k).trans (by rw [hk]))
    · refine (congrArg (mget · a) (hend.shared g)).trans (hother g a (ha.imp_right fun h x hx n hn => ?_))
      obtain ⟨l, hl, rfl⟩ := List.mem_map.1 hx
      exact h l n (List.mem_filter.1 hl).2 (by simpa [data, leBytes_length, widthBytes] using hn)

end Sys2Proof.Machine
end

section
/-!
PROOFS. Teams and launches: what the events that retire, end, replay, pre-empt and resume them answer under each of the
statement's conditions, and TeamsAndLaunchesEnd from these (R34, R218, R221, R222, R228, R229, R309, R468).
-/

namespace Sys2Proof.Machine

open Sys2Proof Sys2Proof.Claims

/-! ## Retirement -/

/-- A running team of a launch that is not ending, whose warps and engine work are done and whose fused L1s can be written
back (R34). -/
def mayRetire (t : Nat) (s : State) : Prop :=
  (s.team t).run = .running ∧ (s.launch (s.team t).launch).ending = none ∧ engineWork s t = false ∧
  freeStalled s t = false ∧ ∀ k ∈ s.teamWarps t, (s.warp k).retired = true ∧ (s.warp k).pend = []

/-- A retired team's resources given back (R34, R422, R428). -/
def retireTeam (t : Nat) (s : State) : State := freeTeam t .retired (closeChannels t (discardQueues t s))

/-- A team that may retire gives its resources back; the last of its launch finishes it. -/
theorem teamRetire_eq (t : Nat) (s : State) (h : mayRetire t s) :
    exec (.teamRetire t) s = .next (retryResumes (s.launch (s.team t).launch).pkg
      (if ((retireTeam t s).teamsOf (s.team t).launch).all (fun u => ((retireTeam t s).team u).run == .retired) then
        finishLaunch (s.team t).launch 0#8 0#8 0#32 0 (retireTeam t s) else retireTeam t s)) := by
  obtain ⟨hrun, hend, hwork, hfree, hwarps⟩ := h
  have hdone : (s.teamWarps t).any (fun k => !(s.warp k).retired || !(s.warp k).pend.isEmpty) = false := by
    rw [List.any_eq_false]
    intro k hk
    obtain ⟨hretired, hpend⟩ := hwarps k hk
    simp [hretired, hpend]
  exact if_neg (by simp [hrun, hend, hwork, hfree, hdone])

theorem teamRetire_notLast (t : Nat) : Acts (.teamRetire t)
    (fun s => mayRetire t s ∧
      ¬∀ u ∈ (retireTeam t s).teamsOf (s.team t).launch, ((retireTeam t s).team u).run = .retired)
    (fun s => retryResumes (s.launch (s.team t).launch).pkg (retireTeam t s)) := by
  rintro s ⟨hmay, hlast⟩
  rw [teamRetire_eq t s hmay, if_neg (by simpa using hlast)]

theorem teamRetire_last (t : Nat) : Acts (.teamRetire t)
    (fun s => mayRetire t s ∧
      ∀ u ∈ (retireTeam t s).teamsOf (s.team t).launch, ((retireTeam t s).team u).run = .retired)
    (fun s => retryResumes (s.launch (s.team t).launch).pkg
      (finishLaunch (s.team t).launch 0#8 0#8 0#32 0 (retireTeam t s))) := by
  rintro s ⟨hmay, hlast⟩
  rw [teamRetire_eq t s hmay, if_pos (by simpa using hlast)]

/-! ## The end of a launch, and its replay -/

/-- The teams of a launch that hold resources or an image. -/
def residentTeams (l : Nat) (s : State) : List Nat :=
  (s.teamsOf l).filter (fun u => (s.team u).run == .running || (s.team u).run == .preempted)

/-- Every warp of a launch's teams stopped (R228). -/
def stopLaunch (l : Nat) (s : State) : State := (residentTeams l s).foldl (fun v u => stopWarps u v) s

/-- A launch that is to be replayed, for it has not had three replays (R229). -/
def mayReplay (l : Nat) (s : State) : Prop := (s.launch l).replaying = true ∧ launchReplays s l < 3

theorem teamEnd_stops (l : Nat) (r : EndReq) : Acts (.teamEnd l)
    (fun s => ((s.launch l).ending = some r ∧ (s.launch l).finished = false) ∧ mayReplay l s) (stopLaunch l) := by
  rintro s ⟨⟨hend, hfin⟩, hreplaying, hcount⟩
  show execTeamEnd l s = _
  simp only [execTeamEnd, hend, hfin, hreplaying, hcount, Bool.false_eq_true, if_false, decide_true, Bool.and_self, if_true]
  rfl

theorem teamEnd_ends (l : Nat) (r : EndReq) : Acts (.teamEnd l)
    (fun s => ((s.launch l).ending = some r ∧ (s.launch l).finished = false) ∧ ¬mayReplay l s ∧
      ∀ u ∈ residentTeams l s, freeStalled s u = false)
    (fun s => retryResumes (s.launch l).pkg (finishLaunch l r.status r.cause r.detail
      (if r.status ∈ [0x20#8, 0x21#8, 0x40#8, 0x41#8] then r.team else 0)
      ((residentTeams l s).foldl (fun v u => endOne u v) s))) := by
  rintro s ⟨⟨hend, hfin⟩, hagain, hfree⟩
  have hreplay : ((s.launch l).replaying && decide (launchReplays s l < 3)) = false := by
    simpa [mayReplay] using hagain
  have hstall : (residentTeams l s).any (freeStalled s) = false := by simpa using hfree
  have hnames : (r.status == 0x20#8 || r.status == 0x21#8 || r.status == 0x40#8 || r.status == 0x41#8) =
      decide (r.status ∈ [0x20#8, 0x21#8, 0x40#8, 0x41#8]) := by
    simp [Bool.or_assoc, beq_eq_decide]
  show execTeamEnd l s = _
  unfold execTeamEnd
  dsimp only
  rw [hend]
  dsimp only
  rw [hfin, hreplay]
  refine (if_neg Bool.false_ne_true).trans ((if_neg Bool.false_ne_true).trans ((if_neg ?_).trans ?_))
  · exact Bool.eq_false_iff.1 hstall
  · simp only [hnames, decide_eq_true_eq]
    rfl

/-- What the teams of a stopped launch still have outstanding, or fused L1s that cannot be written back. -/
def replayBusy (l : Nat) (s : State) : Prop := ∃ u ∈ residentTeams l s, engineWork (stopLaunch l s) u = true ∨
  freeStalled (stopLaunch l s) u = true ∨
  ∃ k ∈ (stopLaunch l s).teamWarps u, ((stopLaunch l s).warp k).pend ≠ [] ∨ ((stopLaunch l s).warp k).acks ≠ []

/-- A declared output of a launch lies in a MIGRATING region (R289). -/
def outputStalled (l : Nat) (s : State) : Prop :=
  ∃ y ∈ (s.launch l).outputs, rangeStalled (stopLaunch l s) (s.launch l).pkg (s.launch l).root y = true

/-- A stopped launch undone: the cached lines of its outputs dropped, its teams ended, the replay counted (R309). -/
def undoLaunch (l : Nat) (s : State) : State :=
  countDie 0x46 1 (s.launch l).pkg 0
    ((clearPins l ((residentTeams l s).foldl (fun v u => endOne u (closeChannels u v))
      ((s.launch l).outputs.foldl (fun v y => dropRange (s.launch l).pkg (s.launch l).root y v) (stopLaunch l s)))).modLaunch l
        (fun x => { x with finished := true }))

/-- A replay waits for what is outstanding, else undoes the launch and launches its node anew. -/
theorem squallReplay_eq (l : Nat) (r : EndReq) (s : State) (hend : (s.launch l).ending = some r)
    (hfin : (s.launch l).finished = false) (hagain : mayReplay l s) :
    (replayBusy l s ∨ outputStalled l s → exec (.squallReplay l) s = .next (stopLaunch l s)) ∧
    (¬(replayBusy l s ∨ outputStalled l s) → exec (.squallReplay l) s = .next
      (match (runsWhere (undoLaunch l s) (s.launch l).pkg (fun _ y => y.phase == .running l)).head? with
        | some n => relaunch (s.launch l).pkg n (modRun (s.launch l).pkg n
            (fun y => { y with replays := y.replays + 1, phase := .ready }) (retryResumes (s.launch l).pkg (undoLaunch l s)))
        | none => retryResumes (s.launch l).pkg (undoLaunch l s))) := by
  obtain ⟨hreplaying, hcount⟩ := hagain
  have hgo : ((s.launch l).ending.isNone || !(s.launch l).replaying || (s.launch l).finished ||
      decide (3 ≤ launchReplays s l)) = false := by
    simp [hend, hfin, hreplaying, Nat.not_le.2 hcount]
  have hwaits : (((residentTeams l s).any (fun t => engineWork (stopLaunch l s) t ||
        ((stopLaunch l s).teamWarps t).any (fun k =>
          !((stopLaunch l s).warp k).pend.isEmpty || !((stopLaunch l s).warp k).acks.isEmpty)) ||
      (s.launch l).outputs.any (rangeStalled (stopLaunch l s) (s.launch l).pkg (s.launch l).root) ||
      (residentTeams l s).any (freeStalled (stopLaunch l s))) = true) ↔ (replayBusy l s ∨ outputStalled l s) := by
    simp only [replayBusy, outputStalled, Bool.or_eq_true, List.any_eq_true, Bool.not_eq_true', List.isEmpty_eq_false_iff]
    constructor
    · rintro ((⟨u, hu, h⟩ | h) | ⟨u, hu, h⟩)
      · exact .inl ⟨u, hu, h.imp_right .inr⟩
      · exact .inr h
      · exact .inl ⟨u, hu, .inr (.inl h)⟩
    · rintro (⟨u, hu, h | h | h⟩ | h)
      · exact .inl (.inl ⟨u, hu, .inl h⟩)
      · exact .inr ⟨u, hu, h⟩
      · exact .inl (.inl ⟨u, hu, .inr h⟩)
      · exact .inl (.inr h)
  refine ⟨fun hb => ?_, fun hb => ?_⟩
  · exact (if_neg (Bool.eq_false_iff.1 hgo)).trans (if_pos (hwaits.2 hb))
  · refine (if_neg (Bool.eq_false_iff.1 hgo)).trans ((if_neg (fun h => hb (hwaits.1 h))).trans ?_)
    show (match (runsWhere (undoLaunch l s) (s.launch l).pkg (fun _ y => y.phase == .running l)).head? with
      | some _ => _ | none => _) = _
    split <;> rfl

/-! ## Errors in a team's state -/

theorem launch_countError (i n p d : Nat) (s : State) (l : Nat) : (countError i n p d s).launch l = s.launch l := by
  unfold countError
  split <;> rfl

theorem team_countError (i n p d : Nat) (s : State) (t : Nat) : (countError i n p d s).team t = s.team t := by
  unfold countError
  split <;> rfl

/-- A launch that is not ending takes the first request to end. -/
theorem endLaunch_first (l : Nat) (r : EndReq) (replay : Bool) (s : State) (h : (s.launch l).ending = none) :
    endLaunch l r replay s = s.modLaunch l (fun x => { x with ending := some r, replaying := replay }) := by
  simp only [endLaunch, State.modLaunch, h]

/-- An error of a running team's state is the package's stateError. -/
theorem uncorrectableStateError_running (t d : Nat) (s : State) (hd : d < 2) (hrun : (s.team t).run = .running) :
    exec (.uncorrectableStateError t d) s = .next (stateError t d s) := by
  show execUncorrectableStateError t d s = _
  simp [execUncorrectableStateError, Nat.not_le.2 hd, hrun]

theorem uncorrectableStateError_ending (t d : Nat) : Acts (.uncorrectableStateError t d)
    (fun s => (d < 2 ∧ (s.team t).run = .running) ∧ (s.launch (s.team t).launch).ending ≠ none) (fun s => s) := by
  rintro s ⟨⟨hd, hrun⟩, hend⟩
  rw [uncorrectableStateError_running t d s hd hrun]
  exact congrArg _ (if_pos (Option.isSome_iff_ne_none.2 hend))

theorem uncorrectableStateError_replays (t d : Nat) : Acts (.uncorrectableStateError t d)
    (fun s => (d < 2 ∧ (s.team t).run = .running) ∧ (s.launch (s.team t).launch).ending = none ∧
      (s.launch (s.team t).launch).replayable = true)
    (fun s => (countError 12 1 (s.launch (s.team t).launch).pkg d s).modLaunch (s.team t).launch (fun x => { x with
      ending := some { status := 0x30#8, cause := 0x0B#8, detail := 0#32, team := (s.team t).number }
      replaying := true })) := by
  rintro s ⟨⟨hd, hrun⟩, hend, hreplay⟩
  rw [uncorrectableStateError_running t d s hd hrun, stateError, stateErrorAt]
  simp only [State.launchOf, hend, hreplay, Option.isSome_none, Bool.false_eq_true, if_false, if_true, squall, team_countError]
  rw [endLaunch_first _ _ _ _ (by rw [launch_countError]; exact hend)]
  rfl

theorem uncorrectableStateError_ends (t d : Nat) : Acts (.uncorrectableStateError t d)
    (fun s => (d < 2 ∧ (s.team t).run = .running) ∧ (s.launch (s.team t).launch).ending = none ∧
      (s.launch (s.team t).launch).replayable = false)
    (fun s => (countError 12 1 (s.launch (s.team t).launch).pkg d s).modLaunch (s.team t).launch (fun x => { x with
      ending := some { status := 0x20#8, cause := 0x0B#8, detail := 0#32, team := (s.team t).number }
      replaying := false })) := by
  rintro s ⟨⟨hd, hrun⟩, hend, hreplay⟩
  rw [uncorrectableStateError_running t d s hd hrun, stateError, stateErrorAt]
  simp only [State.launchOf, hend, hreplay, Option.isSome_none, Bool.false_eq_true, if_false, endTeam, team_countError]
  rw [endLaunch_first _ _ _ _ (by rw [launch_countError]; exact hend)]
  rfl

/-! ## Combiners -/

/-- An arrival counted: the last one releases every team that the combiner counts (R468). -/
theorem combinerTeamArrival_eq (t b l i : Nat) (s : State) (h : lget (s.launch l).arrivals i = some (t, b)) :
    let n := (tget (s.launch l).combiners (combinerKey s t b)).getD 0 + 1
    exec (.combinerTeamArrival l i) s = .next (s.modLaunch l (fun x =>
      if n = (combinerTeams s t b).length then
        { x with arrivals := ldel x.arrivals i, combiners := tput x.combiners (combinerKey s t b) 0,
                 releases := x.releases ++ (combinerTeams s t b).map (fun u => (u, b)) }
      else { x with arrivals := ldel x.arrivals i, combiners := tput x.combiners (combinerKey s t b) n })) := by
  show execCombinerTeamArrival l i s = _
  simp only [execCombinerTeamArrival, h]

theorem combinerTeamArrival_counts (t b l i : Nat) : Acts (.combinerTeamArrival l i)
    (fun s => lget (s.launch l).arrivals i = some (t, b) ∧
      (tget (s.launch l).combiners (combinerKey s t b)).getD 0 + 1 ≠ (combinerTeams s t b).length)
    (fun s => s.modLaunch l (fun x => { x with
      arrivals := ldel x.arrivals i
      combiners := tput x.combiners (combinerKey s t b) ((tget (s.launch l).combiners (combinerKey s t b)).getD 0 + 1) })) := by
  rintro s ⟨harrival, hmore⟩
  rw [combinerTeamArrival_eq t b l i s harrival]
  simp only [hmore, if_false]

theorem combinerTeamArrival_releases (t b l i : Nat) : Acts (.combinerTeamArrival l i)
    (fun s => lget (s.launch l).arrivals i = some (t, b) ∧
      (tget (s.launch l).combiners (combinerKey s t b)).getD 0 + 1 = (combinerTeams s t b).length)
    (fun s => s.modLaunch l (fun x => { x with
      arrivals := ldel x.arrivals i, combiners := tput x.combiners (combinerKey s t b) 0
      releases := x.releases ++ (combinerTeams s t b).map (fun u => (u, b)) })) := by
  rintro s ⟨harrival, hlast⟩
  rw [combinerTeamArrival_eq t b l i s harrival]
  simp only [hlast, if_true]

theorem combinerRelease_reaches (t b l i : Nat) : Acts (.combinerRelease l i)
    (fun s => lget (s.launch l).releases i = some (t, b) ∧
      ((s.team t).run = .running ∨ (s.team t).run = .preempted))
    (fun s => barRelease t b (s.modLaunch l (fun x => { x with releases := ldel x.releases i }))) := by
  rintro s ⟨hrelease, hrun⟩
  show execCombinerRelease l i s = _
  simp only [execCombinerRelease, hrelease, Bool.or_eq_true, beq_iff_eq, hrun, if_true]

theorem combinerRelease_ofGone (t b l i : Nat) : Acts (.combinerRelease l i)
    (fun s => lget (s.launch l).releases i = some (t, b) ∧
      ((s.team t).run = .retired ∨ (s.team t).run = .ended))
    (fun s => s.modLaunch l (fun x => { x with releases := ldel x.releases i })) := by
  rintro s ⟨hrelease, hrun⟩
  show execCombinerRelease l i s = _
  rcases hrun with hrun | hrun <;> simp [execCombinerRelease, hrelease, hrun]

/-! ## Pre-emption and resume -/

theorem preempt_acts (t : Nat) : Acts (.preempt t) (fun s => ∀ u ∈ preemptGroup s t, mayPreempt s u = true)
    (fun s => (preemptGroup s t).foldl (fun v u => preemptOne u v) s) :=
  fun _ hmay => if_pos (List.all_eq_true.2 hmay)

/-- A pre-empted team of a launch that is not ending waits to resume. -/
def awaitsResume (t : Nat) (s : State) : Prop :=
  (s.team t).run = .preempted ∧ (s.launch (s.team t).launch).ending = none

/-- The seats that a team's group would take now. -/
def seatsNow (t : Nat) (s : State) : Option (List TeamSeat) :=
  resumeSeats s t (preemptGroup s t).length (launchPart s (s.team t).launch)

/-- The fused L1s of the seats cannot be written back yet (R289). -/
def fuseStalled (t : Nat) (seats : List TeamSeat) (s : State) : Prop :=
  (s.launch (s.team t).launch).info.fuse = true ∧ ∃ y ∈ seats, l1Stalled s y.core true = true

theorem resume_restores (t : Nat) (seats : List TeamSeat) : Acts (.resume t)
    (fun s => awaitsResume t s ∧ seatsNow t s = some seats ∧ ¬fuseStalled t seats s)
    (fun s =>
      let u := if (s.launch (s.team t).launch).info.fuse then
        (match seats with | y :: _ => flushCluster y.core s | [] => s) else s
      (List.zipWith (fun a y => (a, y)) (preemptGroup s t) seats).foldl (fun v z =>
        match (v.team z.1).image with
        | some im => regroupAll z.1 (restoreTeam z.1 im z.2 v)
        | none => v) u) := by
  rintro s ⟨⟨hrun, hend⟩, hseats, hfuse⟩
  have hgo : ((s.team t).run != .preempted || (s.launch (s.team t).launch).ending.isSome) = false := by simp [hrun, hend]
  have hstall : ((s.launch (s.team t).launch).info.fuse && seats.any (fun y => l1Stalled s y.core true)) = false := by
    simpa [fuseStalled] using hfuse
  show Host.Outcome.next (resumeTeam t s) = _
  unfold resumeTeam
  dsimp only
  rw [hgo, if_neg Bool.false_ne_true, show resumeSeats s t _ _ = some seats from hseats]
  dsimp only
  rw [hstall]
  exact congrArg Host.Outcome.next (if_neg Bool.false_ne_true)

theorem resume_waits (t : Nat) (seats : List TeamSeat) : Acts (.resume t)
    (fun s => awaitsResume t s ∧ (seatsNow t s = none ∨ seatsNow t s = some seats ∧ fuseStalled t seats s))
    (fun s => (preemptGroup s t).foldl (fun v u => v.modTeam u (fun y => { y with resuming := true })) s) := by
  rintro s ⟨⟨hrun, hend⟩, hwait⟩
  have hgo : ((s.team t).run != .preempted || (s.launch (s.team t).launch).ending.isSome) = false := by simp [hrun, hend]
  show Host.Outcome.next (resumeTeam t s) = _
  unfold resumeTeam
  dsimp only
  rw [hgo, if_neg Bool.false_ne_true]
  rcases hwait with hnone | ⟨hseats, hfuse⟩
  · rw [show resumeSeats s t _ _ = none from hnone]
  · have hstall : ((s.launch (s.team t).launch).info.fuse && seats.any (fun y => l1Stalled s y.core true)) = true := by
      simpa [fuseStalled] using hfuse
    rw [show resumeSeats s t _ _ = some seats from hseats]
    dsimp only
    rw [hstall, if_pos rfl]

/-- Settles O41: every event answers what its lemma above says. -/
theorem teamsAndLaunchesEnd : Obligations.TeamsAndLaunchesEnd := fun t b l i d r seats =>
  ⟨teamRetire_notLast t, teamRetire_last t, teamEnd_stops l r, teamEnd_ends l r,
    fun s ⟨⟨hend, hfin⟩, hagain, hwaits⟩ => (squallReplay_eq l r s hend hfin hagain).1 hwaits,
    fun s ⟨⟨hend, hfin⟩, hagain, hgoes⟩ => (squallReplay_eq l r s hend hfin hagain).2 hgoes,
    uncorrectableStateError_ending t d, uncorrectableStateError_replays t d, uncorrectableStateError_ends t d,
    combinerTeamArrival_counts t b l i, combinerTeamArrival_releases t b l i, combinerRelease_reaches t b l i,
    combinerRelease_ofGone t b l i, preempt_acts t, resume_restores t seats, resume_waits t seats⟩

end Sys2Proof.Machine
end

section
/-!
PROOFS. The front end's graph walker: doorbells, records read again, launches tried again and completions, and
DoorbellsRecordsAndCompletions from these (R24, R296, R299, R300, R303, R306).
-/

namespace Sys2Proof.Machine

open Sys2Proof Sys2Proof.Claims

/-! ## Runs and rings -/

theorem lget_lset_self {α : Type} {xs : List α} {i : Nat} {x : α} (v : α) (h : lget xs i = some x) :
    lget (lset xs i v) i = some v := by
  induction xs generalizing i with
  | nil => cases h
  | cons y ys ih =>
    cases i with
    | zero => rfl
    | succ i => exact ih h

/-- A run that is there, read after it is set. -/
theorem runAt_setRun_self {p i : Nat} {s : State} {r : NodeRun} (v : NodeRun) (h : s.runAt p i = some r) :
    (setRun p i v s).runAt p i = some v := by
  simp only [State.runAt, setRun, pkg_modPkg_self]
  exact lget_lset_self v h

@[simp] theorem ringOf_setRun (p i : Nat) (r : NodeRun) (s : State) (ring : Nat) :
    (setRun p i r s).ringOf p ring = s.ringOf p ring := by
  simp [State.ringOf, setRun]

@[simp] theorem ringOf_takeBell (p ring : Nat) (v : BitVec 64) (s : State) (n : Nat) :
    (takeBell p ring v s).ringOf p n = s.ringOf p n := by
  simp [State.ringOf, takeBell]

/-! ## Doorbells -/

/-- A well-formed doorbell: its reserved bits are 0 and its slot is one of the ring's (R296). -/
theorem doorbell_good {p ring : Nat} {v : BitVec 64} {s : State} {r : Ring} (hr : s.ringOf p ring = some r)
    (hz : v.extractLsb' 18 46 = 0#46) (hslot : (v.extractLsb' 0 16).toNat < 2 ^ r.logSlots) :
    doorbell p ring v s =
      let s1 := if v.getLsbD 17 then modRing p ring (fun x => { x with prefetched := [], torn := [] }) s else s
      if v.getLsbD 16 then addRun p (freshRun ring (v.extractLsb' 0 16).toNat .ready) s1 else s1 := by
  have hgo : (fieldOf v 18 46 != 0#46 || decide (2 ^ r.logSlots ≤ (fieldOf v 0 16).toNat)) = false :=
    Bool.or_eq_false_iff.2 ⟨bne_eq_false_iff_eq.2 hz, decide_eq_false (Nat.not_le.2 hslot)⟩
  unfold doorbell
  dsimp only
  rw [hr]
  exact if_neg (Bool.eq_false_iff.1 hgo)

/-- Any other doorbell is counted. -/
theorem doorbell_bad {p ring : Nat} {v : BitVec 64} {s : State}
    (h : s.ringOf p ring = none ∨ ∃ r, s.ringOf p ring = some r ∧
      (v.extractLsb' 18 46 ≠ 0#46 ∨ 2 ^ r.logSlots ≤ (v.extractLsb' 0 16).toNat)) :
    doorbell p ring v s = countDie 0x43 1 p 0 s := by
  unfold doorbell
  dsimp only
  rcases h with hr | ⟨r, hr, hbad⟩
  · rw [hr]
  · rw [hr]
    refine if_pos ?_
    simp only [Bool.or_eq_true, bne_iff_ne, decide_eq_true_eq]
    exact hbad

/-- An 8-byte store to a doorbell page of the package's own BAR0 is a doorbell on its way (R296, R313). -/
theorem busPost_doorbell (p ring : Nat) (s : State) (pl : Place) (bs : List Byte) (hring : ring < 64)
    (hlen : bs.length = 8) (ht : busTarget s p (keyAddr pl.key) = some (p, false, 0x80000 + 4096 * ring)) :
    busPost p pl bs s =
      s.modPkg p (fun x => { x with bells := x.bells ++ [(ring, BitVec.ofNat 64 (leValue bs))] }) := by
  have hpage : (decide (0x80000 ≤ 0x80000 + 4096 * ring) && decide (0x80000 + 4096 * ring < 0xC0000)) = true := by
    simp only [Bool.and_eq_true, decide_eq_true_eq]
    omega
  have hzero : ((0x80000 + 4096 * ring) % 4096 == 0 && bs.length == 8) = true := by
    simp only [Bool.and_eq_true, beq_iff_eq]
    omega
  have hnum : (0x80000 + 4096 * ring - 0x80000) / 4096 = ring := by omega
  unfold busPost
  rw [ht]
  dsimp only
  rw [if_pos hpage, if_pos hzero, hnum]

/-! ## Prefetches -/

/-- A prefetch where the ring has room acts by what the read of the record finds (R299, R300). -/
theorem prefetchRecord_room {p ring slot tries : Nat} {s : State} {r : Ring} (hr : s.ringOf p ring = some r)
    (hslot : slot < 2 ^ r.logSlots) (hroom : r.prefetched.length < 32 ∨ (tget r.prefetched slot).isSome = true) :
    (∀ d t, readRecord p ring slot s = (.copy d, t) → prefetchRecord p ring slot tries s =
      modRing p ring (fun x => { x with torn := tdel x.torn slot, prefetched := tput x.prefetched slot d }) t) ∧
    (∀ d t, readRecord p ring slot s = (.torn d, t) → tries + 1 < 1024 → prefetchRecord p ring slot tries s =
      modRing p ring (fun x => { x with torn := tput (tdel x.torn slot) slot (tries + 1) }) t) := by
  have hgo : (decide (2 ^ r.logSlots ≤ slot) || (decide (32 ≤ r.prefetched.length) && (tget r.prefetched slot).isNone))
      = false := by
    rcases hroom with h | h
    · simp [Nat.not_le.2 hslot, Nat.not_le.2 h]
    · simp [Nat.not_le.2 hslot, Option.isNone_eq_false_iff.2 h]
  refine ⟨fun d t hread => ?_, fun d t hread htries => ?_⟩
  · unfold prefetchRecord
    rw [hr]
    dsimp only
    rw [hgo, hread]
    rfl
  · unfold prefetchRecord
    rw [hr]
    dsimp only
    rw [hgo, hread]
    exact (if_neg Bool.false_ne_true).trans (if_neg (Nat.not_le.2 htries))

/-! ## Records read again -/

/-- The phases in which a run's record is read again (R299). -/
def readsAgain : NodePhase → Bool
  | .reread _ | .loading _ => true
  | _ => false

theorem recordReread_starting {p ring slot i n : Nat} {s : State} {z : NodeRun}
    (hfind : findRun s p ring slot readsAgain = some i) (hz : s.runAt p i = some z) (hph : z.phase = .reread n) :
    exec (.recordReread p ring slot) s = .next (readForStart p i n none s) := by
  show execRecordReread p ring slot s = _
  unfold execRecordReread
  split
  · next h => exact absurd (hfind.symm.trans h) (by simp)
  · next j h =>
    obtain rfl : i = j := Option.some.inj (hfind.symm.trans h)
    simp only [hz, Option.map_some, hph]

theorem recordReread_loading {p ring slot i n : Nat} {s : State} {z : NodeRun}
    (hfind : findRun s p ring slot readsAgain = some i) (hz : s.runAt p i = some z) (hph : z.phase = .loading n) :
    exec (.recordReread p ring slot) s = .next (loadCount p ring slot n (some i) none s) := by
  show execRecordReread p ring slot s = _
  unfold execRecordReread
  split
  · next h => exact absurd (hfind.symm.trans h) (by simp)
  · next j h =>
    obtain rfl : i = j := Option.some.inj (hfind.symm.trans h)
    simp only [hz, Option.map_some, hph]

theorem recordReread_prefetch {p ring slot n : Nat} {s : State} {r : Ring}
    (hfind : findRun s p ring slot readsAgain = none) (hr : s.ringOf p ring = some r) (htorn : tget r.torn slot = some n) :
    exec (.recordReread p ring slot) s = .next (prefetchRecord p ring slot n s) := by
  show execRecordReread p ring slot s = _
  unfold execRecordReread
  split
  · simp only [hr, Option.bind_some, htorn]
  · next j h => exact absurd (hfind.symm.trans h) (by simp)

/-- A run that starts takes a whole copy of its record (R299, R301). -/
theorem readForStart_copy {p i tries : Nat} {again : Option Nat} {s t : State} {z : NodeRun} {d : List Byte}
    (hz : s.runAt p i = some z) (hread : readRecord p z.ring z.slot s = (.copy d, t)) (hzt : t.runAt p i = some z)
    (hok : nodeOk d = true) : readForStart p i tries again s =
      setLive p z.ring z.slot (nodeOf d).preds (setRun p i { z with record := some d, phase := .ready } t) := by
  simp only [readForStart, hz, hread, takeCopy, hzt, hok, if_true]

/-- A torn copy is read again, or at the limit fails its node (R299). -/
theorem readForStart_torn {p i tries : Nat} {again : Option Nat} {s t : State} {z : NodeRun} {d : List Byte}
    (hz : s.runAt p i = some z) (hread : readRecord p z.ring z.slot s = (.torn d, t)) : readForStart p i tries again s =
      if 1024 ≤ tries + 1 then failRun p i 0x11#8 0#8 (setRun p i { z with record := some d } t)
      else setRun p i { z with phase := .reread (tries + 1) } t := by
  simp only [readForStart, hz, hread]

section
variable {p ring slot tries i : Nat} {again : Option Nat} {s t : State} {r : Ring} {d : List Byte}

/-- A count that has been loaded meanwhile is decremented with no read (R301). -/
theorem loadCount_loaded {m : Nat} (hr : s.ringOf p ring = some r) (hlive : tget r.live slot = some m) :
    loadCount p ring slot tries (some i) again s = decrement p ring slot m (dropRun p i s) := by
  simp only [loadCount, hr, Option.bind_some, hlive]

theorem loadCount_copy (hr : s.ringOf p ring = some r) (hlive : tget r.live slot = none)
    (hread : readRecord p ring slot s = (.copy d, t)) :
    loadCount p ring slot tries (some i) again s = decrement p ring slot (nodeOf d).preds (dropRun p i t) := by
  simp only [loadCount, hr, Option.bind_some, hlive, hread]

theorem loadCount_torn (hr : s.ringOf p ring = some r) (hlive : tget r.live slot = none)
    (hread : readRecord p ring slot s = (.torn d, t)) :
    loadCount p ring slot tries (some i) again s =
      if 1024 ≤ tries + 1 then
        addRun p { ((freshRun ring slot .ready).finish 0x11#8 0#8 0#32 0) with record := some d, listed := true }
          (dropRun p i t)
      else modRun p i (fun y => { y with phase := .loading (tries + 1) }) t := by
  simp only [loadCount, hr, Option.bind_some, hlive, hread]

end

/-! ## Launches tried again -/

theorem launchRetry_eq {p ring slot i : Nat} {s : State} (hfind : findRun s p ring slot (· == .waitPlace) = some i) :
    exec (.launchRetry p ring slot) s = .next (tryPlace p i s) := by
  show execLaunchRetry p ring slot s = _
  simp only [execLaunchRetry, hfind]

theorem launchWaitExpiry_acts (p ring slot i : Nat) : Acts (.launchWaitExpiry p ring slot)
    (fun s => findRun s p ring slot (· == .waitPlace) = some i) (modRun p i (fun y => { y with blocking := true })) := by
  intro s hfind
  show execLaunchWaitExpiry p ring slot s = _
  simp only [execLaunchWaitExpiry, hfind]

section
variable {p i : Nat} {s : State} {z : NodeRun} {l : LaunchRec} {r : Ring} {seats : List TeamSeat}

/-- A run with its launch record waits while a node ahead holds it back, or its teams find no seats (R306, R307). -/
theorem tryPlace_waits (hz : s.runAt p i = some z) (hl : z.lrec = some l) (hr : s.ringOf p z.ring = some r)
    (h : heldBack s p i z = true ∨ placeNow s p l z.node.part = none ∨
      placeNow s p l z.node.part = some seats ∧ seatsStalled s l seats = true) :
    tryPlace p i s = setRun p i { z with phase := .waitPlace } s := by
  simp only [tryPlace, hz, hl, hr]
  cases hheld : heldBack s p i z with
  | true => rfl
  | false =>
    rcases h with h | h | ⟨h, hstall⟩
    · exact absurd (hheld.symm.trans h) Bool.false_ne_true
    · simp [h]
    · simp [h, hstall]

theorem tryPlace_commits (hz : s.runAt p i = some z) (hl : z.lrec = some l) (hr : s.ringOf p z.ring = some r)
    (hheld : heldBack s p i z = false) (hseats : placeNow s p l z.node.part = some seats)
    (hstall : seatsStalled s l seats = false) :
    tryPlace p i s = setRun p i { z with phase := .running s.nextId, blocking := false }
      (commitLaunch s.nextId (launchOfRun s p z r l) seats
        (loadPhase p r.tkey z.node.phase { s with nextId := s.nextId + 1 })) := by
  simp only [tryPlace, hz, hl, hr, hheld, hseats, hstall, Bool.false_eq_true, if_false]
  rfl

end

/-! ## Completion -/

theorem nodeComplete_eq {p ring slot i : Nat} {s : State} (hfind : findRun s p ring slot (· == .done) = some i) :
    exec (.nodeComplete p ring slot) s = .next (completeRun p i none s) := by
  show execNodeComplete p ring slot s = _
  simp only [execNodeComplete, hfind]

section
variable {p i : Nat} {again : Option Nat} {s t : State} {y : NodeRun} {r : Ring}

/-- A run whose completion word is written releases its successors and goes (R303). -/
theorem settleRun_written (hy : s.runAt p i = some y) (hr : s.ringOf p y.ring = some r) (hw : y.written = true) :
    settleRun p i again s = y.release.foldl (fun s ref => releaseOne p ref s) (dropRun p i s) := by
  simp only [settleRun, hy, hr, hw, if_true]

/-- A run that writes its completion word releases its successors and goes (R303, R304). -/
theorem settleRun_writes {bs : List (Byte × Bool)} (hyt : t.runAt p i = some y)
    (hwrite : feWrite p r y.node.compl ((leBytes 16 (completionWord y)).map (fun b => (b, false))) s = (.bytes bs, t))
    (hw : y.written = false) (hy : s.runAt p i = some y) (hr : s.ringOf p y.ring = some r) :
    settleRun p i again s =
      y.release.foldl (fun s ref => releaseOne p ref s) (dropRun p i (setRun p i { y with written := true } t)) := by
  simp only [settleRun, hy, hr, hw, hwrite, runAt_setRun_self _ hyt, Bool.false_eq_true, if_false, if_true]

/-- A run whose list of successors is known settles. -/
theorem completeRun_listed (hy : s.runAt p i = some y) (hr : s.ringOf p y.ring = some r) (hl : y.listed = true) :
    completeRun p i again s = settleRun p i again s := by
  simp only [completeRun, hy, hr, hl, if_true]

/-- A run that failed releases none. -/
theorem completeRun_failed (hy : s.runAt p i = some y) (hr : s.ringOf p y.ring = some r) (hl : y.listed = false)
    (hs : y.status ≠ 0#8) :
    completeRun p i again s = settleRun p i again (setRun p i { y with listed := true, release := [] } s) := by
  have hs' : (y.status != 0#8) = true := by simpa using hs
  simp only [completeRun, hy, hr, hl, hs', Bool.false_eq_true, if_false, if_true]

/-- A run that succeeded reads its overflow list, where it has one (R301). -/
theorem completeRun_reads {u : State} {os : List (Byte × Bool)} (hy : s.runAt p i = some y)
    (hr : s.ringOf p y.ring = some r) (hl : y.listed = false) (hs : y.status = 0#8)
    (hos : if y.node.novfl = 0 then os = [] ∧ u = s else feRead p r y.node.ovfl (4 * y.node.novfl) s = (.bytes os, u)) :
    completeRun p i again s = settleRun p i again (setRun p i { y with
      listed := true
      release := (if y.node.kind = 1 then y.node.succ else y.release) ++ refsOf (os.map (·.1)) y.node.novfl } u) := by
  have hs' : (y.status != 0#8) = false := by simpa using hs
  have hread : (if y.node.novfl = 0 then (EngineAns.bytes [], s) else feRead p r y.node.ovfl (4 * y.node.novfl) s)
      = (.bytes os, u) := by
    split at hos
    · obtain ⟨rfl, rfl⟩ := hos
      rw [if_pos ‹_›]
    · rw [if_neg ‹_›, hos]
  simp only [completeRun, hy, hr, hl, hs', hread, Bool.false_eq_true, if_false]

end

/-! ## The obligation -/

/-- Settles O46: every event answers what its lemma above says. -/
theorem doorbellsRecordsAndCompletions : Obligations.DoorbellsRecordsAndCompletions := by
  intro p ring slot i n m v r d t u z l seats bs os
  refine ⟨?_, ?_, busPost_doorbell p ring, ?_, ?_, ?_, ?_, ?_, ?_, ?_, ?_, ?_, ?_, ?_, ?_, ?_, ?_,
    launchWaitExpiry_acts p ring slot i, ?_, ?_, ?_, ?_⟩
  · rintro s ⟨hr, hz, hslot⟩
    exact congrArg _ (doorbell_good ((ringOf_takeBell p ring v s ring).trans hr) hz hslot)
  · rintro s ⟨hr, hz, hslot⟩
    exact congrArg _ (doorbell_good ((ringOf_takeBell p ring v s ring).trans hr) hz hslot)
  · intro s hbad
    exact congrArg _ (doorbell_bad (by rw [ringOf_takeBell]; exact hbad))
  · intro s hbad
    exact congrArg _ (doorbell_bad (by rw [ringOf_takeBell]; exact hbad))
  · rintro s ⟨⟨hr, hslot, hroom⟩, hread⟩
    exact congrArg _ ((prefetchRecord_room hr hslot hroom).1 d t hread)
  · rintro s ⟨⟨hr, hslot, hroom⟩, hread⟩
    exact congrArg _ ((prefetchRecord_room hr hslot hroom).2 d t hread (by omega))
  · rintro s ⟨⟨hfind, hz, hph, rfl, rfl⟩, hread, hzt, hok⟩
    rw [recordReread_starting hfind hz hph, readForStart_copy hz hread hzt hok]
  · rintro s ⟨⟨hfind, hz, hph, rfl, rfl⟩, hread, hn⟩
    rw [recordReread_starting hfind hz hph, readForStart_torn hz hread, if_neg (by omega)]
  · rintro s ⟨⟨hfind, hz, hph, rfl, rfl⟩, hread, hn⟩
    rw [recordReread_starting hfind hz hph, readForStart_torn hz hread, if_pos (by omega)]
  · rintro s ⟨⟨hfind, hz, hph, -, -⟩, ⟨hr, hlive⟩, hread⟩
    rw [recordReread_loading hfind hz hph, loadCount_copy hr hlive hread]
    rfl
  · rintro s ⟨⟨hfind, hz, hph, -, -⟩, ⟨hr, hlive⟩, hread, hn⟩
    rw [recordReread_loading hfind hz hph, loadCount_torn hr hlive hread, if_neg (by omega)]
  · rintro s ⟨⟨hfind, hz, hph, -, -⟩, ⟨hr, hlive⟩, hread, hn⟩
    rw [recordReread_loading hfind hz hph, loadCount_torn hr hlive hread, if_pos (by omega)]
  · rintro s ⟨⟨hfind, hz, hph, -, -⟩, hr, hlive⟩
    rw [recordReread_loading hfind hz hph, loadCount_loaded hr hlive]
    rfl
  · rintro s ⟨hfind, ⟨hr, hslot, hroom⟩, htorn, hread⟩
    rw [recordReread_prefetch hfind hr htorn, (prefetchRecord_room hr hslot hroom).1 d t hread]
  · rintro s ⟨⟨hfind, hz, hl, hr⟩, hwait⟩
    rw [launchRetry_eq hfind, tryPlace_waits hz hl hr hwait]
  · rintro s ⟨⟨hfind, hz, hl, hr⟩, hheld, hseats, hstall⟩
    rw [launchRetry_eq hfind, tryPlace_commits hz hl hr hheld hseats hstall]
  · rintro s ⟨⟨hfind, hz, hr⟩, hlisted, hw, hzt, hwrite⟩
    rw [nodeComplete_eq hfind, completeRun_listed hz hr hlisted, settleRun_writes hzt hwrite hw hz hr]
  · rintro s ⟨⟨hfind, hz, hr⟩, hlisted, hw⟩
    rw [nodeComplete_eq hfind, completeRun_listed hz hr hlisted, settleRun_written hz hr hw]
  · rintro s ⟨⟨hfind, hz, hr⟩, hlisted, hstatus, hw, hyt, hwrite⟩
    rw [nodeComplete_eq hfind, completeRun_failed hz hr hlisted hstatus,
      settleRun_writes hyt hwrite hw (runAt_setRun_self _ hz) ((ringOf_setRun _ _ _ _ _).trans hr)]
  · rintro s ⟨⟨hfind, hz, hr⟩, hlisted, hstatus, hos, hzu, hru, hw, hyt, hwrite⟩
    rw [nodeComplete_eq hfind, completeRun_reads hz hr hlisted hstatus hos,
      settleRun_writes hyt hwrite hw (runAt_setRun_self _ hzu) ((ringOf_setRun _ _ _ _ _).trans hru)]

end Sys2Proof.Machine
end

section
/-!
PROOFS. Encodings: each record of fields is its bits and its bits are the record, so a word is its opcode, its header and
its body; the decoder reads the word of every instruction back, and the encoder gives back every word (O50). The sample
words (O51).
-/

namespace Sys2Proof

/-! ## Fields of parts put together -/

theorem fieldOf_append_high {m k : Nat} (x : BitVec m) (y : BitVec k) {lo : Nat} (n : Nat) (h : k ≤ lo) :
    fieldOf (x ++ y) lo n = fieldOf x (lo - k) n :=
  BitVec.extractLsb'_append_eq_of_le h

theorem fieldOf_append_low {m k : Nat} (x : BitVec m) (y : BitVec k) {lo n : Nat} (h : lo + n ≤ k) :
    fieldOf (x ++ y) lo n = fieldOf y lo n :=
  BitVec.extractLsb'_append_eq_of_add_le h

theorem fieldOf_append_fieldOf {m : Nat} (w : BitVec m) {hi lo n k : Nat} (h : hi = lo + k) :
    fieldOf w hi n ++ fieldOf w lo k = fieldOf w lo (n + k) :=
  BitVec.extractLsb'_append_extractLsb'_eq_extractLsb' h

@[simp] theorem fieldOf_self {m : Nat} (x : BitVec m) : fieldOf x 0 m = x :=
  BitVec.extractLsb'_eq_self

/-! ## Records of fields and their bits

The widths of the parts are sums where the record writes a numeral; `-index` lets the lemmas above match them. -/

@[simp] theorem Hdr.of_bits (h : Hdr) : Hdr.of h.bits = h := by
  simp -index only [Hdr.of, Hdr.bits, fieldOf_append_high, fieldOf_append_low, fieldOf_self, Nat.reduceAdd,
    Nat.reduceLeDiff, Nat.reduceSub]

@[simp] theorem FV.of_bits (f : FV) : FV.of f.bits = f := by
  simp -index only [FV.of, FV.bits, fieldOf_append_high, fieldOf_append_low, fieldOf_self, Nat.reduceAdd,
    Nat.reduceLeDiff, Nat.reduceSub]

@[simp] theorem FI.of_bits (f : FI) : FI.of f.bits = f := by
  simp -index only [FI.of, FI.bits, fieldOf_append_high, fieldOf_append_low, fieldOf_self, Nat.reduceAdd,
    Nat.reduceLeDiff, Nat.reduceSub]

@[simp] theorem FM.of_bits (f : FM) : FM.of f.bits = f := by
  simp -index only [FM.of, FM.bits, fieldOf_append_high, fieldOf_append_low, fieldOf_self, Nat.reduceAdd,
    Nat.reduceLeDiff, Nat.reduceSub]

@[simp] theorem FX.of_bits (f : FX) : FX.of f.bits = f := by
  simp -index only [FX.of, FX.bits, fieldOf_append_high, fieldOf_append_low, fieldOf_self, Nat.reduceAdd,
    Nat.reduceLeDiff, Nat.reduceSub]

@[simp] theorem FC.of_bits (f : FC) : FC.of f.bits = f := by
  simp -index only [FC.of, FC.bits, fieldOf_append_high, fieldOf_append_low, fieldOf_self, Nat.reduceAdd,
    Nat.reduceLeDiff, Nat.reduceSub]

@[simp] theorem FCX.of_bits (f : FCX) : FCX.of f.bits = f := by
  simp -index only [FCX.of, FCX.bits, fieldOf_append_high, fieldOf_append_low, fieldOf_self, Nat.reduceAdd,
    Nat.reduceLeDiff, Nat.reduceSub]

@[simp] theorem FP.of_bits (f : FP) : FP.of f.bits = f := by
  simp -index only [FP.of, FP.bits, fieldOf_append_high, fieldOf_append_low, fieldOf_self, Nat.reduceAdd,
    Nat.reduceLeDiff, Nat.reduceSub]

@[simp] theorem FW.of_bits (f : FW) : FW.of f.bits = f := by
  simp -index only [FW.of, FW.bits, fieldOf_append_high, fieldOf_append_low, fieldOf_self, Nat.reduceAdd,
    Nat.reduceLeDiff, Nat.reduceSub]

@[simp] theorem Hdr.bits_of (b : BitVec 16) : (Hdr.of b).bits = b := by
  simp -index only [Hdr.of, Hdr.bits, fieldOf_append_fieldOf, fieldOf_self, Nat.reduceAdd]

@[simp] theorem FV.bits_of (b : BitVec 72) : (FV.of b).bits = b := by
  simp -index only [FV.of, FV.bits, fieldOf_append_fieldOf, fieldOf_self, Nat.reduceAdd]

@[simp] theorem FI.bits_of (b : BitVec 72) : (FI.of b).bits = b := by
  simp -index only [FI.of, FI.bits, fieldOf_append_fieldOf, fieldOf_self, Nat.reduceAdd]

@[simp] theorem FM.bits_of (b : BitVec 72) : (FM.of b).bits = b := by
  simp -index only [FM.of, FM.bits, fieldOf_append_fieldOf, fieldOf_self, Nat.reduceAdd]

@[simp] theorem FX.bits_of (b : BitVec 72) : (FX.of b).bits = b := by
  simp -index only [FX.of, FX.bits, fieldOf_append_fieldOf, fieldOf_self, Nat.reduceAdd]

@[simp] theorem FC.bits_of (b : BitVec 72) : (FC.of b).bits = b := by
  simp -index only [FC.of, FC.bits, fieldOf_append_fieldOf, fieldOf_self, Nat.reduceAdd]

@[simp] theorem FCX.bits_of (b : BitVec 72) : (FCX.of b).bits = b := by
  simp -index only [FCX.of, FCX.bits, fieldOf_append_fieldOf, fieldOf_self, Nat.reduceAdd]

@[simp] theorem FP.bits_of (b : BitVec 72) : (FP.of b).bits = b := by
  simp -index only [FP.of, FP.bits, fieldOf_append_fieldOf, fieldOf_self, Nat.reduceAdd]

@[simp] theorem FW.bits_of (b : BitVec 72) : (FW.of b).bits = b := by
  simp -index only [FW.of, FW.bits, fieldOf_append_fieldOf, fieldOf_self, Nat.reduceAdd]

/-! ## Words -/

@[simp] theorem opOf_mkWord (op : BitVec 8) (h : Hdr) (b : BitVec 72) : opOf (mkWord op h b) = op := by
  simp -index only [opOf, mkWord, fieldOf_append_high, fieldOf_self, Nat.reduceAdd, Nat.reduceLeDiff, Nat.reduceSub]

@[simp] theorem hdrOf_mkWord (op : BitVec 8) (h : Hdr) (b : BitVec 72) : hdrOf (mkWord op h b) = h := by
  simp -index only [hdrOf, mkWord, fieldOf_append_high, fieldOf_append_low, fieldOf_self, Hdr.of_bits, Nat.reduceAdd,
    Nat.reduceLeDiff, Nat.reduceSub]

@[simp] theorem bodyOf_mkWord (op : BitVec 8) (h : Hdr) (b : BitVec 72) : bodyOf (mkWord op h b) = b := by
  simp -index only [bodyOf, mkWord, fieldOf_append_low, fieldOf_self, Nat.reduceAdd, Nat.reduceLeDiff]

theorem mkWord_parts (w : BitVec 96) : mkWord (opOf w) (hdrOf w) (bodyOf w) = w := by
  simp -index only [mkWord, opOf, hdrOf, bodyOf, Hdr.bits_of, fieldOf_append_fieldOf, fieldOf_self, Nat.reduceAdd]

theorem decode_mkWord (op : BitVec 8) (h : Hdr) (b : BitVec 72) :
    decode (mkWord op h b) = decodeOp op.toNat h b (mkWord op h b) := by
  simp only [decode, opOf_mkWord, hdrOf_mkWord, bodyOf_mkWord]

/-! ## Decode and encode -/

theorem encode_isSome (i : Instr) : (encode i).isSome = decide (i.opNum ≤ 255) := by
  cases i with
  | undefinedMajorOpcode w => exact (decide_eq_true (Nat.le_of_lt_succ (opOf w).isLt)).symm
  | _ => rfl

/-- The decoder reads the word of every instruction but the one of an undefined opcode, which may hold any word. The row of
decodeOp is found by evaluation (whnf): to rewrite with decodeOp would write out the whole table in every case. -/
theorem decode_of_encode (i : Instr) (w : BitVec 96) (hi : ∀ v, i ≠ .undefinedMajorOpcode v)
    (hw : encode i = some w) : decode w = i := by
  cases i with
  | undefinedMajorOpcode v => exact absurd rfl (hi v)
  | nop h b =>
    cases hw
    rw [decode_mkWord]
    rfl
  | _ =>
    cases hw
    all_goals
      rw [decode_mkWord]
      conv_lhs => whnf
      simp only [FV.of_bits, FI.of_bits, FM.of_bits, FX.of_bits, FC.of_bits, FCX.of_bits, FP.of_bits, FW.of_bits]

/-- An opcode of the table gives its instruction the word of its header and body; any other keeps the word. -/
theorem encode_decodeOp {n : Nat} (h : Hdr) (b : BitVec 72) (w : BitVec 96) :
    encode (decodeOp n h b w) = some (mkWord (BitVec.ofNat 8 n) h b) ∨ encode (decodeOp n h b w) = some w := by
  unfold decodeOp
  split
  case h_153 => exact .inr rfl
  all_goals exact .inl (by simp [encode])

theorem encode_decode (w : BitVec 96) : encode (decode w) = some w := by
  obtain h | h := encode_decodeOp (n := (opOf w).toNat) (hdrOf w) (bodyOf w) w
  · rw [decode, h, BitVec.ofNat_toNat, BitVec.setWidth_eq, mkWord_parts]
  · exact h

theorem undefinedMajorOpcode_not_wf (budget planes : Nat) (w : BitVec 96) :
    (Instr.undefinedMajorOpcode w).wf budget planes = false := by
  simp [Instr.wf, Instr.formOk]

/-- Settles O50: a word is its opcode, header and body, each record is its bits, and the opcodes of encode are those of
decodeOp. -/
theorem decodeAndEncodeAgree : Obligations.DecodeAndEncodeAgree := by
  refine ⟨fun budget planes i w hwf hw => decode_of_encode i w ?_ hw, fun i hi => ?_, encode_decode⟩
  · rintro v rfl
    rw [undefinedMajorOpcode_not_wf] at hwf
    contradiction
  · rw [encode_isSome, decide_eq_true hi]

/-! ## Sample words -/

/-- Settles O51: decode reads each word by computation, and the fields are the numerals claimed. -/
theorem sampleWordsDecode : Obligations.SampleWordsDecode :=
  ⟨⟨_, rfl, rfl, rfl, rfl, rfl, rfl, rfl, rfl⟩, ⟨_, rfl, rfl, rfl, rfl, rfl, rfl⟩,
    ⟨_, rfl, rfl, rfl, rfl, rfl, rfl, rfl⟩, ⟨_, rfl, rfl, rfl, rfl, rfl, rfl⟩, ⟨_, rfl, rfl, rfl, rfl, rfl, rfl⟩, rfl⟩

end Sys2Proof
end

section
/-!
PROOFS. Check 6 of R42: a word that only trap mode may execute, found where checks 1 to 5 pass in every plane (R42, R48,
R72).
-/

namespace Sys2Proof.Machine

open Sys2Proof Sys2Proof.Claims

/-- A word that passes checks 3 to 5 alone: present, no REP, of a defined opcode that the role may issue, and encoded as
the spec admits. -/
def passesToCheck5 (w : Warp) (planes : Nat) (q : Issue) (x : Nat × Option Instr) : Prop :=
  ∃ y, x.2 = some y ∧ isRep y = false ∧ undefinedOp y = false ∧ roleMay w.role y.opNum = true ∧
    encodingOk w planes (q.line x.1) (slotNum q.offset) x.2 = true

/-- A check over the slots of words that are no REP passes where each word passes it. -/
theorem all_slotAll_true (f : Instr → Bool) (q : Issue) (words : List (Nat × Option Instr))
    (h : ∀ x ∈ words, ∃ y, x.2 = some y ∧ isRep y = false ∧ f y = true) :
    words.all (fun x => slotAll f (q.line x.1) (slotNum q.offset) x.2) = true := by
  refine List.all_eq_true.2 fun x hx => ?_
  obtain ⟨y, hy, hrep, hf⟩ := h x hx
  rw [hy, slotAll_some, hf, hrep]
  rfl

/-- The words decoded at a slot begin with the slot's own. -/
theorem mem_decodedWords_self (line : BitVec 512) (slot : Nat) (i : Instr) : i ∈ decodedWords line slot (some i) := by
  cases i <;> exact List.mem_cons_self

theorem opNum_lt_of_defined {i : Instr} (h : undefinedOp i = false) : i.opNum < 256 := by
  unfold undefinedOp at h
  split at h
  · contradiction
  · simpa [Nat.lt_succ_iff] using h

/-- Where checks 1 to 5 pass, in every plane, and the planes agree, a word that its warp may not execute in its mode raises
PRIVILEGE. -/
theorem decodeFault_privilege (w : Warp) (planes : Nat) (q : Issue) (i : Instr) (ht : q.todo ≠ [])
    (hlines : ∀ x ∈ q.lines, parityOk x.2 = true ∧ lineWordOk x.2 = true)
    (hwords : ∀ x ∈ issueWords q (q.todo.headD 0) i, passesToCheck5 w planes q x)
    (hagree : planesAgree q.lines (slotNum q.offset) = true) (hi : (modeOk w i && privileged w i) = false) :
    decodeFault w planes q (q.todo.headD 0) i = some causePrivilege := by
  have hparity : q.lines.any (fun x => !parityOk x.2) = false := by simpa using fun p b hx => (hlines (p, b) hx).1
  have hword : q.lines.any (fun x => !lineWordOk x.2) = false := by simpa using fun p b hx => (hlines (p, b) hx).2
  have hdefined := all_slotAll_true (fun x => !undefinedOp x) q _ fun x hx =>
    let ⟨y, hy, hrep, hundef, _⟩ := hwords x hx
    ⟨y, hy, hrep, by simpa using hundef⟩
  have hrole := all_slotAll_true (fun x => roleMay w.role x.opNum) q _ fun x hx =>
    let ⟨y, hy, hrep, _, hmay, _⟩ := hwords x hx
    ⟨y, hy, hrep, hmay⟩
  have hencoding : (issueWords q (q.todo.headD 0) i).all
      (fun x => encodingOk w planes (q.line x.1) (slotNum q.offset) x.2) = true :=
    List.all_eq_true.2 fun x hx => let ⟨_, _, _, _, _, henc⟩ := hwords x hx; henc
  have hmode : (issueWords q (q.todo.headD 0) i).all (fun x => (decodedWords (q.line x.1) (slotNum q.offset) x.2).all
      (fun x => modeOk w x && privileged w x)) = false :=
    List.all_eq_false.2 ⟨_, mem_issueWords_head q i ht, fun hall =>
      Bool.eq_false_iff.1 hi (List.all_eq_true.1 hall i (mem_decodedWords_self _ _ i))⟩
  unfold decodeFault
  refine (if_neg ?_).trans <| (if_neg ?_).trans <| (if_neg ?_).trans <| (if_neg ?_).trans <| (if_neg ?_).trans <|
    (if_neg ?_).trans (if_pos ?_)
  · exact Bool.eq_false_iff.1 hparity
  · exact Bool.eq_false_iff.1 hword
  · exact Bool.not_not_eq.2 hdefined
  · exact Bool.not_not_eq.2 hrole
  · exact Bool.not_not_eq.2 hencoding
  · exact Bool.not_not_eq.2 hagree
  · exact congrArg Bool.not hmode

/-- Settles O23: check 6 stops the issue, of ERET, KSAVE and KLOAD for the mode that they need, and of VADD for its kv
register. -/
theorem privilegedNeedTrapMode : Obligations.PrivilegedNeedTrapMode := by
  intro i s q hq hm w slot hc ht hlines hwords hagree privilege
  have traps (hi : (modeOk w i && privileged w i) = false) :
      exec i s = .next (trapAt (passCtx s q i .vec) false privilege s) := by
    obtain ⟨y, hy, -, hdef, -⟩ := hwords _ (mem_issueWords_head q i ht)
    obtain rfl : i = y := Option.some.inj hy
    exact exec_issueFault i (opNum_lt_of_defined hdef) s q hq hc causePrivilege (by decide)
      (issueFault_of_decodeFault (decodeFault_privilege w _ q i ht hlines hwords hagree hi))
  refine ⟨?_, fun _ hkv => traps ?_⟩
  · rintro (⟨h, f, rfl⟩ | ⟨h, f, rfl⟩ | ⟨h, f, rfl⟩)
    all_goals exact traps (by rw [modeOk, hm, Bool.false_and])
  · rw [privileged, hm, hkv, Bool.not_true, Bool.or_false, Bool.and_false]

end Sys2Proof.Machine
end

section
/-!
PROOFS. A step: what each move that it takes comes to, and that an issue ready for its passes holds the lines that the
instruction cache holds at its offset (R237, R248, R263, R316).
-/

namespace Sys2Proof.Machine

open Sys2Proof Sys2Proof.Claims

/-! ## The issue in progress -/

@[simp] theorem countWarp_cur (code n k : Nat) (s : State) : (countWarp code n k s).cur = s.cur := by
  unfold countWarp countCore
  split
  · rfl
  · rfl

@[simp] theorem settle_cur (k : Nat) (s : State) : (settle k s).cur = s.cur :=
  countWarp_cur _ _ _ _

@[simp] theorem retireIfDone_cur (k : Nat) (s : State) : (retireIfDone k s).cur = s.cur := by
  unfold retireIfDone
  dsimp only
  split <;> rfl

/-- The issue in progress, if one is, is finished or ended by a trap. -/
def noneRuns (s : State) : Prop := ∀ q, s.cur = some q → q.status ≠ .running

theorem noneRuns_of_none {s : State} (h : s.cur = none) : noneRuns s := by
  intro q hq
  rw [h] at hq
  contradiction

theorem noneRuns_modCur {s : State} {f : Issue → Issue} (h : ∀ q, (f q).status ≠ .running) : noneRuns (s.modCur f) := by
  intro q hq
  rw [modCur_cur, Option.map_eq_some_iff] at hq
  obtain ⟨q, -, rfl⟩ := hq
  exact h q

theorem noneRuns_trapAt (c : Ctx) (decoded : Bool) (f : FaultInfo) (s : State) : noneRuns (trapAt c decoded f s) :=
  noneRuns_modCur (by simp)

theorem noneRuns_pageFaultPass (c : Ctx) (f : FaultInfo) (s : State) : noneRuns (pageFaultPass c f s) := by
  unfold pageFaultPass
  dsimp only
  split
  · exact noneRuns_modCur (by simp)
  · exact noneRuns_trapAt _ _ _ _

theorem noneRuns_faultAtIssue (q : Issue) (p : Nat) (cause : BitVec 8) (va : A80) (lines : List A80) (s : State) :
    noneRuns (faultAtIssue q p cause va lines s) := by
  unfold faultAtIssue
  dsimp only
  split
  · exact noneRuns_pageFaultPass _ _ _
  · exact noneRuns_trapAt _ _ _ _

theorem finishIssue_cur (q : Issue) (s : State) :
    (finishIssue q s).cur = s.cur.map (fun q => { q with status := .finished }) := by
  unfold finishIssue
  dsimp only
  split
  · rfl
  · split
    · split <;> simp
    · simp

theorem noneRuns_finishIssue (q : Issue) (s : State) : noneRuns (finishIssue q s) := by
  intro x hx
  rw [finishIssue_cur, Option.map_eq_some_iff] at hx
  obtain ⟨y, -, rfl⟩ := hx
  simp

/-! ## The lines of an issue -/

/-- Of the lines fetched, those found are the cache's. -/
theorem mem_linesOf_found {s : State} {k : Nat} {o : Word} {planes : List Nat} {x : Nat × BitVec 512}
    (hx : x ∈ (linesOf s k o planes).filterMap (fun x => match x.2 with | .line b => some (x.1, b) | _ => none)) :
    getLine s k x.1 o = .line x.2 := by
  obtain ⟨y, hy, hline⟩ := List.mem_filterMap.1 hx
  obtain ⟨p, -, rfl⟩ := List.mem_map.1 hy
  dsimp only at hline
  split at hline
  case h_1 b hb =>
    obtain rfl := Option.some.inj hline
    exact hb
  case h_2 => contradiction

/-- An issue that is ready for its passes holds the lines of the cache at its offset. -/
theorem beginIssue_lines {k e : Nat} {s : State} {q : Issue} (hq : (beginIssue k e s).cur = some q)
    (hr : q.status = .running) : ∀ x ∈ q.lines, getLine s k x.1 q.offset = .line x.2 := by
  have runs {t : State} (ht : noneRuns t) (h : t.cur = some q) : False := ht q h hr
  revert hq
  fun_cases beginIssue k e s <;> intro hq
  · exact (runs (noneRuns_faultAtIssue _ _ _ _ _ _) hq).elim
  · exact (runs (noneRuns_faultAtIssue _ _ _ _ _ _) hq).elim
  · contradiction
  · contradiction
  · exact (runs (noneRuns_trapAt _ _ _ _) hq).elim
  · exact (runs (noneRuns_finishIssue _ _) hq).elim
  · obtain rfl := Option.some.inj hq
    exact fun x hx => mem_linesOf_found hx

/-! ## The passes of an issue -/

theorem passInstr_word {q : Issue} (h : q.rep = none) :
    passInstr q = decode (slotWord (q.line (q.todo.headD 0)) (slotNum q.offset)) := by
  rw [passInstr, planeInstr, h]
  rfl

theorem passInstr_repetition {q : Issue} {j : Nat} {h : Hdr} {f : FP} (hj : q.rep = some j)
    (hrep : decode (slotWord (q.line (q.todo.headD 0)) (slotNum q.offset - 1)) = .rep h f) :
    passInstr q = ((decode (slotWord (q.line (q.todo.headD 0)) (slotNum q.offset))).stepped f j).getD
      (decode (slotWord (q.line (q.todo.headD 0)) (slotNum q.offset))) := by
  rw [passInstr, planeInstr, hj]
  dsimp only
  rw [instrAt, hrep]
  rfl

/-- The first pass of an issue that is ready, and then the passes to come. -/
theorem issueSplit_runs {k e : Nat} {s : State} {q : Issue} (hs : splitReady s k e = true)
    (hq : (beginIssue k e s).cur = some q) (hr : q.status = .running) (ht : q.todo ≠ []) :
    issueSplit k e s = match exec (passInstr q) (beginIssue k e s) with
      | .next v => runPasses 19 v
      | .fault f => .fault f
      | .refused r => .refused r := by
  rw [issueSplit, if_pos hs, runPasses, hq]
  exact if_pos (by simpa [hr] using ht)

/-! ## A step -/

/-- Settles O52: each move of nextMove leads to its branch of step. -/
theorem stepRunsDecoded : Obligations.StepRunsDecoded := by
  intro s t
  refine ⟨fun i h => ?_, fun h => ?_, fun p h => ?_, fun p bs i h hc => ?_, fun p bs e h hc => ?_, fun p b h => ?_,
    fun p b h hb => ?_, fun p a h ha => ?_, fun k e h => ⟨fun hs => ?_, fun q hs hq hr ht => ?_⟩⟩
  · rw [step, h]
  · rw [step, h]
  · rw [step, h]
  · rw [step, h]
    dsimp only
    rw [hc]
  · rw [step, h]
    dsimp only
    rw [hc]
    rfl
  · rw [step, h]
  · rw [step, h]
    dsimp only
    rw [if_pos]
    simpa [Option.all_eq_true] using hb
  · rw [step, h]
    dsimp only
    rw [if_neg]
    simpa using ha
  · rw [step, h]
    dsimp only
    rw [issueSplit, if_neg (by simp [hs])]
  · refine ⟨beginIssue_lines hq hr, passInstr_word, fun j h f => passInstr_repetition, ?_⟩
    rw [step, h]
    exact issueSplit_runs hs hq hr ht

end Sys2Proof.Machine
end

section
/-!
PROOFS. The fabric, page walks, code lines and SYSC: what each event answers under the conditions of
FabricWalksAndServices (R41, R214, R248, R285, R286, R345, R366, R435 to R438).
-/

namespace Sys2Proof.Machine

open Sys2Proof Sys2Proof.Claims

/-! ## Requests at their targets -/

/-- A request that its target may perform: it has a place there, no earlier one goes to its line, its region does not move,
and the release that it carries, if any, can be recorded (R289, R366, R437). -/
structure Servable (p i key : Nat) (r : FabricReq) (s : State) : Prop where
  here : lget (s.pkg p).fabric i = some r
  alone : ∀ q ∈ (s.pkg p).fabric.take i, sameLine r q = false
  place : r.place = some key
  still : regionIs s key .migrating = false
  recorded : r.tag ≠ none → recordStalled s key (coreOf r.warp) = false

/-- Whether a request is an acquire whose line has a promotion outstanding (R366). -/
def awaitsPromotion (key : Nat) (r : FabricReq) (s : State) : Prop :=
  r.acquires = true ∧ (promoPending s key (coreOf r.warp)).isSome = true

/-- A servable request asks for its promotion where one is outstanding, or is performed with its group. -/
theorem fabricTargetRequest_eq {p i key : Nat} {r : FabricReq} {s : State} (h : Servable p i key r s) :
    exec (.fabricTargetRequest p i) s =
      if r.acquires && (promoPending s key (coreOf r.warp)).isSome then .next (askPromotion key (coreOf r.warp) s)
      else .next ((lineGroup r ((s.pkg p).fabric.drop (i + 1))).foldl
        (fun u q => match q.place with | some z => serveRequest q z u | none => u)
        (dropRequests p ((lineGroup r ((s.pkg p).fabric.drop (i + 1))).map (·.id)) s)) := by
  obtain ⟨hr, halone, hplace, hstill, hrec⟩ := h
  have hfirst : ((s.pkg p).fabric.take i).any (sameLine r) = false := by simpa [List.any_eq_false] using halone
  have hrecord : (r.tag.isSome && recordStalled s key (coreOf r.warp)) = false := by
    cases ht : r.tag with
    | none => rfl
    | some e => exact hrec (by simp [ht])
  show execFabricTargetRequest p i s = _
  unfold execFabricTargetRequest
  rw [hr]
  dsimp only
  rw [hplace]
  dsimp only
  exact if_neg (by simp [hfirst, hstill, hrecord])

theorem fabricTargetRequest_asks (p i key : Nat) (r : FabricReq) : Acts (.fabricTargetRequest p i)
    (fun s => Servable p i key r s ∧ awaitsPromotion key r s) (askPromotion key (coreOf r.warp)) := by
  rintro s ⟨h, hacq, hpend⟩
  rw [fabricTargetRequest_eq h, if_pos (by rw [hacq, hpend]; rfl)]

theorem fabricTargetRequest_serves (p i key : Nat) (r : FabricReq) : Acts (.fabricTargetRequest p i)
    (fun s => Servable p i key r s ∧ ¬awaitsPromotion key r s)
    (fun s => (lineGroup r ((s.pkg p).fabric.drop (i + 1))).foldl
      (fun u q => match q.place with | some z => serveRequest q z u | none => u)
      (dropRequests p ((lineGroup r ((s.pkg p).fabric.drop (i + 1))).map (·.id)) s)) := by
  rintro s ⟨h, hnone⟩
  rw [fabricTargetRequest_eq h, if_neg fun hand => hnone (Bool.and_eq_true_iff.1 hand)]

theorem fabricRequestTimeout_abandons (p i : Nat) (r : FabricReq) : Acts (.fabricRequestTimeout p i)
    (fun s => lget (s.pkg p).fabric i = some r) (fun s => abandonRequest r (dropRequests p [r.id] s)) := by
  intro s hr
  show execFabricRequestTimeout p i s = _
  rw [execFabricRequestTimeout, hr]

theorem linkBringUp_numbers (p n : Nat) : Acts (.linkBringUp p n) (fun _ => n < 1024)
    (onPkg p (fun _ z => { z with number := n, inDomain := true })) := fun _ hn => if_neg (Nat.not_le.2 hn)

/-! ## Page walks -/

theorem walkStart_grants (p i : Nat) (v : Walk) : Acts (.walkStart p i)
    (fun s => walkMayStart (s.pkg p) i = true ∧ lget (s.pkg p).walks i = some v)
    (onPkg p (fun _ z => { z with
      walks := lset z.walks i { v with started := true }
      walkNext := tput z.walkNext (dieOf v.core) ((v.core / 4 + 1) % 40) })) := by
  rintro s ⟨hmay, hv⟩
  refine (if_pos hmay).trans ?_
  rw [State.modPkg, hv]
  rfl

/-- A started walk, with its reads made and itself gone from the queue (R286). -/
def walkReadsOf (p : Nat) (v : Walk) (s : State) : State := walkReads s p v.root (2 ^ 16 * v.page) (walkTkey s v)
def walkDropped (p i : Nat) (v : Walk) (s : State) : State :=
  (walkReadsOf p v s).modPkg p (fun x => { x with walks := ldel x.walks i })

/-- A started walk ends by what it finds. -/
theorem walkComplete_eq {p i : Nat} {v : Walk} {s : State} (hv : lget (s.pkg p).walks i = some v) (hs : v.started = true) :
    exec (.walkComplete p i) s = match walk (walkReadsOf p v s) p v.root (2 ^ 16 * v.page) with
      | .leaf e big => .next (v.lines.foldl (fun t x => giveLine p v e big x t)
          (v.waiters.foldl (fun t m => giveLeaf v e big m t) (walkDropped p i v s)))
      | .fault c => .next (v.waiters.foldl (fun t m => failWaiter v c m t) (walkDropped p i v s))
      | .bad => .next ((walkTeams s v).foldl (fun t k => stateErrorAt k p v.die t) (walkDropped p i v s))
      | .stall => .next s := by
  show execWalkComplete p i s = _
  unfold execWalkComplete
  rw [hv]
  dsimp only
  exact if_neg (by simp [hs])

theorem walkComplete_leaf (p i : Nat) (v : Walk) (e : BitVec 64) (big : Bool) : Acts (.walkComplete p i)
    (fun s => (lget (s.pkg p).walks i = some v ∧ v.started = true) ∧
      walk (walkReadsOf p v s) p v.root (2 ^ 16 * v.page) = .leaf e big)
    (fun s => v.lines.foldl (fun t x => giveLine p v e big x t)
      (v.waiters.foldl (fun t m => giveLeaf v e big m t) (walkDropped p i v s))) := by
  rintro s ⟨⟨hv, hs⟩, hwalk⟩
  rw [walkComplete_eq hv hs, hwalk]

theorem walkComplete_fault (p i : Nat) (v : Walk) (cause : BitVec 8) : Acts (.walkComplete p i)
    (fun s => (lget (s.pkg p).walks i = some v ∧ v.started = true) ∧
      walk (walkReadsOf p v s) p v.root (2 ^ 16 * v.page) = .fault cause)
    (fun s => v.waiters.foldl (fun t m => failWaiter v cause m t) (walkDropped p i v s)) := by
  rintro s ⟨⟨hv, hs⟩, hwalk⟩
  rw [walkComplete_eq hv hs, hwalk]

theorem walkComplete_bad (p i : Nat) (v : Walk) : Acts (.walkComplete p i)
    (fun s => (lget (s.pkg p).walks i = some v ∧ v.started = true) ∧
      walk (walkReadsOf p v s) p v.root (2 ^ 16 * v.page) = .bad)
    (fun s => (walkTeams s v).foldl (fun t k => stateErrorAt k p v.die t) (walkDropped p i v s)) := by
  rintro s ⟨⟨hv, hs⟩, hwalk⟩
  rw [walkComplete_eq hv hs, hwalk]

/-! ## Code lines -/

/-- A line that arrives, and whose second copy has good parity, is in the cache, and the warp waits for it no more. -/
theorem icacheLineArrival_fills (k i a tries : Nat) (pl : Place) : Acts (.icacheLineArrival k i)
    (fun s => lget (s.warp k).frozen i = some (a, tries) ∧ pl.poa = false ∧
      warpTrans s k fetchEntry (BitVec.ofNat 80 a) .fetch = .ok pl ∧
      (tries = 1 → parityOk ((tget ((icacheFill (coreOf k) (pl.key / 64) (s.warpLaunch k).tkey s).core (coreOf k)).icache
        (pl.key / 64)).getD 0#512) = true))
    (fun s => (icacheFill (coreOf k) (pl.key / 64) (s.warpLaunch k).tkey s).modWarp k
      (fun w => { w with frozen := ldel w.frozen i })) := by
  rintro s ⟨hfrozen, hpoa, htrans, hparity⟩
  show execIcacheLineArrival k i s = _
  unfold execIcacheLineArrival
  dsimp only
  rw [hfrozen]
  dsimp only
  rw [htrans]
  dsimp only
  rw [if_neg (by simp [hpoa]), if_neg]
  rw [Bool.and_eq_true_iff, decide_eq_true_eq]
  rintro ⟨htries, hbad⟩
  rw [hparity htries] at hbad
  contradiction

/-! ## SYSC -/

/-- A warp whose stores and atomics have completed, in a running team whose L1 can be written back (R214). -/
def quietWarp (k : Nat) (s : State) : Prop :=
  (s.warp k).acks = [] ∧ (∀ b ∈ (s.warp k).pend, b.holes = 0) ∧ (s.warpTeam k).run = .running ∧
    l1Stalled s (coreOf k) (s.fused k) = false

/-- The stores of a warp released at system scope, and the warp stopped. -/
def storesOut (k : Nat) (s : State) : State := releaseL1 (coreOf k) (s.fused k) 4 s
def stoppedOut (k : Nat) (s : State) : State := (storesOut k s).modWarp k (fun w => { w with park := .stopped })

/-- Firmware serves a quiet warp by the number of the service (R214). -/
theorem syscReply_eq {k n : Nat} {o x y : Word} {s : State} (hpark : (s.warp k).park = .sysc n x y o)
    (hquiet : quietWarp k s) : exec (.syscReply k) s =
      if n = 1 then
        .next (notify (s.warpLaunch k).pkg
          (.notify (BitVec.ofNat 32 (teamIdWord k (s.warpTeam k))) (BitVec.ofNat 32 (s.warp k).warpid) o x y)
          ((storesOut k s).modWarp k (fun w => { w with park := .no })))
      else if n = 2 && (s.warpLaunch k).replayable then .next (squall (s.warp k).team (stoppedOut k s))
      else .next (endTeam (s.warp k).team (if n = 2 then 0x41#8 else 0x40#8) 0#8 x (stoppedOut k s)) := by
  obtain ⟨hacks, hpend, hrun, hl1⟩ := hquiet
  have hholes : (s.warp k).pend.any (fun b => b.holes != 0) = false := by simpa using hpend
  show execSyscReply k s = _
  unfold execSyscReply
  dsimp only
  rw [hpark]
  dsimp only
  rw [if_neg (by simp [hacks, hholes, hrun, hl1])]
  rfl

theorem syscReply_notifies (k : Nat) (o x y : Word) : Acts (.syscReply k)
    (fun s => (s.warp k).park = .sysc 1 x y o ∧ quietWarp k s)
    (fun s => notify (s.warpLaunch k).pkg
      (.notify (BitVec.ofNat 32 (teamIdWord k (s.warpTeam k))) (BitVec.ofNat 32 (s.warp k).warpid) o x y)
      ((storesOut k s).modWarp k (fun w => { w with park := .no }))) := by
  rintro s ⟨hpark, hquiet⟩
  rw [syscReply_eq hpark hquiet, if_pos rfl]

theorem syscReply_replays (k : Nat) (o x y : Word) : Acts (.syscReply k)
    (fun s => (s.warp k).park = .sysc 2 x y o ∧ quietWarp k s ∧ (s.warpLaunch k).replayable = true)
    (fun s => squall (s.warp k).team (stoppedOut k s)) := by
  rintro s ⟨hpark, hquiet, hreplay⟩
  rw [syscReply_eq hpark hquiet, if_neg (by decide), if_pos (by rw [hreplay]; rfl)]

theorem syscReply_ends (k n : Nat) (o x y : Word) : Acts (.syscReply k)
    (fun s => (s.warp k).park = .sysc n x y o ∧ n ≠ 1 ∧ quietWarp k s ∧ (n = 2 → (s.warpLaunch k).replayable = false))
    (fun s => endTeam (s.warp k).team (if n = 2 then 0x41#8 else 0x40#8) 0#8 x (stoppedOut k s)) := by
  rintro s ⟨hpark, hn, hquiet, hreplay⟩
  rw [syscReply_eq hpark hquiet, if_neg hn, if_neg]
  rw [Bool.and_eq_true_iff, decide_eq_true_eq]
  rintro ⟨htwo, hyes⟩
  rw [hreplay htwo] at hyes
  contradiction

end Sys2Proof.Machine
end

section
/-!
PROOFS. Firmware's answers to page faults, of a warp, a copy, a collective and the front end, and FabricWalksAndServices
from these and the events before (R218, R220, R283, R412, R443, R506).
-/

namespace Sys2Proof.Machine

open Sys2Proof Sys2Proof.Claims

/-! ## A warp's page fault -/

/-- What firmware finds now of a place that a warp's fault names. -/
def warpFound (k : Nat) (s : State) (x : A80 × Nat) : Except (Nat × Nat) (Option (BitVec 8)) :=
  mapsNow s (coreOf k) (s.warpLaunch k) x.1 (Access.ofCode (x.2 % 8)) (x.2 < 8)

section
variable {k : Nat} {s : State} {f : FaultRec} (hpark : (s.warp k).park = .pageFault f)
  (hrun : (s.warpTeam k).run = .running)
include hpark hrun

/-- Where no entry is in error, a parked warp of a running team goes on if every page is mapped, and else traps (R220). -/
theorem serviceWarp_found (hok : ∀ x ∈ f.named, ∃ c, warpFound k s x = .ok c) :
    serviceWarp k s =
      if ∀ x ∈ f.named, warpFound k s x = .ok none then s.modWarp k (reissueParked f) else trapParked k f s := by
  unfold serviceWarp
  dsimp only
  rw [hpark]
  dsimp only
  rw [if_neg (by simp [hrun]), List.findSome?_eq_none_iff.2]
  · refine if_congr ?_ rfl rfl
    rw [List.all_map, List.all_eq_true]
    refine forall₂_congr fun x hx => ?_
    obtain ⟨c, hc⟩ := hok x hx
    rw [Function.comp_apply, show mapsNow s _ _ _ _ _ = .ok c from hc, hc]
    cases c <;> simp
  · intro r hr
    obtain ⟨x, hx, rfl⟩ := List.mem_map.1 hr
    obtain ⟨c, hc⟩ := hok x hx
    rw [show mapsNow s _ _ _ _ _ = .ok c from hc]

/-- The first entry in error is a state error (R218). -/
theorem serviceWarp_stateError {before after : List (A80 × Nat)} {x : A80 × Nat} {pd : Nat × Nat}
    (hnamed : f.named = before ++ x :: after) (hbefore : ∀ y ∈ before, ∃ c, warpFound k s y = .ok c)
    (hx : warpFound k s x = .error pd) : serviceWarp k s = stateErrorAt (s.warp k).team pd.1 pd.2 s := by
  unfold serviceWarp
  dsimp only
  rw [hpark]
  dsimp only
  rw [if_neg (by simp [hrun]), List.findSome?_map, List.findSome?_eq_some_iff.2 ⟨before, x, after, hnamed, ?_, ?_⟩]
  · rw [Function.comp_apply, show mapsNow s _ _ _ _ _ = .error pd from hx]
  · intro y hy
    obtain ⟨c, hc⟩ := hbefore y hy
    rw [Function.comp_apply, show mapsNow s _ _ _ _ _ = .ok c from hc]

end

/-! ## A copy's page fault -/

/-- What firmware finds now of the page at which a copy command has stopped. -/
def copyFound (k : Nat) (q : CopyCmd) (va : A80) (s : State) : Except (Nat × Nat) (Option (BitVec 8)) :=
  mapsNow s k (s.launchOf q.team) va (if q.kind = .tstore then .write else .read) true

/-- A stopped copy goes on, or its team ends or meets a state error, by what is found (R412). -/
theorem serviceCopy_stopped {k i : Nat} {s : State} {q : CopyCmd} {c : BitVec 8} {va : A80}
    (hq : (s.core k).copies.find? (fun y => y.id == i) = some q) (hstop : q.stopped = some (c, va)) :
    (copyFound k q va s = .ok none → serviceCopy k i s = modCopy k i (fun y => { y with stopped := none }) s) ∧
    (∀ cause, copyFound k q va s = .ok (some cause) → serviceCopy k i s = endTeam q.team 0x20#8 cause 0#32 s) ∧
    (∀ pd, copyFound k q va s = .error pd → serviceCopy k i s = stateErrorAt q.team pd.1 pd.2 s) := by
  unfold serviceCopy
  rw [hq]
  dsimp only
  rw [hstop]
  simp only [beq_iff_eq]
  refine ⟨fun h => ?_, fun cause h => ?_, fun pd h => ?_⟩ <;> rw [show mapsNow s k _ _ _ _ = _ from h]

/-! ## A collective's page fault -/

/-- What firmware finds now of the page at which a member's part has faulted. -/
def joinFound (j : CollJoin) (va : A80) (wr : Bool) (s : State) : Except (Nat × Nat) (Option (BitVec 8)) :=
  mapsNow s (s.team j.team).core (s.launchOf j.team) va (if wr then .write else .read) true

/-- A member's part goes on, or its team ends or meets a state error, by what is found (R443). -/
theorem serviceJoin_faulted {k i : Nat} {s : State} {j : CollJoin} {c : BitVec 8} {va : A80} {wr : Bool}
    (hj : (tget s.insts k).bind (fun x => x.join i) = some j) (hfault : j.faulted = some (c, va, wr)) :
    (joinFound j va wr s = .ok none → serviceJoin k i s = s.modJoin k i (fun y => { y with faulted := none })) ∧
    (∀ cause, joinFound j va wr s = .ok (some cause) → serviceJoin k i s = endTeam j.team 0x20#8 cause 0#32 s) ∧
    (∀ pd, joinFound j va wr s = .error pd → serviceJoin k i s = stateErrorAt j.team pd.1 pd.2 s) := by
  unfold serviceJoin
  rw [hj]
  dsimp only
  rw [hfault]
  dsimp only
  refine ⟨fun h => ?_, fun cause h => ?_, fun pd h => ?_⟩ <;> rw [show mapsNow s _ _ _ _ _ = _ from h]

/-! ## The front end's page faults -/

section
variable {k i tries what : Nat} {s : State} {z : NodeRun} {c : BitVec 8} (hz : s.runAt k i = some z)
include hz

/-- A run that waits for its record reads it again. -/
theorem feService_record (hph : z.phase = .waitFault c feRecord tries) :
    feService k i s = readForStart k i tries (some feRecord) s := by
  unfold feService
  rw [hz]
  dsimp only
  rw [hph]
  exact if_pos rfl

/-- A run that waits for a word of its node acts again. -/
theorem feService_node {g : Ring} (hph : z.phase = .waitFault c what tries) (hg : s.ringOf k z.ring = some g)
    (hwhat : what = feCond ∨ what = feWait ∨ what = feSignal) :
    feService k i s = nodeStep k i g z.node (some what) (setRun k i { z with phase := .ready } s) := by
  have hother : what ≠ feRecord ∧ what ≠ feCount ∧ ¬(what = feOverflow ∨ what = feCompletion) := by
    rcases hwhat with rfl | rfl | rfl <;> decide
  obtain ⟨hrecord, hcount, hdone⟩ := hother
  unfold feService
  rw [hz]
  dsimp only
  rw [hph]
  dsimp only
  rw [if_neg hrecord, if_neg hcount, if_neg (by simpa using hdone), hg]

/-- A record whose page faults again is unreadable (R506). -/
theorem readForStart_faultAgain {t : State} (hread : readRecord k z.ring z.slot s = (.fault c, t))
    (hzt : t.runAt k i = some z) :
    readForStart k i tries (some feRecord) s = notify k (.nodeUnreadable z.ring z.slot) (dropRun k i t) := by
  unfold readForStart
  rw [hz]
  dsimp only
  rw [hread]
  dsimp only
  unfold feFailAt
  rw [hzt]
  dsimp only
  rw [if_neg (by simp), if_pos (by decide)]

end

/-- A WAIT whose word's page faults again fails with the cause (R506). -/
theorem feFail_waitAgain {k i : Nat} {s : State} {z : NodeRun} {c : BitVec 8} (hz : s.runAt k i = some z) :
    feFail k i c feWait (some feWait) s =
      setRun k i { (z.finish 0x13#8 c 0#32 0) with release := [], listed := true } s := by
  unfold feFail feFailAt failRun modRun
  rw [hz]
  dsimp only
  rw [if_neg (by simp), if_neg (by decide), if_neg (by decide), if_neg (by decide)]

theorem nodeStep_cond {k i : Nat} {g : Ring} {d : NodeRec} {again : Option Nat} {s t : State} {bs : List (Byte × Bool)}
    (hkind : d.kind = 3) (hread : feAcquire k g d.cond 4 s = (.bytes bs, t)) :
    nodeStep k i g d again s =
      succeed k i ((lget d.succ (if leValue (bs.map (·.1)) = 0 then 1 else 0)).toList ++ d.succ.drop 2) t := by
  unfold nodeStep
  rw [hkind]
  show condStep k i g d again s = _
  rw [condStep, hread]
  rfl

theorem nodeStep_wait {k i : Nat} {g : Ring} {d : NodeRec} {again : Option Nat} {s t : State} {bs : List (Byte × Bool)}
    (hkind : d.kind = 6) (hread : feAcquire k g d.cond 8 s = (.bytes bs, t)) :
    nodeStep k i g d again s =
      if d.value ≤ leValue (bs.map (·.1)) then succeed k i d.succ t
      else modRun k i (fun r => { r with phase := .waitWord }) t := by
  unfold nodeStep
  rw [hkind]
  show waitStep k i g d again s = _
  rw [waitStep, hread]
  rfl

theorem nodeStep_waitFault {k i : Nat} {g : Ring} {d : NodeRec} {again : Option Nat} {s t : State} {c : BitVec 8} {va : A80}
    (hkind : d.kind = 6) (hread : feAcquire k g d.cond 8 s = (.fault c va, t)) :
    nodeStep k i g d again s = feFail k i c feWait again t := by
  unfold nodeStep
  rw [hkind]
  show waitStep k i g d again s = _
  rw [waitStep, hread]

theorem nodeStep_signal {k i : Nat} {g : Ring} {d : NodeRec} {again : Option Nat} {s t : State} {bs : List (Byte × Bool)}
    (hkind : d.kind = 5)
    (hwrite : feWrite k g d.cond ((leBytes 8 d.value).map (fun b => (b, false))) s = (.bytes bs, t)) :
    nodeStep k i g d again s = succeed k i d.succ t := by
  unfold nodeStep
  rw [hkind]
  show signalStep k i g d again s = _
  rw [signalStep, hwrite]

/-- Settles O43: each clause is one of the lemmas before, on the event's own function. -/
theorem fabricWalksAndServices : Obligations.FabricWalksAndServices := by
  intro p k i n slice line key r pl v e big cause a tries o x y f q j z g va pd wr d bs u
  have served {s : State} (h : lget (s.pkg p).fabric i = some r ∧
      (∀ q ∈ (s.pkg p).fabric.take i, sameLine r q = false) ∧ r.place = some key ∧ regionIs s key .migrating = false ∧
      (r.tag ≠ none → recordStalled s key (coreOf r.warp) = false)) : Servable p i key r s :=
    let ⟨h1, h2, h3, h4, h5⟩ := h
    ⟨h1, h2, h3, h4, h5⟩
  refine ⟨fun s h => fabricTargetRequest_asks p i key r s ⟨served h.1, h.2⟩,
    fun s h => fabricTargetRequest_serves p i key r s ⟨served h.1, h.2⟩, fabricRequestTimeout_abandons p i r,
    linkBringUp_numbers p n, walkStart_grants p i v, walkComplete_leaf p i v e big, walkComplete_fault p i v cause,
    walkComplete_bad p i v, icacheLineArrival_fills k i a tries pl, fun _ _ => rfl, ?_, ?_, ?_, ?_, ?_, ?_, ?_, ?_, ?_,
    ?_, ?_, ?_, ?_, ?_, ?_, syscReply_notifies k o x y, syscReply_replays k o x y, syscReply_ends k n o x y⟩
  · rintro s ⟨⟨hpark, hrun⟩, h⟩
    exact congrArg _ ((serviceWarp_found hpark hrun fun x hx => ⟨none, h x hx⟩).trans (if_pos h))
  · rintro s ⟨⟨hpark, hrun⟩, ⟨x, hx, hne⟩, hok⟩
    exact congrArg _ ((serviceWarp_found hpark hrun hok).trans (if_neg fun h => hne (h x hx)))
  · rintro s ⟨⟨hpark, hrun⟩, h⟩
    obtain ⟨before, x, after, hnamed, hx, hbefore⟩ := List.findSome?_eq_some_iff.1 h
    refine congrArg _ (serviceWarp_stateError hpark hrun hnamed (fun y hy => ?_) ?_)
    · have hy := hbefore y hy
      split at hy
      case h_1 => contradiction
      case h_2 c hc => exact ⟨c, hc⟩
    · split at hx
      case h_1 e he => exact he.trans (congrArg _ (Option.some.inj hx))
      case h_2 => contradiction
  · rintro s ⟨⟨hq, c, hstop⟩, h⟩
    exact congrArg _ ((serviceCopy_stopped hq hstop).1 h)
  · rintro s ⟨⟨hq, c, hstop⟩, h⟩
    exact congrArg _ ((serviceCopy_stopped hq hstop).2.1 cause h)
  · rintro s ⟨⟨hq, c, hstop⟩, h⟩
    exact congrArg _ ((serviceCopy_stopped hq hstop).2.2 pd h)
  · rintro s ⟨⟨hj, c, hfault⟩, h⟩
    exact congrArg _ ((serviceJoin_faulted hj hfault).1 h)
  · rintro s ⟨⟨hj, c, hfault⟩, h⟩
    exact congrArg _ ((serviceJoin_faulted hj hfault).2.1 cause h)
  · rintro s ⟨⟨hj, c, hfault⟩, h⟩
    exact congrArg _ ((serviceJoin_faulted hj hfault).2.2 pd h)
  · rintro s ⟨⟨hz, ⟨c, hph⟩, -⟩, hread, hzu, hok⟩
    exact congrArg _ ((feService_record hz hph).trans (readForStart_copy hz hread hzu hok))
  · rintro s ⟨⟨hz, ⟨c, hph⟩, -⟩, hread, hzu⟩
    exact congrArg _ ((feService_record hz hph).trans (readForStart_faultAgain hz hread hzu))
  · rintro s ⟨⟨hz, ⟨c, hph⟩, hg⟩, hkind, hread⟩
    exact congrArg _ ((feService_node hz hph hg (.inl rfl)).trans (nodeStep_cond hkind hread))
  · rintro s ⟨⟨hz, ⟨c, hph⟩, hg⟩, hkind, hread⟩
    exact congrArg _ ((feService_node hz hph hg (.inr (.inl rfl))).trans (nodeStep_wait hkind hread))
  · rintro s ⟨⟨hz, ⟨c, hph⟩, hg⟩, hkind, hwrite⟩
    exact congrArg _ ((feService_node hz hph hg (.inr (.inr rfl))).trans (nodeStep_signal hkind hwrite))
  · rintro s ⟨⟨hz, ⟨c, hph⟩, hg⟩, hkind, hzu, hread⟩
    exact congrArg _ ((feService_node hz hph hg (.inr (.inl rfl))).trans
      ((nodeStep_waitFault hkind hread).trans (feFail_waitAgain hzu)))

end Sys2Proof.Machine
end

section
/-!
PROOFS. The end of a pass: it changes no warp but the pass's own and the issue's, and PassEndKeepsData from this and from
the data that it keeps (R97, R99, R238).
-/

namespace Sys2Proof.Machine

open Sys2Proof Sys2Proof.Claims

/-! ## What a state's data determines -/

theorem SameData.sameMemories {s t : State} (h : SameData s t) : sameMemories s t :=
  ⟨h.mem, h.memPoison, h.memUpset, h.posted, fun g => ⟨h.shared g, (congrArg Core.sharedPoison (h.core g) :),
    (congrArg Core.accum (h.core g) :), (congrArg Core.accumPoison (h.core g) :), (congrArg Core.tiles (h.core g) :),
    (congrArg Core.barriers (h.core g) :)⟩⟩

/-! ## The other warps -/

theorem warp_setWarp_ne {k j : Nat} (h : j ≠ k) (s : State) (x : Warp) : (s.setWarp k x).warp j = s.warp j := by
  rw [warp_setWarp, if_neg h]

theorem warp_modWarp_ne {k j : Nat} (h : j ≠ k) (s : State) (f : Warp → Warp) : (s.modWarp k f).warp j = s.warp j :=
  warp_setWarp_ne h s _

theorem countWarp_warp_ne {k j : Nat} (h : j ≠ k) (code n : Nat) (s : State) :
    (countWarp code n k s).warp j = s.warp j := by
  unfold countWarp
  split
  · rfl
  · rw [countCore_warp, warp_modWarp_ne h]

theorem settle_warp_ne {k j : Nat} (h : j ≠ k) (s : State) : (settle k s).warp j = s.warp j :=
  (countWarp_warp_ne h _ _ _).trans (warp_setWarp_ne h s _)

theorem countIssue_warp_ne {c : Ctx} {j : Nat} (h : j ≠ c.k) (n : Nat) (s : State) :
    (countIssue c n s).warp j = s.warp j := by
  unfold countIssue
  dsimp only
  split
  · rw [warp_modWarp_ne h, countWarp_warp_ne h]
  · exact countWarp_warp_ne h _ _ _

theorem retireIfDone_warp_ne {k j : Nat} (h : j ≠ k) (s : State) : (retireIfDone k s).warp j = s.warp j := by
  unfold retireIfDone
  dsimp only
  split
  · exact warp_modWarp_ne h s _
  · rfl

theorem finishIssue_warp_ne {q : Issue} {j : Nat} (h : j ≠ q.warp) (s : State) : (finishIssue q s).warp j = s.warp j := by
  have hset (w : Warp) : ((s.modCur (fun q => { q with status := .finished })).setWarp q.warp w).warp j = s.warp j :=
    warp_setWarp_ne h _ w
  unfold finishIssue
  dsimp only
  split
  · exact hset _
  · split
    · split
      · exact hset _
      · exact (settle_warp_ne h _).trans (hset _)
    · rw [retireIfDone_warp_ne h, settle_warp_ne h, countWarp_warp_ne h]
      exact hset _

/-! ## The warp of the issue -/

/-- The warp that is issuing; d when none is. -/
def issuingWarp (s : State) (d : Nat) : Nat := (s.cur.map (fun q => q.warp)).getD d

@[simp] theorem countIssue_cur (c : Ctx) (n : Nat) (s : State) : (countIssue c n s).cur = s.cur := by
  unfold countIssue
  dsimp only
  split
  · exact countWarp_cur _ _ _ _
  · exact countWarp_cur _ _ _ _

/-- Taking turns in a pair stays in the warp (R39). -/
@[simp] theorem turn_warp (q : Issue) : q.turn.warp = q.warp := by
  unfold Issue.turn
  repeat' split
  all_goals rfl

/-- A change of the issue that keeps its warp. -/
theorem issuingWarp_modCur {f : Issue → Issue} (h : ∀ q, (f q).warp = q.warp) (s : State) (d : Nat) :
    issuingWarp (s.modCur f) d = issuingWarp s d := by
  simp only [issuingWarp, modCur_cur, Option.map_map, Function.comp_def, h]

theorem completePass_warp_ne {c : Ctx} {j : Nat} {s : State} (h : j ≠ c.k) (hq : j ≠ issuingWarp s c.k) (i : Instr)
    (all : Bool) : (completePass c i all s).warp j = s.warp j := by
  unfold completePass
  extract_lets rest fresh ages s1 low s2 s3
  have h1 : s1.warp j = s.warp j := warp_modWarp_ne h s _
  have h2 : s2.warp j = s1.warp j ∧ s2.cur = s1.cur := by
    dsimp only [s2]
    split
    · exact ⟨rfl, rfl⟩
    · exact ⟨countIssue_warp_ne h 1 s1, countIssue_cur c 1 s1⟩
  have h3 : s3.warp j = s.warp j := h2.1.trans h1
  have hissue : issuingWarp s3 c.k = issuingWarp s c.k :=
    (issuingWarp_modCur (fun q => by simp) s2 c.k).trans (by simp only [issuingWarp, h2.2, s1, modWarp_cur])
  split
  case h_1 q hcur =>
    have hwarp : j ≠ q.warp := by
      rwa [← hissue, issuingWarp, hcur] at hq
    split
    · exact (finishIssue_warp_ne hwarp s3).trans h3
    · exact h3
  case h_2 => exact h3

/-- R238: the end of a pass leaves every warp but the pass's own and the issue's as it is. -/
theorem passEnd_warp_ne {c : Ctx} {j : Nat} {s : State} (h : j ≠ c.k) (hq : j ≠ issuingWarp s c.k) (i : Instr)
    (all : Bool) : (passEnd c i all s).warp j = s.warp j := by
  refine (completePass_warp_ne h ?_ i all).trans (countWarp_warp_ne h _ _ s)
  simpa only [issuingWarp, countReads, countWarp_cur] using hq

/-- Settles O55: the end of a pass keeps the data of the state, and every other warp whole. -/
theorem passEndKeepsData : Obligations.PassEndKeepsData := by
  intro c i all t
  have h := passEnd_sameData c i all t
  exact ⟨h.sameMemories, h.teams, h.launches, h.insts, h.pkgs, fun k =>
    ⟨sameRegisters_of_data (h.warp k), h.ofWarp k (·.fxa) fun _ => rfl, h.ofWarp k (·.trapMode) fun _ => rfl,
      h.ofWarp k (·.trapCause) fun _ => rfl, fun hk hq => passEnd_warp_ne hk hq i all⟩⟩

end Sys2Proof.Machine
end

section
/-!
PROOFS. Outstanding work: what each event that ends some answers under the conditions of OutstandingWorkEnds, and the
statement from these (R104, R194, R195, R271, R365, R392, R394, R398).
-/

namespace Sys2Proof.Machine

open Sys2Proof Sys2Proof.Claims

/-! ## Producers and writes -/

theorem longLatencyWriteback_lands (k i : Nat) (b : Writeback) : Acts (.longLatencyWriteback k i)
    (fun s => lget (s.warp k).pend i = some b ∧ b.holes = 0 ∧ b.byPipe = false ∧
      ∀ y ∈ (s.warp k).reissues, y.2.produces b.id = false)
    (fun s => regroupAll (s.warp k).team (s.modWarp k (fun w => w.land b))) := by
  rintro s ⟨hb, hholes, hpipe, hlast⟩
  show execLongLatencyWriteback k i s = _
  rw [execLongLatencyWriteback, hb]
  dsimp only
  rw [List.any_eq_false.2 fun y hy => by simp [hlast y hy], hholes, hpipe]
  rfl

theorem writeAcknowledgement_acknowledges (k i : Nat) (a : Ack) : Acts (.writeAcknowledgement k i)
    (fun s => lget (s.warp k).acks i = some a ∧ ∀ y ∈ (s.pkg (pkgOf (coreOf k))).fabric, y.id ≠ a.id)
    (fun s => s.modWarp k (fun w => { w with acks := ldel w.acks i })) := by
  rintro s ⟨ha, hdone⟩
  show execWriteAcknowledgement k i s = _
  rw [execWriteAcknowledgement, ha]
  dsimp only
  rw [List.any_eq_false.2 fun y hy => by simp [hdone y hy]]
  rfl

/-! ## The transform pipe -/

theorem transformServiceStart_serves (k : Nat) (r : XRequest) (rs : List XRequest) : Acts (.transformServiceStart k)
    (fun s => (s.core k).pipe = r :: rs ∧ r.started = false)
    (onCore k (fun c => { c with pipe := { r with started := true } :: rs })) := by
  rintro s ⟨hpipe, hwaits⟩
  show execTransformServiceStart k s = _
  rw [execTransformServiceStart, hpipe]
  dsimp only
  rw [hwaits]
  rfl

/-- The producer of a request with its reply's words, in the split that awaits them (R194, R236). -/
def replied (y : Reply) (b : Writeback) : Writeback :=
  { b with
    vwrites := y.vwrites, flags := y.flags
    swrites := (y.sregs.filter (fun z => isS z.1)).map (fun z =>
      { entry := (b.swrites.head?.map (fun x => x.entry)).getD 0, reg := z.1 - 768, val := z.2.1, poison := z.2.2 }) }

theorem transformReply_lands (k : Nat) (b : Writeback) (r : XRequest) (rs : List XRequest) (t : State) :
    Acts (.transformReply k)
    (fun s => (s.core k).pipe = r :: rs ∧ r.started = true ∧
      t = onCore k (fun c => { c with pipe := rs }) (resolveStream r s) ∧
      (t.warp r.warp).pend.find? (fun y => y.id == r.wb) = some b)
    (fun _ => regroupAll (t.warp r.warp).team (t.setWarp r.warp ((t.warp r.warp).land (replied (replyOf t r) b)))) := by
  rintro s ⟨hpipe, hserved, ht, hb⟩
  show execTransformReply k s = _
  rw [execTransformReply, hpipe]
  dsimp only
  rw [if_neg (by simp [hserved]), show (resolveStream r s).modCore k (fun c => { c with pipe := rs }) = t from ht.symm, hb]
  dsimp only [replied]
  cases b.swrites <;> rfl

/-! ## The matrix engine -/

theorem matrixCommandStart_starts (k : Nat) (q : MatrixCmd) (qs : List MatrixCmd) : Acts (.matrixCommandStart k)
    (fun s => (s.core k).matrix = q :: qs ∧ q.started = false)
    (fun s => onCore k (fun c => { c with matrix := (startCommand k q s).1 :: qs }) (startCommand k q s).2) := by
  rintro s ⟨hmatrix, hwaits⟩
  show execMatrixCommandStart k s = _
  rw [execMatrixCommandStart, hmatrix]
  dsimp only
  rw [hwaits]
  rfl

theorem matrixCommandComplete_writes (k : Nat) (q : MatrixCmd) (qs : List MatrixCmd) : Acts (.matrixCommandComplete k)
    (fun s => (s.core k).matrix = q :: qs ∧ q.started = true)
    (fun s => onCore k (fun c => { c with matrix := qs })
      (q.members.foldl (fun t m =>
          if (t.warp m.warp).team = q.team then t.modWarp m.warp (fun w => w.batchLeave m.batch q.flags q.sat) else t)
        (q.writes.foldl (fun t w => accWrite q.team w.1 w.2.1 w.2.2 t) s))) := by
  rintro s ⟨hmatrix, hstarted⟩
  show execMatrixCommandComplete k s = _
  rw [execMatrixCommandComplete, hmatrix]
  dsimp only
  rw [hstarted]
  rfl

/-! ## Readers and descriptors -/

theorem readerFinish_leaves (k i : Nat) (d : Reader) : Acts (.readerFinish k i)
    (fun s => lget (s.core k).readers i = some d ∧ d.finished = true)
    (onCore k (fun c => { c with
      readers := ldel c.readers i
      tiles := match tget c.tiles d.tile with
        | some y => tput c.tiles d.tile ({ y with readers := y.readers - 1 } : Tile).due
        | none => c.tiles })) := by
  rintro s ⟨hd, hfinished⟩
  show execReaderFinish k i s = _
  rw [execReaderFinish, hd]
  dsimp only
  rw [hfinished]
  rfl

theorem descriptorReadReturn_returns (k : Nat) (x : DescRead) (bs : List (Byte × Bool)) (t : State) :
    Acts (.descriptorReadReturn k)
    (fun s => (s.warp k).desc.find? (fun y => !y.returned && y.len != 0) = some x ∧
      readDescriptor k x s = (.bytes bs, t))
    (fun _ => t.modWarp k (fun w => { w with desc := w.desc.map (fun y =>
      if y == x then { y with returned := true, bytes := bs.map (·.1), poisoned := bs.any (·.2) } else y) })) := by
  rintro s ⟨hx, hread⟩
  show execDescriptorReadReturn k s = _
  rw [execDescriptorReadReturn, hx]
  dsimp only
  rw [hread]

/-- Settles O39: every event answers what its lemma above says. -/
theorem outstandingWorkEnds : Obligations.OutstandingWorkEnds := fun k i b a r rs q qs d x bs t =>
  ⟨longLatencyWriteback_lands k i b, writeAcknowledgement_acknowledges k i a, transformServiceStart_serves k r rs,
    transformReply_lands k b r rs t, matrixCommandStart_starts k q qs, matrixCommandComplete_writes k q qs,
    readerFinish_leaves k i d, descriptorReadReturn_returns k x bs t⟩

end Sys2Proof.Machine
end

section
/-!
PROOFS. Time, scrubs, sweeps and the die link's modules: what each event answers under the conditions of
TimeScrubsAndModules, and the statement from these (R88, R94, R246, R259, R294, R370, R430 to R432, R488).
-/

namespace Sys2Proof.Machine

open Sys2Proof Sys2Proof.Claims

/-! ## Staging, ages and yields -/

theorem stagingComplete_ends (k : Nat) : Acts (.stagingComplete k)
    (fun s => (tget s.warps k).isSome = true ∧ (s.warp k).unstaged (s.warp k).ws = [])
    (fun s => s.modWarp k (fun w => { w with staged := true })) := by
  rintro s ⟨hwarp, hnone⟩
  show execStagingComplete k s = _
  rw [execStagingComplete, if_neg (by simpa [Option.isSome_iff_ne_none] using hwarp), if_pos (by rw [hnone]; rfl)]

theorem stagingComplete_begins (k : Nat) : Acts (.stagingComplete k)
    (fun s => (tget s.warps k).isSome = true ∧ (s.warp k).unstaged (s.warp k).ws ≠ []) (stageSet k) := by
  rintro s ⟨hwarp, hsome⟩
  show execStagingComplete k s = _
  rw [execStagingComplete, if_neg (by simpa [Option.isSome_iff_ne_none] using hwarp), if_neg (by simpa using hsome)]

theorem modReady_split {e : Nat} (he : e < 8) (w : Warp) (f : Split → Split) (g : TrapSplit → TrapSplit) :
    w.modReady e f g = w.modSplit e f := if_neg (Nat.ne_of_lt he)

theorem readyAgeExpiry_split (k e : Nat) : Acts (.readyAgeExpiry k e)
    (fun s => e < 8 ∧ (s.warp k).trapMode = false ∧ splitReady s k e = true)
    (fun s => s.modWarp k (fun w => w.modSplit e (fun x => { x with aged := true }))) := by
  rintro s ⟨he, hmode, hready⟩
  have hne : e ≠ 8 := Nat.ne_of_lt he
  show execReadyAgeExpiry k e s = _
  unfold execReadyAgeExpiry
  dsimp only
  rw [if_pos (by simp [hmode, hne, hready])]
  simp only [modReady_split he]

theorem readyAgeExpiry_trapSplit (k : Nat) : Acts (.readyAgeExpiry k 8)
    (fun s => (s.warp k).trapMode = true ∧ splitReady s k (s.warp k).trapEntry = true)
    (fun s => s.modWarp k (fun w => { w with trapSplit := w.trapSplit.map (fun x => { x with aged := true }) })) := by
  rintro s ⟨hmode, hready⟩
  exact if_pos (by simp [hmode, hready])

theorem yieldTimeout_split (k e : Nat) : Acts (.yieldTimeout k e)
    (fun s => e < 8 ∧ (tget s.warps k).isSome = true)
    (fun s => s.modWarp k (fun w => w.modSplit e (fun x => { x with yielded := false }))) := by
  rintro s ⟨he, hwarp⟩
  show execYieldTimeout k e s = _
  rw [execYieldTimeout, if_pos hwarp]
  simp only [modReady_split he]

theorem yieldTimeout_trapSplit (k : Nat) : Acts (.yieldTimeout k 8) (fun s => (tget s.warps k).isSome = true)
    (fun s => s.modWarp k (fun w => { w with trapSplit := w.trapSplit.map (fun x => { x with yielded := false }) })) :=
  fun _ hwarp => if_pos hwarp

/-! ## Scrubs and sweeps -/

theorem registerScrub_visits (k i : Nat) : Acts (.registerScrub k i) (fun _ => i < 4)
    (fun s => (List.range 12).foldl (fun u j =>
      match tget u.warps (48 * k + (12 * i + j)) with
      | none => u
      | some w => resolveMainFile (48 * k + (12 * i + j)) (w.vregs.map (·.1)) u) s) := by
  intro s hi
  show execRegisterScrub k i s = _
  exact (if_neg (Nat.not_le.2 hi)).trans (congrArg Host.Outcome.next List.foldl_map)

theorem residencySweep_sweeps (p d : Nat) : Acts (.residencySweep p d)
    (fun s => d < 2 ∧ (tget (s.pkg p).sweepDue d).getD false = true)
    (fun s => (((s.pkg p).segLines.filter (fun x => x.1 / (16 * 16384) / 288 == d)).map (·.1)).foldl
      (fun u w => sweepLine p d w u) (onPkg p (fun _ x => { x with sweepDue := tdel x.sweepDue d }) s)) := by
  rintro s ⟨hd, hdue⟩
  exact (if_neg (Nat.not_le.2 hd)).trans (if_pos hdue)

/-! ## Clocks -/

theorem clockCycle_counts (c : Clock) : Acts (.clockCycle c)
    (fun _ => match c with | .core _ => True | .mesh _ d => d < 2 | .link _ d => d < 2 | .complex _ d => d < 2)
    (fun s => match c with
      | .core g => onCore g (fun x => { x with cycle := x.cycle + 1#64 })
        (((List.range 48).filter (fun j => !(s.warp (48 * g + j)).frozen.isEmpty)).foldl
          (fun u j => countWarp 0x02 1 (48 * g + j) u) s)
      | .mesh p d => onPkg p (fun _ x => { x with meshCycles := bump x.meshCycles d 1 }) s
      | .link p d => onPkg p (fun _ x => { x with linkCycles := bump x.linkCycles d 1 }) s
      | .complex p d => onPkg p (fun _ x => { x with
          firmware := tput x.firmware d { x.fw d with cycles := (x.fw d).cycles + 1#64 } }) s) := by
  intro s hc
  cases c with
  | core g => rfl
  | mesh p d => exact if_neg (Nat.not_le.2 hc)
  | link p d => exact if_neg (Nat.not_le.2 hc)
  | complex p d => exact if_neg (Nat.not_le.2 hc)

/-! ## The die link's modules -/

theorem turnaroundStart_begins (p n : Nat) (ns : List Nat) : Acts (.turnaroundStart p)
    (fun s => (s.pkg p).turnActive = none ∧ (s.pkg p).turnQueue = n :: ns)
    (fun s => endTurn p (s.setPkg p ((s.pkg p).beginTurn n false))) := by
  rintro s ⟨hidle, hqueue⟩
  show execTurnaroundStart p s = _
  unfold execTurnaroundStart
  dsimp only
  rw [hidle, hqueue]

theorem moduleDrained_drains (p i : Nat) : Acts (.moduleDrained p i)
    (fun s => ((s.pkg p).module i).taken = true ∧ ((s.pkg p).module i).drained = false)
    (fun s => onPkg p (fun s x => { x with
      modules := tput x.modules i { (s.pkg p).module i with drained := true } }) s) := by
  rintro s ⟨htaken, hdrained⟩
  exact if_pos (by rw [htaken, hdrained]; rfl)

theorem moduleDeadTimeExpiry_turns (p i : Nat) : Acts (.moduleDeadTimeExpiry p i)
    (fun s => ((s.pkg p).module i).taken = true ∧ ((s.pkg p).module i).drained = true)
    (fun s => endTurn p (onPkg p (fun _ x => { x with
      modules := tput x.modules i
        { toward1 := !((s.pkg p).module i).toward1, taken := false, drained := false } }) s)) := by
  rintro s ⟨htaken, hdrained⟩
  exact if_pos (by rw [htaken, hdrained]; rfl)

theorem starvationGuard_raises (p d : Nat) : Acts (.starvationGuard p d)
    (fun s => ((s.pkg p).carrying (d = 1)).length < 8 ∧ decide (d = 1) ∉ (s.pkg p).guards)
    (fun s => countDie 0x42 1 p 0 (s.setPkg p
      (if (s.pkg p).turnActive.isSome then { s.pkg p with guards := (s.pkg p).guards ++ [decide (d = 1)] }
       else (s.pkg p).beginTurn (if d = 1 then 8 else 24) true))) := by
  rintro s ⟨hfew, hnew⟩
  have hb : (d == 1) = decide (d = 1) := rfl
  show execStarvationGuard p d s = _
  unfold execStarvationGuard
  dsimp only
  rw [hb, if_neg (by simpa [Nat.not_le.2 hfew] using hnew)]
  simp only [decide_eq_true_eq]

/-- Settles O44: every event answers what its lemma above says. -/
theorem timeScrubsAndModules : Obligations.TimeScrubsAndModules := fun k e p d i n ns c =>
  ⟨stagingComplete_ends k, stagingComplete_begins k, readyAgeExpiry_split k e, readyAgeExpiry_trapSplit k,
    yieldTimeout_split k e, yieldTimeout_trapSplit k, registerScrub_visits k i, fun _ _ => rfl, residencySweep_sweeps p d,
    clockCycle_counts c, turnaroundStart_begins p n ns, moduleDrained_drains p i, moduleDeadTimeExpiry_turns p i,
    starvationGuard_raises p d⟩

end Sys2Proof.Machine
end

section
/-!
PROOFS. Control instructions: what EXIT, JOIN, YIELD, PLANE, IPREF and WSET do under each of the statement's conditions,
and ControlInstructionsComplete from these (R91, R93, R257 to R261, R505).
-/

namespace Sys2Proof.Machine

open Sys2Proof Sys2Proof.Claims

/-- A live lane takes part, outside trap mode. -/
def actsOrdinary (c : Ctx) (s : State) : Prop := c.live ≠ 0#96 ∧ (s.warp c.k).trapMode = false

/-! ## EXIT -/

theorem exit_leaves (h : Hdr) (f : FX) : TakesIf (.exit h f) .vec actsOrdinary
    (fun c s => gangBreak c.k (s.modWarp c.k (fun w => w.leave c.live))) := by
  refine takesIf_of (fun s => (rfl : execExit h f s = _)) ?_
  rintro c s ⟨hlive, hmode⟩
  simp [hmode, noLanes, hlive]

theorem exit_idles (h : Hdr) (f : FX) : TakesIf (.exit h f) .vec
    (fun c s => c.live = 0#96 ∧ (s.warp c.k).trapMode = false) (fun _ s => s) := by
  refine takesIf_of (fun s => (rfl : execExit h f s = _)) ?_
  rintro c s ⟨hlive, hmode⟩
  simp [hmode, noLanes, hlive]

/-! ## JOIN -/

/-- A point named by a slot is the one that pointOf reads (R56). -/
theorem pointOf_named {s : State} {c : Ctx} {rline : BitVec 27} {rslot : BitVec 3} {p : Word} (hslot : rslot ≠ 7#3)
    (hp : pointNamed s c rline rslot (some p)) : pointOf s c rline rslot = some (some p) := by
  rw [pointNamed, if_neg hslot] at hp
  rw [pointOf, if_neg (by simpa using hslot), hp.2]

/-- The conditions of JOIN: a live lane, outside trap mode, and a point named. -/
def joinsAt (f : FC) (p : Word) (c : Ctx) (s : State) : Prop :=
  actsOrdinary c s ∧ f.rslot ≠ 7#3 ∧ pointNamed s c f.rline f.rslot (some p)

theorem join_pushes (h : Hdr) (f : FC) (p : Word) (w1 : Warp) : TakesIf (.join h f) .once
    (fun c s => joinsAt f p c s ∧ (s.warp c.k).pushToken c.e p = some w1) (fun c s => s.setWarp c.k w1) := by
  refine takesIf_of (fun s => (rfl : execJoin h f s = _)) ?_
  rintro c s ⟨⟨⟨hlive, hmode⟩, hslot, hp⟩, hpush⟩
  simp [pointOf_named hslot hp, hmode, noLanes, hlive, hpush]

theorem join_counts (h : Hdr) (f : FC) (p : Word) : TakesIf (.join h f) .once
    (fun c s => joinsAt f p c s ∧ (s.warp c.k).pushToken c.e p = none) (fun c s => countWarp 0x06 1 c.k s) := by
  refine takesIf_of (fun s => (rfl : execJoin h f s = _)) ?_
  rintro c s ⟨⟨⟨hlive, hmode⟩, hslot, hp⟩, hpush⟩
  simp [pointOf_named hslot hp, hmode, noLanes, hlive, hpush]

/-! ## YIELD -/

theorem yield_split (h : Hdr) (f : FX) : TakesIf (.yield h f) .vec actsOrdinary
    (onWarp (fun c w => w.modSplit c.e (fun x => { x with yielded := true, aged := false }))) := by
  refine takesIf_of (fun s => (rfl : execYield h f s = _)) ?_
  rintro c s ⟨hlive, hmode⟩
  simp [onWarp, State.modWarp, noLanes, hlive, hmode]

theorem yield_trapSplit (h : Hdr) (f : FX) : TakesIf (.yield h f) .vec
    (fun c s => c.live ≠ 0#96 ∧ (s.warp c.k).trapMode = true)
    (onWarp (fun _ w => { w with trapSplit := w.trapSplit.map (fun t => { t with yielded := true, aged := false }) })) := by
  refine takesIf_of (fun s => (rfl : execYield h f s = _)) ?_
  rintro c s ⟨hlive, hmode⟩
  simp [onWarp, State.modWarp, noLanes, hlive, hmode]

theorem yield_idles (h : Hdr) (f : FX) : TakesIf (.yield h f) .vec (fun c _ => c.live = 0#96) (fun _ s => s) := by
  refine takesIf_of (fun s => (rfl : execYield h f s = _)) ?_
  rintro c s hlive
  simp [noLanes, hlive]

/-! ## PLANE -/

/-- Of lines that are all at hand, what is drawn from faults or from misses is nothing. -/
theorem filterMap_lines_held {α : Type} {k : Nat} {ts : List (Nat × Word × Lanes)} {s : State}
    (h : ∀ t ∈ ts, ∃ b, getLine s k t.1 t.2.1 = .line b) (g : LineResult × Lanes → Option α)
    (hg : ∀ b m, g (.line b, m) = none) : (ts.map (fun t => (getLine s k t.1 t.2.1, t.2.2))).filterMap g = [] := by
  rw [List.filterMap_map, List.filterMap_eq_nil_iff]
  intro t ht
  obtain ⟨b, hb⟩ := h t ht
  rw [Function.comp_apply, hb, hg]

/-- Lines that are all at hand are fetched at once, with no fault and no wait (R505). -/
theorem fetchLines_held {k : Nat} {ts : List (Nat × Word × Lanes)} {s : State}
    (h : ∀ t ∈ ts, ∃ b, getLine s k t.1 t.2.1 = .line b) : fetchLines k ts s = none := by
  unfold fetchLines
  dsimp only
  rw [filterMap_lines_held h _ fun _ _ => rfl, filterMap_lines_held h _ fun _ _ => rfl]
  rfl

/-- Lanes land only on a line that is at hand (R250). -/
theorem getLine_of_lands {s : State} {k n : Nat} {o : Word} {pad : Option (BitVec 7)} (h : landing s k n o pad = .lands) :
    ∃ b, getLine s k n o = .line b := by
  unfold landing at h
  split at h
  · contradiction
  · contradiction
  · next b hb => exact ⟨b, hb⟩

/-- The planes to which PLANE sends lanes of its pass, and those of them that are not the pass's own. -/
def planesTaken (f : FX) (c : Ctx) : List Nat := (List.range 4).filter (fun p => sentTo f c c.live p != 0#96)
def planesOther (f : FX) (c : Ctx) : List Nat := (planesTaken f c).filter (· != c.p)

theorem mem_planesOther {f : FX} {c : Ctx} {n : Nat} :
    n ∈ planesOther f c ↔ n < 4 ∧ sentTo f c c.live n ≠ 0#96 ∧ n ≠ c.p := by
  simp only [planesOther, planesTaken, List.mem_filter, List.mem_range, bne_iff_ne, and_assoc]

/-- The lanes that PLANE sends to another plane land there (R250, R260). -/
def OthersLand (f : FX) (c : Ctx) (s : State) : Prop :=
  ∀ n, n < 4 → sentTo f c c.live n ≠ 0#96 → n ≠ c.p →
    offsetInRange s c.k (following c.q.offset) = true ∧ landing s c.k n (following c.q.offset) none = .lands

section
variable {f : FX} {c : Ctx} {s : State} (h : OthersLand f c s)
include h

theorem OthersLand.of_mem {n : Nat} (hn : n ∈ planesOther f c) : offsetInRange s c.k (following c.q.offset) = true ∧
    landing s c.k n (following c.q.offset) none = .lands :=
  let ⟨hlt, hsent, hne⟩ := mem_planesOther.1 hn
  h n hlt hsent hne

theorem OthersLand.inRange : (!(planesOther f c).isEmpty && !offsetInRange s c.k (following c.q.offset)) = false := by
  cases hps : planesOther f c with
  | nil => rfl
  | cons n ns => simp [(h.of_mem (hps ▸ List.mem_cons_self)).1]

theorem OthersLand.fetched : fetchLines c.k ((planesOther f c).map
    (fun p => (p, following c.q.offset, sentTo f c c.live p))) s = none := by
  refine fetchLines_held fun t ht => ?_
  obtain ⟨n, hn, rfl⟩ := List.mem_map.1 ht
  exact getLine_of_lands (h.of_mem hn).2

theorem OthersLand.lands :
    (planesOther f c).any (fun p => landing s c.k p (following c.q.offset) none != .lands) = false := by
  rw [List.any_eq_false]
  intro n hn
  simp [(h.of_mem hn).2]

end

theorem plane_shifts (h : Hdr) (f : FX) : TakesIf (.plane h f) .vec
    (fun c s => (s.warp c.k).trapMode = false ∧
      (c.q.took = [] → ∀ x ∈ planeTargets s c, ∃ b, getLine s c.k x.1 x.2.1 = .line b) ∧
      (∀ l, c.live.getLsbD l = true → planeFor f c l < (s.warpLaunch c.k).info.planeCount) ∧ OthersLand f c s)
    (fun c s => s.modCur (fun q => { q with
      shifts := q.shifts ++ (planesTaken f c).map (fun p => (sentTo f c c.live p, p)) })) := by
  refine takesIf_of (fun s => (rfl : execPlane h f s = _)) ?_
  rintro c s ⟨hmode, hheld, hplane, hland⟩
  have hfirst : (if c.q.took.isEmpty then fetchLines c.k (planeTargets s c) s else none) = none := by
    split
    · next htook => exact fetchLines_held (hheld (List.isEmpty_iff.1 htook))
    · rfl
  have hin : (lanesOf c.live).any (fun l => decide ((s.warpLaunch c.k).info.planeCount ≤ planeFor f c l)) = false := by
    rw [List.any_eq_false]
    intro l hl
    simpa using hplane l (List.mem_filter.1 hl).2
  have hrange := hland.inRange
  have hlines := hland.fetched
  have hlands := hland.lands
  rw [planesOther, planesTaken] at hrange hlines hlands
  dsimp only
  rw [hmode, if_neg Bool.false_ne_true, hfirst]
  dsimp only
  rw [hin, if_neg Bool.false_ne_true, hrange, if_neg Bool.false_ne_true, hlines]
  dsimp only
  rw [hlands]
  rfl

/-! ## IPREF and WSET -/

theorem ipref_idles (h : Hdr) (f : FC) : TakesIf (.ipref h f) .vec (fun c _ => c.live = 0#96) (fun _ s => s) := by
  refine takesIf_of (fun s => (rfl : execIpref h f s = _)) ?_
  rintro c s hlive
  simp [noLanes, hlive]

theorem ipref_requests (h : Hdr) (f : FC) : TakesIf (.ipref h f) .vec (fun c _ => c.live ≠ 0#96) (fun c s =>
    (List.range (f.tag.toNat + 1)).foldl (fun s (i : Nat) =>
      prefetchCode c ((lineOf c.q.offset : Int) + f.tline.toInt + (i : Int)) s) s) := by
  refine takesIf_of (fun s => (rfl : execIpref h f s = _)) ?_
  rintro c s hlive
  simp [noLanes, hlive]

theorem wset_replaces (h : Hdr) (f : FW) : TakesIf (.wset h f) .vec
    (fun c s => (s.warp c.k).execMask c.e &&& (s.warp c.k).live ≠ 0#96)
    (fun c s => replaceSet c.k (f.used.map (fun r => { base := r.1, len := r.2 })) s) := by
  refine takesIf_of (fun s => (rfl : execWset h f s = _)) ?_
  rintro c s hactive
  simp [noLanes, hactive]

/-- Settles O16: each clause is its instruction's lemma above. -/
theorem controlInstructionsComplete : Obligations.ControlInstructionsComplete := fun h f fx fw w1 p =>
  ⟨exit_leaves h fx, fun s q hq hc ⟨ha, hslot, hp, hw⟩ => join_pushes h f p w1 s q hq hc ⟨⟨ha, hslot, hp⟩, hw⟩,
    fun s q hq hc ⟨ha, hslot, hp, hw⟩ => join_counts h f p s q hq hc ⟨⟨ha, hslot, hp⟩, hw⟩, yield_split h fx,
    yield_trapSplit h fx, yield_idles h fx, exit_idles h fx, plane_shifts h fx, ipref_idles h f, ipref_requests h f,
    wset_replaces h fw⟩

end Sys2Proof.Machine
end

section
/-!
PROOFS. The read stalls that a core counts: they are counted before a pass ends, and neither the end of a pass nor a wait
nor a trap counts any (R97, R482). RegisterInstructionsKeepTheRest asks that the state in which a pass ends, waits or traps
have the cores of the state before the instruction, and fails of a VADD whose sources share a bank.
-/

namespace Sys2Proof.Machine

open Sys2Proof Sys2Proof.Claims

/-! ## Read stalls -/

/-- The read stalls that a core has counted (R97, R482). -/
def readStalls (s : State) (g : Nat) : Option (BitVec 64) := tget (s.core g).events 0x03

theorem readStalls_of_cores {s t : State} (h : t.cores = s.cores) (g : Nat) : readStalls t g = readStalls s g := by
  simp only [readStalls, State.core, h]

@[simp] theorem setWarp_readStalls (s : State) (k : Nat) (x : Warp) (g : Nat) :
    readStalls (s.setWarp k x) g = readStalls s g := rfl
@[simp] theorem modWarp_readStalls (s : State) (k : Nat) (f : Warp → Warp) (g : Nat) :
    readStalls (s.modWarp k f) g = readStalls s g := rfl
@[simp] theorem modCur_readStalls (s : State) (f : Issue → Issue) (g : Nat) :
    readStalls (s.modCur f) g = readStalls s g := rfl

/-- Another event counted leaves the read stalls as they are. -/
theorem countCore_readStalls {code : Nat} (h : code ≠ 0x03) (n j : Nat) (s : State) (g : Nat) :
    readStalls (countCore code n j s) g = readStalls s g := by
  unfold countCore readStalls
  split
  · rfl
  · rw [core_modCore]
    split
    · next hg =>
      rw [hg]
      dsimp only
      unfold bump
      split
      · rfl
      · exact tget_tput_ne _ _ h.symm
    · rfl

theorem countWarp_readStalls {code : Nat} (h : code ≠ 0x03) (n k : Nat) (s : State) (g : Nat) :
    readStalls (countWarp code n k s) g = readStalls s g := by
  unfold countWarp
  split
  · rfl
  · exact countCore_readStalls h _ _ _ _

/-! ## The ways in which a pass ends -/

@[simp] theorem settle_readStalls (k : Nat) (s : State) (g : Nat) : readStalls (settle k s) g = readStalls s g :=
  countWarp_readStalls (by decide) _ _ _ _

@[simp] theorem countIssue_readStalls (c : Ctx) (n : Nat) (s : State) (g : Nat) :
    readStalls (countIssue c n s) g = readStalls s g := by
  unfold countIssue
  dsimp only
  split
  · exact countWarp_readStalls (by decide) _ _ _ _
  · exact countWarp_readStalls (by decide) _ _ _ _

@[simp] theorem retireIfDone_readStalls (k : Nat) (s : State) (g : Nat) :
    readStalls (retireIfDone k s) g = readStalls s g := by
  unfold retireIfDone
  dsimp only
  split <;> rfl

@[simp] theorem finishIssue_readStalls (q : Issue) (s : State) (g : Nat) :
    readStalls (finishIssue q s) g = readStalls s g := by
  unfold finishIssue
  dsimp only
  split
  · rfl
  · split
    · split <;> simp
    · simp [countWarp_readStalls]

theorem completePass_readStalls (c : Ctx) (i : Instr) (all : Bool) (s : State) (g : Nat) :
    readStalls (completePass c i all s) g = readStalls s g := by
  unfold completePass
  extract_lets rest fresh ages s1 low s2 s3
  have h3 : readStalls s3 g = readStalls s g := by
    dsimp only [s3, s2, s1]
    rw [modCur_readStalls]
    split <;> simp
  split
  · split
    · exact (finishIssue_readStalls _ _ _).trans h3
    · exact h3
  · exact h3

@[simp] theorem countErrorAt_cores (i n g : Nat) (s : State) : (countErrorAt i n g s).cores = s.cores := by
  unfold countErrorAt countError
  split <;> rfl

/-- A fault is raised in its warp, its launch and the error counters, and in no core. -/
theorem raiseFault_cores (k e : Nat) (pc : BitVec 64) (f : FaultInfo) (s : State) :
    (raiseFault k e pc f s).cores = s.cores := by
  unfold raiseFault
  extract_lets w l s1
  have h1 : s1.cores = s.cores := by
    dsimp only [s1]
    split <;> simp
  repeat' split
  all_goals exact h1

@[simp] theorem raiseFault_readStalls (k e : Nat) (pc : BitVec 64) (f : FaultInfo) (s : State) (g : Nat) :
    readStalls (raiseFault k e pc f s) g = readStalls s g :=
  readStalls_of_cores (raiseFault_cores k e pc f s) g

theorem trapAt_readStalls (c : Ctx) (decoded : Bool) (f : FaultInfo) (s : State) (g : Nat) :
    readStalls (trapAt c decoded f s) g = readStalls s g := by
  have hcount : readStalls (if decoded && !c.q.lines.isEmpty then countIssue c 1 s else s) g = readStalls s g := by
    split <;> simp
  unfold trapAt
  dsimp only
  rw [modCur_readStalls, apply_ite (readStalls · g), settle_readStalls, ite_self, raiseFault_readStalls,
    countWarp_readStalls (by decide), setWarp_readStalls, hcount]

/-- However a pass ends, it counts no read stall. -/
theorem endsPass_readStalls {i : Instr} {c : Ctx} {all : Bool} {v t : State} (h : endsPass i c all v t) (g : Nat) :
    readStalls t g = readStalls v g := by
  obtain rfl | rfl | ⟨d, f, rfl⟩ := h
  · exact completePass_readStalls c i all v g
  · exact modCur_readStalls v Issue.waits g
  · exact trapAt_readStalls c d f v g

/-! ## A VADD whose sources share a bank -/

/-- VADD of v2 and v6, which lie in one bank, into v1 under FMT 0, with neutral modifiers (R52, R97). -/
def oneBankVadd : Instr :=
  .vadd { pred := 15#4, pneg := 0#1, feb := 0#3, holdSrc := 0#2, holdEnt := 0#2, fmt := 0#4 }
    { d := 1#10, a := 2#10, b := 6#10, c := 643#10, fn := 0#8, na := 0#1, aa := 0#1, nb := 0#1, ab := 0#1, nc := 0#1,
      ac := 0#1, clamp := 0#2, scale := 0#4, reuse := 0#1, rnd := 4#3, low := 0#8 }

/-- The warp of loadWord with v0 to v7 in its working set, tagged 0. -/
def withEight (w : Warp) : Warp :=
  { w with
    ws := [{ base := 0, len := 8 }]
    vregs := (List.range 8).map (fun n => (n, { VReg.zero with tag := 0#4, tpar := parityOf 0#4 })) }

/-- The machine with the word of oneBankVadd loaded, its issue begun and no pass made. -/
def oneBankState : State := beginIssue 0 0 ((loadWord State.reset 0x43F0000040201A8300000400#96).modWarp 0 withEight)

section

set_option maxRecDepth 4000

theorem passInstr_oneBankState : oneBankState.cur.map passInstr = some oneBankVadd := by decide

theorem readState_oneBankState :
    oneBankState.cur.map (fun q => readState oneBankVadd oneBankState q) = some oneBankState := by decide

theorem readStalls_oneBankState : readStalls oneBankState 0 = none := by decide

/-- The VADD completes, and its core has counted one read stall. -/
theorem readStalls_exec_oneBankVadd :
    (match exec oneBankVadd oneBankState with | .next t => readStalls t 0 | _ => none) = some 1#64 := by decide

end

/-- Refutes O56: VADD v1, v2, v6 counts the read stall of its one bank before its pass ends, so that no state with the
cores of the state before it ends its pass in the state after it (R97, R482). -/
theorem not_registerInstructionsKeepTheRest : ¬ Obligations.RegisterInstructionsKeepTheRest := by
  rintro ⟨hkeeps, -⟩
  obtain ⟨q, hq, hread⟩ := Option.map_eq_some_iff.1 readState_oneBankState
  obtain ⟨t, hexec⟩ := exec_next oneBankVadd (by decide) oneBankState q hq
  obtain ⟨-, -, -, -, kind, v, hend, -, -, -, -, -, hcores, -⟩ :=
    hkeeps oneBankVadd oneBankState t q hq (by decide) rfl hread hexec
  have hsame : readStalls t 0 = none :=
    calc readStalls t 0 = readStalls v 0 := endsPass_readStalls hend 0
      _ = readStalls oneBankState 0 := readStalls_of_cores hcores 0
      _ = none := readStalls_oneBankState
  have hone := readStalls_exec_oneBankVadd
  rw [hexec] at hone
  exact absurd (hsame.symm.trans hone) (by simp)

end Sys2Proof.Machine
end

section
/-!
PROOFS. LDACC, STACC, VPREF and FENCE: when an access to accumulator memory is made, a prefetch that waits for no
lane, an instruction that acts once an issue in a pass without its effect, and AccumulatorPrefetchAndFence from these
(R135, R352, R353, R374, R375).
-/

namespace Sys2Proof.Machine

open Sys2Proof Sys2Proof.Claims

/-! ## Accumulator memory -/

/-- Of the lanes of a mask paired with a value each, a filter that refuses every pair leaves none. -/
theorem filter_lanesOf_map {α : Type} {m : Lanes} {g : Nat → α} {p : Nat × α → Bool}
    (h : ∀ l, m.getLsbD l = true → p (l, g l) = false) : ((lanesOf m).map (fun l => (l, g l))).filter p = [] := by
  rw [List.filter_eq_nil_iff]
  intro x hx
  obtain ⟨l, hl, rfl⟩ := List.mem_map.1 hx
  rw [h l (List.mem_filter.1 hl).2]
  exact Bool.false_ne_true

/-- An access to accumulator memory that is aligned, in the team's words and need not wait is made, lane after lane
(R374, R375). -/
theorem accAccess_made (c : Ctx) (f : FM) (doLane : Nat → Nat → State → List (Word × Bool) × State)
    (finish : List (Nat × List (Word × Bool)) → State → State) (s : State) (hfree : accFree c f s) :
    accAccess c f doLane finish s =
      let r := sharedLanes doLane ((lanesOf c.live).map (fun l => (l, accAt c f l))) s
      .ok (finish r.1 r.2) := by
  obtain ⟨hlanes, hwait⟩ := hfree
  have haddr : accOff c f = accAt c f := rfl
  set xs := (lanesOf c.live).map (fun l => (l, accAt c f l)) with hxs
  have hmis : xs.filter (fun x => x.2 % (widthRegs f.width : Int) != 0) = [] := by
    refine filter_lanesOf_map fun l hl => ?_
    obtain ⟨halign, -, -⟩ := hlanes l hl
    simp [halign]
  have hout : xs.filter
      (fun x => x.2 < 0 || x.2 + (widthRegs f.width : Int) > ((s.warpLaunch c.k).info.accum : Int)) = [] := by
    refine filter_lanesOf_map fun l hl => ?_
    obtain ⟨-, hlo, hhi⟩ := hlanes l hl
    simp [hlo, hhi]
  have hgo : (!xs.isEmpty && (s.warp c.k).acquireOut) = false := by
    rcases hwait with hnone | hacquired
    · simp [hxs, hnone, lanesOf]
    · simp [hacquired]
  unfold accAccess
  dsimp only
  rw [haddr, ← hxs, hmis, hout]
  dsimp only
  rw [hgo]
  rfl

/-- The data of a vector store's lanes, register by register (R339, R340). -/
theorem vectorData_eq_dataOf (c : Ctx) (f : FM) : vectorData c f = dataOf c f := by
  have hzero : f.d.toNat = 643 ↔ f.d = 643#10 := BitVec.toNat_inj (y := 643#10)
  funext l
  rw [vectorData, laneData, dataOf, dataCodes]
  by_cases hd : f.d = 643#10
  · simp [hd]
  · simp [hd, hzero, span, Function.comp_def]

theorem ldacc_reads (h : Hdr) (f : FM) : TakesIf (.ldacc h f) .vec (accFree · f ·) (fun c s =>
    let r := sharedLanes (fun _ o t => accFetch (t.warp c.k).team o (widthRegs f.width) t)
      ((lanesOf c.live).map (fun l => (l, accAt c f l))) s
    finishVector c f true (widthRegs f.width) r.1 r.2) :=
  takesIf_of (fun s => (rfl : execLdacc h f s = _)) fun c s hfree => accAccess_made c f _ _ s hfree

theorem stacc_writes (h : Hdr) (f : FM) : TakesIf (.stacc h f) .vec (accFree · f ·) (fun c s =>
    (sharedLanes (fun l o t => ([], (List.range (widthRegs f.width)).foldl (fun t j =>
      accWrite (t.warp c.k).team (o + j) ((lget (wordsOf (widthRegs f.width) (dataOf c f l)) j).getD 0#32) false t) t))
      ((lanesOf c.live).map (fun l => (l, accAt c f l))) s).2) := by
  refine takesIf_of (fun s => (rfl : execStacc h f s = _)) fun c s hfree => ?_
  rw [vectorData_eq_dataOf]
  exact accAccess_made c f _ _ s hfree

/-! ## VPREF -/

/-- The place of a translation whose line VPREF requests: one in memory of this package or of its CXL ports, and not of
POA (R352). -/
def requestedPlace : Trans → Option Place
  | .ok p => if p.poa ∨ 2 < keyKind p.key then none else some p
  | _ => none

/-- The places whose lines VPREF requests, lane by lane. -/
def requestedPlaces (f : FM) (c : Ctx) (s : State) : List Place :=
  (byLane c f false f.offset.toInt).filterMap (fun x => requestedPlace (warpTrans s c.k c.e x.2 .prefetch))

theorem vpref_requests (h : Hdr) (f : FM) : TakesIf (.vpref h f) .vec
    (fun c s => l1Stalled s (coreOf c.k) (s.fused c.k) = false ∧
      ∀ x ∈ byLane c f false f.offset.toInt,
        warpTrans s c.k c.e x.2 .prefetch ≠ .miss ∧ warpTrans s c.k c.e x.2 .prefetch ≠ .stall)
    (fun c s => (distinctLines (requestedPlaces f c s) []).foldl (fun t p => prefetchLine c f p t) s) := by
  refine takesIf_of (fun s => (rfl : execVpref h f s = _)) ?_
  rintro c s ⟨hstall, htrans⟩
  have haddr : laneAddrs c f false (fullOffset f) = byLane c f false f.offset.toInt := rfl
  have hwaits : ((byLane c f false f.offset.toInt).map
      (fun x => (x.1, x.2, warpTrans s c.k c.e x.2 .prefetch))).filter
      (fun x => x.2.2 == .miss || x.2.2 == .stall) = [] := by
    rw [List.filter_eq_nil_iff]
    intro y hy
    obtain ⟨x, hx, rfl⟩ := List.mem_map.1 hy
    obtain ⟨hmiss, hstalls⟩ := htrans x hx
    simp [hmiss, hstalls]
  have hplaces : ((byLane c f false f.offset.toInt).map
      (fun x => (x.1, x.2, warpTrans s c.k c.e x.2 .prefetch))).filterMap (fun x => match x.2.2 with
        | .ok p => if p.poa || 2 < keyKind p.key then none else some p
        | _ => none) = requestedPlaces f c s := by
    rw [List.filterMap_map, requestedPlaces]
    congr 1
    funext x
    rw [Function.comp_apply]
    cases warpTrans s c.k c.e x.2 .prefetch <;> simp [requestedPlace]
  unfold vprefEffect
  dsimp only
  rw [haddr, hwaits, hstall]
  exact congrArg (fun ps => PassResult.ok ((distinctLines ps []).foldl (fun t p => prefetchLine c f p t) s)) hplaces

/-! ## FENCE -/

theorem fence_orders (h : Hdr) (f : FM) : TakesOwn (.fence h f) .first deliveryPoint
    (fun c s => fenceWaits (s.warp c.k) f.ord.toNat f.scope.toNat = false ∧
      l1Stalled s (coreOf c.k) (s.fused c.k) = false)
    (fun c s =>
      let t := if isRelease f then releaseL1 (coreOf c.k) (s.fused c.k) f.scope.toNat s else s
      if isAcquire f then acquireL1 (coreOf c.k) (s.fused c.k) f.scope.toNat t else t) := by
  refine takesOwn_of (fun s => (rfl : execFence h f s = _)) ?_
  rintro c s ⟨hwaits, hstall⟩
  simp only [hwaits, hstall, Bool.or_self, Bool.false_eq_true, if_false]

/-- What makes an instruction that acts once an issue only end a pass without its effect (R135, R179). -/
theorem idlesOwn_of_first {i : Instr} {own : Ctx → State → PreCheck} {eff : Ctx → State → PassResult}
    (hx : ∀ s, exec i s = runChecked i .first own eff s) : IdlesOwn i .first own := by
  intro s q hq c hchecks hidle hown
  have hpass : (match (if deliversIdle i && !q.acted (s.warp q.warp) i.opNum then own c s else .pass) with
      | .fault f => Host.Outcome.next (trapPass c f s)
      | .wait => .next (waitPass s)
      | .pass => .next (completePass c i false s)) =
        (.next (completePass c i false s) : Host.Outcome State Fault Refusal) := by
    rcases hown with hacted | hown
    · simp [hacted]
    · simp [hown]
  have hno : (!!noLanes c.live || q.acted (s.warp q.warp) i.opNum) = true := by
    rcases hidle with hlive | ⟨-, hacted⟩
    · simp [noLanes, hlive]
    · simp [hacted]
  rw [hx]
  unfold runChecked
  rw [hq]
  dsimp only
  rw [hchecks]
  dsimp only
  rw [if_pos (by simpa using hno)]
  exact hpass

/-- The fault of a FENCE's own check is raised with a live lane and without, where no pass has acted (R135; log 19). -/
theorem fence_ownFault {h : Hdr} {f : FM} {s : State} {q : Issue} {g : FaultInfo} (hq : s.cur = some q)
    (hchecks : (if q.checked then lineFault q else issueFault (s.warp q.warp) (s.warpLaunch q.warp).info.planeCount q
      (passCtx s q (.fence h f) .first).p (.fence h f)) = none)
    (hacted : q.acted (s.warp q.warp) 0xE0 = false)
    (hown : deliveryPoint (passCtx s q (.fence h f) .first) s = .fault g) :
    exec (.fence h f) s = .next (trapPass (passCtx s q (.fence h f) .first) g s) := by
  have hop : (Instr.fence h f).opNum = 0xE0 := rfl
  have hdelivers : deliversIdle (.fence h f) = true := rfl
  change execFence h f s = _
  unfold execFence runChecked
  rw [hq]
  dsimp only
  rw [hchecks]
  dsimp only
  rw [hop, hacted, hdelivers, hown]
  exact ite_self _

theorem deliveryPoint_pending {c : Ctx} {s : State} (hmode : (s.warp c.k).trapMode = false)
    (hfloats : (s.warp c.k).floatsOut = false) (hpending : (s.warp c.k).fpPending = true) :
    deliveryPoint c s = .fault { cause := 0x0C#8, va := 0#80, lanes := 0#96 } := by
  simp only [deliveryPoint, hmode, hfloats, hpending, Bool.false_eq_true, if_false, if_true]
  rfl

/-- Settles O29: each clause is its instruction's lemma above, and the last that of a FENCE whose own check faults. -/
theorem accumulatorPrefetchAndFence : Obligations.AccumulatorPrefetchAndFence := fun h f =>
  ⟨ldacc_reads h f, stacc_writes h f, vpref_requests h f, fence_orders h f,
    idlesOwn_of_first (fun s => (rfl : execFence h f s = _)),
    fun _ _ hq hchecks hacted hmode hfloats hpending =>
      fence_ownFault hq hchecks hacted (deliveryPoint_pending hmode hfloats hpending)⟩

end Sys2Proof.Machine
end

section
/-!
PROOFS. Vector results: what a pass that writes a vector destination leaves in it, whether its words are computed or handed
over from other lanes, and the completion statement of every instruction that ends in such a write (R112, R140, R142, R217).
-/

namespace Sys2Proof.Machine

open Sys2Proof Sys2Proof.Claims

/-! ## Writes of a destination -/

theorem putV_eq_tagged (c : Ctx) (d : RCode) (tag : BitVec 4) (mask : Lanes) (g : Nat → Word) :
    c.putV d.toNat tag mask g 0#96 = tagged c d tag mask g := by
  funext w
  simp only [Ctx.putV, tagged, noLanes, beq_iff_eq]

theorem putVec_eq (d : RCode) (tag : Ctx → BitVec 4) (g : Ctx → Nat → Word) (c : Ctx) (s : State) :
    putVec c d (tag c) (g c) s = .ok (toVector d tag g c s) := by
  rw [putVec, putV_eq_tagged, toVector, onWarp]

/-- What gives an instruction that writes a vector its completion statement. -/
theorem takes_putVec {i : Instr} {d : RCode} {tag : Ctx → BitVec 4} {g : Ctx → Nat → Word}
    (hx : ∀ s, exec i s = runPass i .vec (fun c => putVec c d (tag c) (g c)) s) : Takes i .vec (toVector d tag g) :=
  takes_of hx (putVec_eq d tag g)

/-- What gives one that writes a predicate its completion statement. -/
theorem takes_putPred {i : Instr} {d : RCode} {g : Ctx → Nat → Bool}
    (hx : ∀ s, exec i s = runPass i .vec (fun c => putPred c d (g c)) s) : Takes i .vec (toPred d g) :=
  takes_of hx fun _ _ => rfl

/-! ## Words and elements -/

theorem takes_wordEffect {i : Instr} {tag : BitVec 4} {f : FV} {op g : Word → Word → Word → Word}
    (hx : ∀ s, exec i s = runPass i .vec (wordEffect tag f op) s) (hop : ∀ a b x, op a b x = g a b x) :
    Takes i .vec (byWord tag f g) := by
  obtain rfl : op = g := by funext a b x; exact hop a b x
  exact takes_putVec hx

theorem elemBits_lt (w : Nat) (x : Word) (e : Nat) : elemBits w x e < 2 ^ w := Nat.mod_lt _ (Nat.two_pow_pos w)

/-- An operation on the bits of elements need only agree with the one stated on values of the element's width. -/
theorem takes_elemEffect {i : Instr} {h : Hdr} {f : FV} {op g : Nat → Nat → Nat → Nat}
    (hx : ∀ s, exec i s = runPass i .vec (elemEffect h f op) s)
    (hop : ∀ a b, a < 2 ^ fmtWidth h.fmt → op (fmtWidth h.fmt) a b = g (fmtWidth h.fmt) a b) :
    Takes i .vec (byBits h f g) := by
  refine takes_of hx fun c s => Eq.trans ?_ (putVec_eq _ _ _ c s)
  unfold elemEffect intWord
  dsimp only
  congr 1
  funext l
  congr 1
  funext e
  exact hop _ _ (elemBits_lt _ _ _)

/-! ## Words handed to lanes -/

theorem deliver_clean {d : RCode} {tag : Ctx → BitVec 4} {g : Ctx → Nat → Word} {bad : Ctx → Nat → Bool} {c : Ctx}
    {s : State} (hclean : cleanWords bad c s) :
    deliver c d (tag c) (g c) (bad c) s = .ok (toVector d tag g c s) := by
  rw [cleanWords] at hclean
  simp only [deliver, hclean, noLanes, beq_self_eq_true, if_true, putVec_eq]

theorem deliver_poisoned {c : Ctx} {d : RCode} {tag : BitVec 4} {g : Nat → Word} {bad : Nat → Bool} {s : State}
    (hbad : c.live &&& mkLanes bad ≠ 0#96) :
    deliver c d tag g bad s = .fault s { cause := 0x0B#8, va := 0#80, lanes := c.live &&& mkLanes bad } := by
  rw [deliver, noLanes, beq_eq_false_iff_ne.2 hbad]
  rfl

section
variable {i : Instr} {d : RCode} {tag : Ctx → BitVec 4} {g : Ctx → Nat → Word} {bad : Ctx → Nat → Bool}
  (hx : ∀ s, exec i s = runPass i .vec (fun c => deliver c d (tag c) (g c) (bad c)) s)
include hx

/-- Where no live lane is handed a poisoned word the words are written, -/
theorem takesIf_deliver : TakesIf i .vec (cleanWords bad) (toVector d tag g) :=
  takesIf_of hx fun _ _ => deliver_clean

/-- and elsewhere the pass traps with the lanes handed one (R142, R217). -/
theorem trapsOnPoison_deliver : TrapsOnPoison i bad := by
  intro s q hq hclears c hbad
  rw [hx, runPass_clears i .vec _ s q hq hclears, deliver_poisoned hbad]
  rfl

end

end Sys2Proof.Machine
end

section
/-!
PROOFS. Vector integer arithmetic: modifiers, SCALE and CLAMP around the exact operation (R143, R144), and the formats of
32 bits, whose words without modifiers wrap modulo 2^32.
-/

namespace Sys2Proof.Machine

open Sys2Proof Sys2Proof.Claims

/-! ## Modifiers and finish -/

theorem satInt_eq_max_min {x lo hi : Int} (h : lo ≤ hi) : satInt x lo hi = max lo (min hi x) := by
  unfold satInt
  split
  · omega
  · split <;> omega

theorem intLo_le_intHi (fmt : BitVec 4) : intLo fmt ≤ intHi fmt := by
  have hhalf : (0 : Int) < 2 ^ (fmtWidth fmt - 1) := by positivity
  have hfull : (0 : Int) < 2 ^ fmtWidth fmt := by positivity
  unfold intLo intHi
  split <;> omega

/-- The bits of the element that finishInt gives are those that the pass writes (R143). -/
theorem bitsOfInt_finishInt (h : Hdr) (f : FV) (op : Int → Int → Int → Int) (a b x : Int) :
    bitsOfInt (fmtWidth h.fmt) (finishInt h f op a b x) =
      intFinish h f (op (intMods f.aa f.na a) (intMods f.ab f.nb b) (intMods f.ac f.nc x)) := by
  simp only [finishInt, intFinish, intMods, Int.natCast_natAbs, satInt_eq_max_min (intLo_le_intHi _), ge_iff_le]

theorem takes_intEffect {i : Instr} {h : Hdr} {f : FV} {op g : Int → Int → Int → Int}
    (hx : ∀ s, exec i s = runPass i .vec (intEffect h f op) s) (hop : ∀ a b x, op a b x = g a b x) :
    Takes i .vec (byElement h f (finishInt h f g)) := by
  obtain rfl : op = g := by funext a b x; exact hop a b x
  refine takes_of hx fun c s => Eq.trans ?_ (putVec_eq _ _ _ c s)
  simp only [bitsOfInt_finishInt]
  rfl

section
variable (h : Hdr) (f : FV)

theorem vadd_takes : Takes (.vadd h f) .vec (byElement h f (finishInt h f (fun a b _ => a + b))) :=
  takes_intEffect (fun s => (rfl : execVadd h f s = _)) fun _ _ _ => rfl

theorem vsub_takes : Takes (.vsub h f) .vec (byElement h f (finishInt h f (fun a b _ => a - b))) :=
  takes_intEffect (fun s => (rfl : execVsub h f s = _)) fun _ _ _ => rfl

theorem vmul_takes : Takes (.vmul h f) .vec (byElement h f (finishInt h f (fun a b _ => a * b))) :=
  takes_intEffect (fun s => (rfl : execVmul h f s = _)) fun _ _ _ => rfl

theorem vmad_takes : Takes (.vmad h f) .vec (byElement h f (finishInt h f (fun a b x => a * b + x))) :=
  takes_intEffect (fun s => (rfl : execVmad h f s = _)) fun _ _ _ => rfl

theorem vabsd_takes : Takes (.vabsd h f) .vec (byElement h f (finishInt h f (fun a b _ => |a - b|))) :=
  takes_intEffect (fun s => (rfl : execVabsd h f s = _)) fun a b _ => Int.natCast_natAbs (a - b)

theorem vmin_takes : Takes (.vmin h f) .vec (byElement h f (finishInt h f (fun a b _ => min a b))) :=
  takes_intEffect (fun s => (rfl : execVmin h f s = _)) fun a b _ => (min_def a b).symm

theorem vmax_takes : Takes (.vmax h f) .vec (byElement h f (finishInt h f (fun a b _ => max a b))) :=
  takes_intEffect (fun s => (rfl : execVmax h f s = _)) fun a b _ => (max_def a b).symm

/-- VMULH takes no modifier: the high half of the exact product (R144). -/
theorem vmulh_takes : Takes (.vmulh h f) .vec (byElement h f (fun a b _ => a * b / 2 ^ fmtWidth h.fmt)) :=
  takes_putVec fun s => (rfl : execVmulh h f s = _)

end

/-- Settles O4: each clause is its instruction's lemma above. -/
theorem vectorIntegerArithmetic : Obligations.VectorIntegerArithmetic := fun h f =>
  ⟨vadd_takes h f, vsub_takes h f, vmul_takes h f, vmad_takes h f, vabsd_takes h f, vmin_takes h f, vmax_takes h f,
    vmulh_takes h f⟩

/-! ## Plain words -/

/-- The modifiers of the integer instructions in their neutral positions (R51, R143). -/
def neutralMods (f : FV) : Prop :=
  f.scale = 0#4 ∧ f.clamp = 0#2 ∧ f.aa = 0#1 ∧ f.na = 0#1 ∧ f.ab = 0#1 ∧ f.nb = 0#1 ∧ f.ac = 0#1 ∧ f.nc = 0#1

theorem finishInt_neutral {f : FV} (hf : neutralMods f) (h : Hdr) (op : Int → Int → Int → Int) :
    finishInt h f op = op := by
  obtain ⟨hscale, hclamp, haa, hna, hab, hnb, hac, hnc⟩ := hf
  funext a b x
  simp [finishInt, hscale, hclamp, haa, hna, hab, hnb, hac, hnc]

/-- The 32-bit integer formats, signed and unsigned (R109). -/
def isWordInt (fmt : BitVec 4) : Prop := fmt = 0#4 ∨ fmt = 1#4

theorem isWordInt.elems {fmt : BitVec 4} (hfmt : isWordInt fmt) : fmtElems fmt = 1 := by
  rcases hfmt with rfl | rfl <;> rfl

theorem isWordInt.width {fmt : BitVec 4} (hfmt : isWordInt fmt) : fmtWidth fmt = 32 := by
  rcases hfmt with rfl | rfl <;> rfl

theorem elemBits_word (x : Word) : elemBits 32 x 0 = x.toNat := Nat.mod_eq_of_lt x.isLt

theorem mapElems_word (g : Nat → Nat) : mapElems 32 1 g = BitVec.ofNat 32 (g 0) := by
  apply BitVec.eq_of_toNat_eq
  simp [mapElems, packElems]

theorem ofNat_bitsOfInt (w : Nat) (x : Int) : BitVec.ofNat w (bitsOfInt w x) = BitVec.ofInt w x := by
  have hnonneg : 0 ≤ x % 2 ^ w := Int.emod_nonneg x (by positivity)
  rw [bitsOfInt, ← BitVec.ofInt_natCast, Int.toNat_of_nonneg hnonneg]
  apply BitVec.eq_of_toInt_eq
  simpa using Int.emod_bmod x (2 ^ w)

theorem signedOf_toNat (x : Word) : signedOf 32 x.toNat = x.toInt := by
  rw [signedOf, BitVec.toInt_eq_toNat_cond]
  split <;> split <;> omega

/-- A word's integer has its bits, whatever sign the format gives it. -/
theorem ofInt_intOf {fmt : BitVec 4} (hfmt : isWordInt fmt) (x : Word) : BitVec.ofInt 32 (intOf fmt x.toNat) = x := by
  rw [intOf, hfmt.width, signedOf_toNat]
  split <;> simp

/-- An operation that wraps modulo 2^32 acts on the words themselves. -/
theorem byElement_eq_byWord {h : Hdr} (f : FV) (hfmt : isWordInt h.fmt) {g : Int → Int → Int → Int}
    {k : Word → Word → Word → Word}
    (hg : ∀ a b x, BitVec.ofInt 32 (g a b x) = k (BitVec.ofInt 32 a) (BitVec.ofInt 32 b) (BitVec.ofInt 32 x)) :
    byElement h f g = byWord h.fmt f k := by
  unfold byElement byWord
  simp only [hfmt.elems, hfmt.width, mapElems_word, ofNat_bitsOfInt, hg, elemBits_word, ofInt_intOf hfmt]

/-- Without modifiers the finish is the operation, so that one which wraps acts on the words (R143). -/
theorem takes_plainWords {i : Instr} {h : Hdr} {f : FV} (hfmt : isWordInt h.fmt) (hf : neutralMods f)
    {g : Int → Int → Int → Int} {k : Word → Word → Word → Word} (hi : Takes i .vec (byElement h f (finishInt h f g)))
    (hg : ∀ a b x, BitVec.ofInt 32 (g a b x) = k (BitVec.ofInt 32 a) (BitVec.ofInt 32 b) (BitVec.ofInt 32 x)) :
    Takes i .vec (byWord h.fmt f k) := by
  rwa [finishInt_neutral hf, byElement_eq_byWord f hfmt hg] at hi

/-- Settles O5: sums, differences and products of integers wrap modulo 2^32 to those of their words. -/
theorem plainWordArithmetic : Obligations.PlainWordArithmetic := by
  intro h f hfmt hscale hclamp haa hna hab hnb hac hnc
  have hf : neutralMods f := ⟨hscale, hclamp, haa, hna, hab, hnb, hac, hnc⟩
  refine ⟨takes_plainWords hfmt hf (vadd_takes h f) ?_, takes_plainWords hfmt hf (vsub_takes h f) ?_,
    takes_plainWords hfmt hf (vmul_takes h f) ?_, takes_plainWords hfmt hf (vmad_takes h f) ?_⟩
  · exact fun a b _ => BitVec.ofInt_add a b
  · exact fun a b _ => BitVec.eq_of_toInt_eq (by simp)
  · exact fun a b _ => BitVec.ofInt_mul a b
  · exact fun a b x => by rw [BitVec.ofInt_add, BitVec.ofInt_mul]

end Sys2Proof.Machine
end

section
/-!
PROOFS. Moves, bitwise instructions, bit counts, bit fields and shifts (R145 to R149).
-/

namespace Sys2Proof.Machine

open Sys2Proof Sys2Proof.Claims

/-! ## Moves and bitwise instructions -/

theorem table3_eq (t : BitVec 8) (a b x : Bool) :
    table3 t a b x = t.getLsbD (a.toNat + 2 * b.toNat + 4 * x.toNat) := by
  cases a <;> cases b <;> cases x <;> rfl

theorem vmov_takes (h : Hdr) (f : FV) : Takes (.vmov h f) .vec
    (toVector f.d (fun c => if (src c f.a).free then h.fmt else (src c f.a).tag) (fun c l => (src c f.a).word l)) :=
  takes_putVec fun s => (rfl : execVmov h f s = _)

theorem vmovi_takes (h : Hdr) (fi : FI) : Takes (.vmovi h fi) .vec
    (toVector fi.d (fun _ => h.fmt) (fun _ _ => fi.imm)) :=
  takes_putVec fun s => (rfl : execVmovi h fi s = _)

theorem vtag_takes (h : Hdr) (f : FV) : Takes (.vtag h f) .vec
    (toVector f.d (fun _ => h.fmt) (fun c l => (src c f.a).word l)) :=
  takes_putVec fun s => (rfl : execVtag h f s = _)

theorem vand_takes (h : Hdr) (f : FV) : Takes (.vand h f) .vec (byWord 14#4 f (fun a b _ => a &&& b)) :=
  takes_wordEffect (fun s => (rfl : execVand h f s = _)) fun _ _ _ => rfl

theorem vor_takes (h : Hdr) (f : FV) : Takes (.vor h f) .vec (byWord 14#4 f (fun a b _ => a ||| b)) :=
  takes_wordEffect (fun s => (rfl : execVor h f s = _)) fun _ _ _ => rfl

theorem vxor_takes (h : Hdr) (f : FV) : Takes (.vxor h f) .vec (byWord 14#4 f (fun a b _ => a ^^^ b)) :=
  takes_wordEffect (fun s => (rfl : execVxor h f s = _)) fun _ _ _ => rfl

theorem vbool_takes (h : Hdr) (f : FV) : Takes (.vbool h f) .vec (byWord 14#4 f (fun a b x =>
    BitVec.ofNat 32 (bitsNat (fun i =>
      f.fn.getLsbD ((a.getLsbD i).toNat + 2 * (b.getLsbD i).toNat + 4 * (x.getLsbD i).toNat)) 32))) :=
  takes_wordEffect (fun s => (rfl : execVbool h f s = _)) fun a b x => by simp only [table3_eq]

/-- Settles O6: each clause is its instruction's lemma above. -/
theorem movesAndBitwise : Obligations.MovesAndBitwise := fun h f fi =>
  ⟨vmov_takes h f, vmovi_takes h fi, vtag_takes h f, vand_takes h f, vor_takes h f, vxor_takes h f, vbool_takes h f⟩

/-! ## Bit counts -/

theorem fmtWidth_pos (fmt : BitVec 4) : 0 < fmtWidth fmt := by
  revert fmt
  decide

theorem popCount_eq_length (x n : Nat) : popCount x n = ((List.range n).filter (fun i => x.testBit i)).length := by
  induction n with
  | zero => rfl
  | succ n ih =>
    rw [popCount, ih, List.range_succ, List.filter_append, List.length_append]
    cases hbit : x.testBit n <;> simp [hbit]

/-- The zeros above the highest one are the bits passed over in the search for it from the top (R147). -/
theorem leadingZeros_eq_find {w x : Nat} (hx : x < 2 ^ w) :
    leadingZeros w x = ((List.range w).find? (fun i => x.testBit (w - 1 - i))).getD w := by
  rw [leadingZeros, Nat.mod_eq_of_lt hx, bitLen]
  by_cases h0 : x = 0
  · have hnone : (List.range w).find? (fun i => x.testBit (w - 1 - i)) = none := by simp [h0]
    rw [hnone, if_pos h0]
    rfl
  · have htop : x.log2 < w := (Nat.log2_lt h0).2 hx
    have hfind : (List.range w).find? (fun i => x.testBit (w - 1 - i)) = some (w - 1 - x.log2) := by
      rw [List.find?_range_eq_some]
      refine ⟨?_, List.mem_range.2 (by omega), fun j hj => ?_⟩
      · rw [show w - 1 - (w - 1 - x.log2) = x.log2 by omega]
        exact Nat.testBit_log2 h0
      · have hlow : x < 2 ^ (w - 1 - j) := (Nat.log2_lt h0).1 (by omega)
        simp [Nat.testBit_lt_two_pow hlow]
    rw [hfind, if_neg h0, Option.getD_some]
    omega

theorem vpopc_takes (h : Hdr) (f : FV) : Takes (.vpopc h f) .vec
    (byBits h f (fun w a _ => ((List.range w).filter (fun i => a.testBit i)).length)) :=
  takes_elemEffect (fun s => (rfl : execVpopc h f s = _)) fun a _ _ => popCount_eq_length a _

theorem vclz_takes (h : Hdr) (f : FV) : Takes (.vclz h f) .vec
    (byBits h f (fun w a _ => ((List.range w).find? (fun i => a.testBit (w - 1 - i))).getD w)) :=
  takes_elemEffect (fun s => (rfl : execVclz h f s = _)) fun _ _ ha => leadingZeros_eq_find ha

theorem vbrev_takes (h : Hdr) (f : FV) : Takes (.vbrev h f) .vec
    (byBits h f (fun w a _ => bitsNat (fun i => a.testBit (w - 1 - i)) w)) :=
  takes_elemEffect (fun s => (rfl : execVbrev h f s = _)) fun _ _ _ => rfl

/-! ## Shifts -/

/-- The sign of a value of w bits is its highest bit. -/
theorem signedOf_eq {w x : Nat} (hw : 0 < w) (hx : x < 2 ^ w) :
    signedOf w x = if x.testBit (w - 1) then (x : Int) - 2 ^ w else x := by
  obtain ⟨n, rfl⟩ : ∃ n, w = n + 1 := ⟨w - 1, by omega⟩
  rw [signedOf, Nat.add_sub_cancel]
  by_cases hlow : x < 2 ^ n
  · simp [hlow, Nat.testBit_lt_two_pow hlow]
  · simp [hlow, Nat.testBit_of_two_pow_le_and_two_pow_add_one_gt (Nat.not_lt.1 hlow) hx]

/-- A signed value shifted out of its width leaves its sign (R149). -/
theorem signedOf_div_width {w x : Nat} (hw : 0 < w) (hx : x < 2 ^ w) :
    signedOf w x / 2 ^ w = if x.testBit (w - 1) then -1 else 0 := by
  have hlt : (x : Int) < 2 ^ w := by exact_mod_cast hx
  rw [signedOf_eq hw hx]
  split
  · rw [Int.sub_ediv_of_dvd _ (dvd_refl _), Int.ediv_self (by positivity), Int.ediv_eq_zero_of_lt (by positivity) hlt]
    rfl
  · exact Int.ediv_eq_zero_of_lt (by positivity) hlt

theorem vshl_takes (h : Hdr) (f : FV) : Takes (.vshl h f) .vec
    (byBits h f (fun w a b => if w ≤ b % 256 then 0 else (a <<< (b % 256)) % 2 ^ w)) :=
  takes_elemEffect (fun s => (rfl : execVshl h f s = _)) fun a b _ => by rw [Nat.shiftLeft_eq]

theorem vshr_takes (h : Hdr) (f : FV) : Takes (.vshr h f) .vec
    (byBits h f (fun w a b => if w ≤ b % 256 then 0 else a >>> (b % 256))) :=
  takes_elemEffect (fun s => (rfl : execVshr h f s = _)) fun a b _ => by rw [Nat.shiftRight_eq_div_pow]

theorem vsar_takes (h : Hdr) (f : FV) : Takes (.vsar h f) .vec (byBits h f (fun w a b => bitsOfInt w
    (if w ≤ b % 256 then (if a.testBit (w - 1) then -1 else 0) else signedOf w a / 2 ^ (b % 256)))) := by
  refine takes_elemEffect (fun s => (rfl : execVsar h f s = _)) fun a b ha => congrArg (bitsOfInt _) ?_
  split
  · next hover => rw [Nat.min_eq_right hover, signedOf_div_width (fmtWidth_pos _) ha]
  · next hin => rw [Nat.min_eq_left (Nat.le_of_not_le hin)]

/-! ## Bit fields -/

/-- Where a bit field begins, and how long it is (R148). -/
def fieldPos (b : Word) : Nat := min (b.toNat % 256) 32
def fieldLen (b : Word) : Nat := min (b.toNat / 256 % 256) (32 - fieldPos b)

/-- The field that VBFX takes out of a word, extended by the signedness of FMT (R148). -/
def fieldOfWord (fmt : BitVec 4) (a b : Word) : Word :=
  if fieldLen b = 0 then 0#32
  else
    let x := a.toNat / 2 ^ fieldPos b % 2 ^ fieldLen b
    if fmt == 0#4 && x.testBit (fieldLen b - 1) then BitVec.ofInt 32 ((x : Int) - 2 ^ fieldLen b)
    else BitVec.ofNat 32 x

theorem extractField_eq (h : Hdr) (a b : Word) : extractField h a b = fieldOfWord h.fmt a b := by
  have hmodel : extractField h a b = if fieldLen b = 0 then 0#32 else
      if h.fmt == 0#4 then BitVec.ofInt 32 (signedOf (fieldLen b) (a.toNat / 2 ^ fieldPos b % 2 ^ fieldLen b))
      else BitVec.ofNat 32 (a.toNat / 2 ^ fieldPos b % 2 ^ fieldLen b) := rfl
  rw [hmodel, fieldOfWord]
  split
  · rfl
  · next hlen =>
    rw [signedOf_eq (Nat.pos_of_ne_zero hlen) (Nat.mod_lt _ (Nat.two_pow_pos _)), apply_ite (BitVec.ofInt 32),
      BitVec.ofInt_natCast, ← ite_and]
    simp only [Bool.and_eq_true]

theorem vbfx_takes (h : Hdr) (f : FV) : Takes (.vbfx h f) .vec (byWord h.fmt f (fun a b _ => fieldOfWord h.fmt a b)) :=
  takes_wordEffect (fun s => (rfl : execVbfx h f s = _)) fun a b _ => extractField_eq h a b

theorem vbfi_takes (h : Hdr) (f : FV) : Takes (.vbfi h f) .vec (byWord h.fmt f (fun a b x =>
    BitVec.ofNat 32 (bitsNat (fun i =>
      if fieldPos b ≤ i && i < fieldPos b + fieldLen b then a.getLsbD (i - fieldPos b) else x.getLsbD i) 32))) :=
  takes_wordEffect (fun s => (rfl : execVbfi h f s = _)) fun _ _ _ => rfl

/-- Settles O7: each clause is its instruction's lemma above. -/
theorem bitCountsFieldsAndShifts : Obligations.BitCountsFieldsAndShifts := fun h f =>
  ⟨vpopc_takes h f, vclz_takes h f, vbrev_takes h f, vshl_takes h f, vshr_takes h f, vsar_takes h f, vbfx_takes h f,
    vbfi_takes h f⟩

end Sys2Proof.Machine
end

section
/-!
PROOFS. Compares, select and lane exchange (R150 to R154): the first write a predicate, the others words handed to lanes.
-/

namespace Sys2Proof.Machine

open Sys2Proof Sys2Proof.Claims

/-! ## Compare -/

theorem vcmpReg_takes (h : Hdr) (f : FV) : Takes (.vcmpReg h f) .vec
    (toPred f.d (fun c l => intCompare h (f.fn.toNat % 16) ((src c f.a).word l) ((src c f.b).word l))) :=
  takes_putPred fun s => (rfl : execVcmpReg h f s = _)

theorem vcmpImm_takes (h : Hdr) (fi : FI) : Takes (.vcmpImm h fi) .vec
    (toPred fi.d (fun c l => intCompare h (fi.fn.toNat % 16) ((src c fi.a).word l) fi.imm)) :=
  takes_putPred fun s => (rfl : execVcmpImm h fi s = _)

/-! ## Select -/

/-- The lanes of predicate C, of which VSEL takes A's word (R151). -/
def picksA (f : FV) (c : Ctx) (l : Nat) : Bool := (c.view.pbits f.c.toNat).getLsbD l

/-- The tag, the words and the poison that VSEL hands to lanes (R142, R151). -/
def selTag (f : FV) (c : Ctx) : BitVec 4 :=
  if !(src c f.a).free then (src c f.a).tag else if !(src c f.b).free then (src c f.b).tag else 14#4
def selWord (f : FV) (c : Ctx) (l : Nat) : Word := if picksA f c l then (src c f.a).word l else (src c f.b).word l
def selPoison (f : FV) (c : Ctx) (l : Nat) : Bool :=
  if picksA f c l then (src c f.a).poison.getLsbD l else (src c f.b).poison.getLsbD l

theorem exec_vsel (h : Hdr) (f : FV) (s : State) : exec (.vsel h f) s =
    runPass (.vsel h f) .vec (fun c => deliver c f.d (selTag f c) (selWord f c) (selPoison f c)) s :=
  (rfl : execVsel h f s = _)

/-! ## Exchange -/

/-- The tag, the words and the poison that an exchange hands to lanes, each from the lane that pick names (R152). -/
def givenTag (h : Hdr) (f : FV) (c : Ctx) : BitVec 4 := if (src c f.a).free then h.fmt else (src c f.a).tag
def givenWord (f : FV) (pick : Ctx → Nat → Nat) (c : Ctx) (l : Nat) : Word :=
  if pick c l < 96 then (src c f.a).word (pick c l) else 0#32
def givenPoison (f : FV) (pick : Ctx → Nat → Nat) (c : Ctx) (l : Nat) : Bool :=
  pick c l < 96 && (src c f.a).poison.getLsbD (pick c l)

/-- An exchange hands lanes what it names. -/
def exchanges (h : Hdr) (f : FV) (pick : Ctx → Nat → Nat) (c : Ctx) (s : State) : PassResult :=
  deliver c f.d (givenTag h f c) (givenWord f pick c) (givenPoison f pick c) s

/-- The lanes that VLANE, VPERM and QXCH name (R152 to R154). -/
def vlanePick (f : FV) (c : Ctx) (_ : Nat) : Nat := (c.view.sval c.e f.b.toNat).toNat
def vpermPick (f : FV) (c : Ctx) (l : Nat) : Nat := ((src c f.b).word l).toNat
def qxchPick (f : FV) (_ : Ctx) (l : Nat) : Nat := 4 * (l / 4) + (f.fn.toNat / 4 ^ (l % 4)) % 4

theorem exec_vlane (h : Hdr) (f : FV) (s : State) :
    exec (.vlane h f) s = runPass (.vlane h f) .vec (exchanges h f (vlanePick f)) s :=
  (rfl : execVlane h f s = _)

theorem exec_vperm (h : Hdr) (f : FV) (s : State) :
    exec (.vperm h f) s = runPass (.vperm h f) .vec (exchanges h f (vpermPick f)) s :=
  (rfl : execVperm h f s = _)

theorem exec_qxch (h : Hdr) (f : FV) (s : State) :
    exec (.qxch h f) s = runPass (.qxch h f) .vec (exchanges h f (qxchPick f)) s := by
  have hlane (l : Nat) : l / 4 * 4 + f.fn.toNat / 4 ^ (l % 4) % 4 = 4 * (l / 4) + f.fn.toNat / 4 ^ (l % 4) % 4 := by
    omega
  change execQxch h f s = _
  simp only [execQxch, hlane]
  rfl

/-- Settles O8: each compare, and of the select and the exchanges the words handed over and the trap on a poisoned one. -/
theorem compareSelectExchange : Obligations.CompareSelectExchange := fun h f fi =>
  ⟨vcmpReg_takes h f, vcmpImm_takes h fi, takesIf_deliver (exec_vsel h f), takesIf_deliver (exec_vlane h f),
    takesIf_deliver (exec_vperm h f), takesIf_deliver (exec_qxch h f), trapsOnPoison_deliver (exec_vsel h f),
    trapsOnPoison_deliver (exec_vlane h f), trapsOnPoison_deliver (exec_vperm h f), trapsOnPoison_deliver (exec_qxch h f)⟩

end Sys2Proof.Machine
end

section
/-!
PROOFS. Reductions, scans and votes: a pass in a split of no active lane does nothing (R238), one whose contributing words
are clean has its effect (R142), which for a reduction and a vote is that of the last pass alone (R155 to R157).
-/

namespace Sys2Proof.Machine

open Sys2Proof Sys2Proof.Claims

/-! ## Contributions -/

/-- The active lanes of the split of a pass. -/
def splitLanes (c : Ctx) : Lanes := c.view.execMask c.e &&& c.view.live

/-- A pass of an opcode in a split with an active lane, of whose contributing words none is poisoned (R142). -/
def cleanContributions (op : Nat) (bad : Ctx → Nat → Lanes) (c : Ctx) : Prop :=
  splitLanes c ≠ 0#96 ∧ ∀ x ∈ contributions c op, x.2 &&& bad c (fieldA x.1) = 0#96

theorem poisonedContributions_clean {bad : Nat → Lanes} {xs : List (Instr × Lanes)}
    (hclean : ∀ x ∈ xs, x.2 &&& bad (fieldA x.1) = 0#96) : poisonedContributions xs bad = 0#96 := by
  induction xs with
  | nil => rfl
  | cons x xs ih =>
    rw [poisonedContributions, List.foldl_cons, hclean x List.mem_cons_self, BitVec.or_self]
    exact ih fun y hy => hclean y (List.mem_cons_of_mem _ hy)

theorem gather_idle {c : Ctx} {op : Nat} {bad : Nat → Lanes} {eff : List (Instr × Lanes) → PassResult} {s : State}
    (hsplit : splitLanes c = 0#96) : gather c op bad eff s = .ok s :=
  if_pos (beq_iff_eq.2 hsplit)

theorem gather_clean {c : Ctx} {op : Nat} {bad : Ctx → Nat → Lanes} {eff : List (Instr × Lanes) → PassResult} {s : State}
    (hclean : cleanContributions op bad c) : gather c op (bad c) eff s = eff (contributions c op) := by
  obtain ⟨hsplit, hwords⟩ := hclean
  have hactive : noLanes (c.view.execMask c.e &&& c.view.live) = false := beq_eq_false_iff_ne.2 hsplit
  have hpoison : (!noLanes (poisonedContributions (contributions c op) (bad c))) = false := by
    rw [poisonedContributions_clean hwords]
    rfl
  simp only [gather, hactive, hpoison, Bool.false_eq_true, if_false]

theorem takesIf_gather_idle {i : Instr} {op : Nat} {bad : Ctx → Nat → Lanes}
    {eff : Ctx → State → List (Instr × Lanes) → PassResult}
    (hx : ∀ s, exec i s = runPass i .vec (fun c s => gather c op (bad c) (eff c s) s) s) :
    TakesIf i .vec (fun c _ => splitLanes c = 0#96) (fun _ s => s) :=
  takesIf_of hx fun _ _ => gather_idle

/-- An effect on the warp that the last pass of an opcode alone has. -/
def inLastPass (op : Nat) (put : Ctx → List (Instr × Lanes) → Warp → Warp) (c : Ctx) (s : State)
    (xs : List (Instr × Lanes)) : PassResult :=
  if lastPass c op then .ok (s.modWarp c.k (put c xs)) else .ok s

section
variable {i : Instr} {op : Nat} {bad : Ctx → Nat → Lanes} {put : Ctx → List (Instr × Lanes) → Warp → Warp}
  (hx : ∀ s, exec i s = runPass i .vec (fun c s => gather c op (bad c) (inLastPass op put c s) s) s)
include hx

theorem takesIf_lastPass : TakesIf i .vec (fun c _ => cleanContributions op bad c ∧ lastPass c op = true)
    (onWarp (fun c => put c (contributions c op))) :=
  takesIf_of hx fun _ _ ⟨hclean, hlast⟩ => (gather_clean hclean).trans (if_pos hlast)

theorem takesIf_earlierPass : TakesIf i .vec (fun c _ => cleanContributions op bad c ∧ lastPass c op = false)
    (fun _ s => s) :=
  takesIf_of hx fun _ _ ⟨hclean, hearlier⟩ => (gather_clean hclean).trans (if_neg (Bool.not_eq_true _ ▸ hearlier))

end

/-! ## Reductions -/

/-- The poisoned lanes of a vector source, and those of a predicate source by beats (R142, R157). -/
def vectorPoison (c : Ctx) (a : Nat) : Lanes := (c.view.src c.e a).poison
def votePoison (c : Ctx) (a : Nat) : Lanes := beatLanes (c.view.pPoison a)

/-- The scalar and the flags of a reduction (R155). -/
def putReduced (h : Hdr) (f : FV) (c : Ctx) (xs : List (Instr × Lanes)) (w : Warp) : Warp :=
  let r := reduceLanes h.fmt (f.fn.toNat % 8) (contributing c 0x5C) (vectorOf c xs)
  (w.setS c.e f.d.toNat r.1).orFlags r.2

theorem exec_vred (h : Hdr) (f : FV) (s : State) : exec (.vred h f) s = runPass (.vred h f) .vec
    (fun c s => gather c 0x5C (vectorPoison c) (inLastPass 0x5C (putReduced h f) c s) s) s :=
  (rfl : execVred h f s = _)

/-! ## Scans -/

/-- The lanes of a scan with what each receives, and the word of a lane among them (R156). -/
def scanned (h : Hdr) (f : FV) (c : Ctx) (xs : List (Instr × Lanes)) : List (Nat × Word × FFlags) :=
  scanLanes h.fmt (f.fn.toNat % 8) (f.fn.getLsbD 3) (vectorOf c xs) (lanesOf (contributing c 0x5D)) none
def scannedWord (rs : List (Nat × Word × FFlags)) (l : Nat) : Word :=
  match tget rs l with | some r => r.1 | none => 0#32

/-- The words and the flags of a scan in the lanes of its pass (R156). -/
def putScanned (h : Hdr) (f : FV) (c : Ctx) (xs : List (Instr × Lanes)) (w : Warp) : Warp :=
  (tagged c f.d h.fmt c.live (scannedWord (scanned h f c xs)) w).orFlags
    (((scanned h f c xs).filter (fun r => c.live.getLsbD r.1)).foldl (fun a r => a ||| r.2.2) 0#5)

theorem exec_vscan (h : Hdr) (f : FV) (s : State) : exec (.vscan h f) s = runPass (.vscan h f) .vec
    (fun c s => gather c 0x5D (vectorPoison c) (fun xs => .ok (s.modWarp c.k (putScanned h f c xs))) s) s := by
  unfold putScanned
  simp only [← putV_eq_tagged]
  exact (rfl : execVscan h f s = _)

theorem vscan_writes (h : Hdr) (f : FV) : TakesIf (.vscan h f) .vec
    (fun c _ => cleanContributions 0x5D vectorPoison c)
    (onWarp (fun c => putScanned h f c (contributions c 0x5D))) :=
  takesIf_of (exec_vscan h f) fun _ _ => gather_clean

/-! ## Votes -/

/-- The scalars of a vote of a kind over the contributing lanes m and the bits p of them (R157). -/
def putVote (kind e d : Nat) (m p : Lanes) (w : Warp) : Warp :=
  match kind with
  | 0 => w.setSs e d [if m &&& ~~~p = 0#96 then 1#32 else 0#32]
  | 1 => w.setSs e d [if m &&& p = 0#96 then 0#32 else 1#32]
  | 2 => w.setSs e d [if m &&& ~~~p = 0#96 ∨ m &&& p = 0#96 then 1#32 else 0#32]
  | 3 => w.setSs e d ([0, 1, 2].map (fun k => (m &&& p).extractLsb' (32 * k) 32))
  | _ => w.setSs e d [BitVec.ofNat 32 (laneCount (m &&& p))]

theorem wordsOf_lanes (m : Lanes) : wordsOf 3 m.toNat = [0, 1, 2].map (fun k => m.extractLsb' (32 * k) 32) := by
  simp [wordsOf, BitVec.extractLsb', Nat.shiftRight_eq_div_pow, Nat.div_div_eq_div_mul]

/-- A vote's value cut into words gives those scalars: three words of the bits, else one. -/
theorem setSs_voteValue (e d : Nat) (m p : Lanes) (w : Warp) : ∀ kind,
    w.setSs e d (wordsOf (if kind = 3 then 3 else 1) (voteValue kind m p)) = putVote kind e d m p w
  | 0 => by by_cases hall : m &&& ~~~p = 0#96 <;> simp [voteValue, putVote, wordsOf, hall]
  | 1 => by by_cases hnone : m &&& p = 0#96 <;> simp [voteValue, putVote, wordsOf, hnone]
  | 2 => by
    by_cases hsame : m &&& ~~~p = 0#96 ∨ m &&& p = 0#96 <;> simp [voteValue, putVote, wordsOf, hsame]
  | 3 => congrArg (w.setSs e d) (wordsOf_lanes (m &&& p))
  | n + 4 => rfl

theorem exec_vvote (h : Hdr) (f : FV) (s : State) : exec (.vvote h f) s = runPass (.vvote h f) .vec
    (fun c s => gather c 0x5E (votePoison c) (inLastPass 0x5E
      (fun c xs => putVote f.fn.toNat c.e f.d.toNat (contributing c 0x5E) (votesOf c xs)) c s) s) s := by
  have hthree : (f.fn == 3#8) = decide (f.fn.toNat = 3) := by
    rw [Bool.eq_iff_iff, beq_iff_eq, decide_eq_true_iff, ← BitVec.toNat_inj]
    rfl
  change execVvote h f s = _
  simp only [execVvote, hthree, decide_eq_true_eq, setSs_voteValue]
  rfl

/-- Settles O9: the last pass and the earlier ones of the reduction and the vote, every pass of the scan, and of all three
the split with no active lane. -/
theorem reduceScanVote : Obligations.ReduceScanVote := fun h f =>
  ⟨takesIf_lastPass (exec_vred h f), takesIf_earlierPass (exec_vred h f), vscan_writes h f,
    takesIf_gather_idle (exec_vred h f), takesIf_gather_idle (exec_vscan h f), takesIf_gather_idle (exec_vvote h f),
    takesIf_lastPass (exec_vvote h f), takesIf_earlierPass (exec_vvote h f)⟩

end Sys2Proof.Machine
end

section
/-!
PROOFS. Vector floating-point results: what a pass that writes float elements leaves in its destination and in FXA (R133,
R134, R161), and the completion statements of the arithmetic (R162 to R168) and of the conversions (R172 to R176).
-/

namespace Sys2Proof.Machine

open Sys2Proof Sys2Proof.Claims

/-! ## Writes of float elements -/

theorem putFloat_eq (c : Ctx) (d : RCode) (tag : BitVec 4) (g : Nat → Word × FFlags) (s : State) :
    putFloat c d tag g s =
      .ok (s.modWarp c.k (fun w => (tagged c d tag c.part (fun l => (g l).1) w).orFlags (laneFlags c g))) := by
  rw [putFloat, putV_eq_tagged]

/-- The elements of one lane that a function of the elements of A, B and C gives. -/
def floatLane (f : FV) (t : BitVec 4)
    (g : Ctx → Nat → (Nat → FVal) → (Nat → FVal) → (Nat → FVal) → Nat → Nat × FFlags) (c : Ctx) (l : Nat) :
    Nat → Nat × FFlags :=
  g c l (floatElem t f.aa f.na (src c f.a) l) (floatElem t f.ab f.nb (src c f.b) l) (floatElem t f.ac f.nc (src c f.c) l)

/-- What gives an instruction that writes float elements its completion statement. -/
theorem takes_putFloat {i : Instr} {h : Hdr} {f : FV} {t : BitVec 4} {n : Nat}
    {g : Ctx → Nat → (Nat → FVal) → (Nat → FVal) → (Nat → FVal) → Nat → Nat × FFlags}
    (hx : ∀ s, exec i s =
      runPass i .vec (fun c => putFloat c f.d h.fmt (fun l => floatWord (32 / n) n (floatLane f t g c l))) s) :
    Takes i .vec (byFloat h f t n g) :=
  takes_of hx fun c s => putFloat_eq c f.d h.fmt (fun l => floatWord (32 / n) n (floatLane f t g c l)) s

/-! ## Arithmetic -/

/-- Settles O10: each clause is the pass of its instruction, element by element. -/
theorem floatArithmetic : Obligations.FloatArithmetic := fun h f =>
  ⟨takes_putFloat fun s => (rfl : execFadd h f s = _), takes_putFloat fun s => (rfl : execFsub h f s = _),
    takes_putFloat fun s => (rfl : execFmul h f s = _), takes_putFloat fun s => (rfl : execFfma h f s = _),
    takes_putFloat fun s => (rfl : execFmin h f s = _), takes_putFloat fun s => (rfl : execFmax h f s = _),
    takes_putFloat fun s => (rfl : execFrnd h f s = _), takes_putFloat fun s => (rfl : execFdot2 h f s = _)⟩

/-! ## Comparison and class -/

/-- The comparison of an element of A with one of B (R165). -/
def comparedElem (h : Hdr) (f : FV) (c : Ctx) (l e : Nat) : Bool × FFlags :=
  fcmpVal (f.fn.toNat % 16) (floatElem h.fmt f.aa f.na (src c f.a) l e) (floatElem h.fmt f.ab f.nb (src c f.b) l e)

/-- A lane's bit, set when every element compares so, and the flags of them all (R133, R165). -/
def comparedLane (h : Hdr) (f : FV) (c : Ctx) (l : Nat) : Bool × FFlags :=
  ((List.range (fmtElems h.fmt)).all (fun e => (comparedElem h f c l e).1),
    (List.range (fmtElems h.fmt)).foldl (fun x e => x ||| (comparedElem h f c l e).2) 0#5)

theorem exec_fcmp (h : Hdr) (f : FV) (s : State) :
    exec (.fcmp h f) s = runPass (.fcmp h f) .vec (fun c => putFloatPred c f.d (comparedLane h f c)) s := by
  have hlane (c : Ctx) (l : Nat) : comparedLane h f c l =
      let rs := (List.range (fmtElems h.fmt)).map (comparedElem h f c l)
      (rs.all (·.1), rs.foldl (fun x r => x ||| r.2) 0#5) := by
    simp only [comparedLane, List.all_map, List.foldl_map, Function.comp_def]
  simp only [funext (hlane _)]
  exact (rfl : execFcmp h f s = _)

/-- Settles O11: the pass of the comparison joins its flags to FXA, that of the class test writes the predicate alone. -/
theorem floatCompareAndClass : Obligations.FloatCompareAndClass := fun h f =>
  ⟨takes_of (exec_fcmp h f) fun _ _ => rfl, takes_putPred fun s => (rfl : execFclass h f s = _)⟩

/-! ## Conversions -/

/-- The element that VPACK writes in place e: one of A or B when e lies in the place that FN names, and otherwise C's
(R175). -/
def packedElem (h : Hdr) (f : FV) (c : Ctx) (l : Nat) (a b _ : Nat → FVal) (e : Nat) : Nat × FFlags :=
  let m := fmtElems (cvtSrc f.fn)
  let first := 2 * m * (fieldOf f.fn 4 4 : BitVec 4).toNat
  if first ≤ e ∧ e < first + m then convert h f (a (e - first))
  else if first + m ≤ e ∧ e < first + 2 * m then convert h f (b (e - first - m))
  else (elemBits (fmtWidth h.fmt) ((src c f.c).word l) e, 0#5)

/-- The model asks first whether the element is C's. -/
theorem ite_kept_first {α : Type} (first m e : Nat) (a b x : α) :
    (if e < first || first + 2 * m ≤ e then x else if e < first + m then a else b) =
      if first ≤ e ∧ e < first + m then a else if first + m ≤ e ∧ e < first + 2 * m then b else x := by
  simp only [Bool.or_eq_true, decide_eq_true_eq]
  by_cases hA : first ≤ e ∧ e < first + m
  · rw [if_neg (by omega), if_pos hA.2, if_pos hA]
  · rw [if_neg hA]
    by_cases hB : first + m ≤ e ∧ e < first + 2 * m
    · rw [if_neg (by omega), if_neg (by omega), if_pos hB]
    · rw [if_pos (by omega), if_neg hB]

theorem exec_vpack (h : Hdr) (f : FV) (s : State) : exec (.vpack h f) s =
    runPass (.vpack h f) .vec (fun c => putFloat c f.d h.fmt (fun l => floatWord (fmtWidth h.fmt) (fmtElems h.fmt)
      (floatLane f (cvtSrc f.fn) (packedElem h f) c l))) s := by
  change execVpack h f s = _
  simp only [execVpack, ite_kept_first]
  rfl

/-- Settles O12: each clause is the pass of its instruction, element by element. -/
theorem conversions : Obligations.Conversions := fun h f =>
  ⟨takes_putFloat fun s => (rfl : execVcvt h f s = _), takes_putFloat fun s => (rfl : execVunpk h f s = _),
    takes_putFloat (exec_vpack h f)⟩

end Sys2Proof.Machine
end

section
/-!
PROOFS. The special functions: FRCP and FSQRT round the exact function once, and the others keep the accuracy of R169
whatever the free choice of log 9; each gives R170's results at the infinities and zeros.
-/

namespace Sys2Proof.Machine

open Sys2Proof Sys2Proof.Claims

/-! ## Completion -/

theorem putSpecial_eq (h : Hdr) (f : FV) (g : Ctx → Nat → Nat → Nat × FFlags) (c : Ctx) (s : State) :
    putSpecial c f.d h.fmt (fun l => floatWord (fmtWidth h.fmt) (fmtElems h.fmt) (g c l)) s = .ok (special h f g c s) := by
  by_cases hpart : c.part = 0#96
  · exact (if_pos (beq_iff_eq.2 hpart)).trans (congrArg PassResult.ok (if_pos hpart).symm)
  · exact (if_neg (mt beq_iff_eq.1 hpart)).trans (congrArg PassResult.ok (if_neg hpart).symm)

/-- What gives a special function its completion statement. -/
theorem takes_putSpecial {i : Instr} {h : Hdr} {f : FV} {g : Ctx → Nat → Nat → Nat × FFlags}
    (hx : ∀ s, exec i s = runPass i .vec (fun c => putSpecial c f.d h.fmt
      (fun l => floatWord (fmtWidth h.fmt) (fmtElems h.fmt) (g c l))) s) : Takes i .vec (special h f g) :=
  takes_of hx (putSpecial_eq h f g)

/-! ## The free choice -/

/-- A choice among the values within bounds lies within them, when one does. -/
theorem pickWithin_mem {f : FFmt} {lo hi : FVal} (choice : Nat)
    (hsome : (codesWithin f lo hi).1 ≤ (codesWithin f lo hi).2) :
    (codesWithin f lo hi).1 ≤ pickWithin f lo hi choice ∧ pickWithin f lo hi choice ≤ (codesWithin f lo hi).2 := by
  have hindex : choice % (((codesWithin f lo hi).2 - (codesWithin f lo hi).1).toNat + 1) <
      ((codesWithin f lo hi).2 - (codesWithin f lo hi).1).toNat + 1 := Nat.mod_lt _ (Nat.succ_pos _)
  rw [pickWithin, if_neg (not_lt.2 hsome)]
  omega

/-- Whatever the choice, an approximate result that has not overflowed is one of the values within the bound. -/
theorem approxResult_inWindow (fmt : BitVec 4) (v q : Int) (bound clamp choice : Nat) :
    inWindow fmt v q bound clamp (approxResult fmt v q bound clamp choice) := by
  intro hflags hsome
  rw [approxResult] at hflags ⊢
  split at hflags
  · next hover => exact absurd hflags (bne_iff_ne.1 hover)
  · next hover => exact ⟨_, _, congrArg Prod.fst (if_neg hover), pickWithin_mem choice hsome⟩

section
variable {fmt : BitVec 4} {b : Bool} {m : Nat} {e scale : Int} {clamp choice : Nat}

/-- An inexact FRSQ is rounded down or up by the choice, and to nearest where that or the nearest would overflow. -/
theorem frsqBits_inexact (hm : m ≠ 0) (hexact : (isPow2 m && ((Nat.log2 m : Int) + e) % 2 == 0) = false) :
    let root := clampVal clamp (scaleVal scale (rsqrtVal m e))
    let r := toFmt root fmt (if choice % 2 == 0 then 3 else 2) clamp
    let d := toFmt root fmt 4 clamp
    frsqBits fmt (.fin false m e) scale clamp choice =
      (if (r.2 ||| d.2) &&& flagOF != 0#5 then d.1 else r.1, d.2 ||| flagNX) := by
  simp only [frsqBits, hm, hexact, if_false, Bool.false_eq_true]

theorem frsqBits_mem (hm : m ≠ 0) (hexact : (isPow2 m && ((Nat.log2 m : Int) + e) % 2 == 0) = false) :
    let root := clampVal clamp (scaleVal scale (rsqrtVal m e))
    (frsqBits fmt (.fin false m e) scale clamp choice).1 ∈
      [(toFmt root fmt 3 clamp).1, (toFmt root fmt 2 clamp).1, (toFmt root fmt 4 clamp).1] := by
  rw [frsqBits_inexact hm hexact]
  generalize clampVal clamp (scaleVal scale (rsqrtVal m e)) = root
  by_cases hover : ((toFmt root fmt (if choice % 2 == 0 then 3 else 2) clamp).2 ||| (toFmt root fmt 4 clamp).2) &&&
      flagOF != 0#5
  · simp only [if_pos hover, List.mem_cons, true_or, or_true]
  · rw [if_neg hover]
    split
    · exact List.mem_cons_self
    · exact List.mem_cons_of_mem _ List.mem_cons_self

theorem inWindow_of_eq {v q : Int} {bound : Nat} {r : Nat × FFlags}
    (hr : r = approxResult fmt v q bound clamp choice) : inWindow fmt v q bound clamp r :=
  hr ▸ approxResult_inWindow fmt v q bound clamp choice

theorem fexp2Bits_inexact (hm : m ≠ 0) (hwhole : isWhole m e = false)
    (hgrid : (ffmt fmt).qmin ≤ satInt (splitFix b m e).1 (-1000) 1000 + scale) :
    let v : Int := exp2Fix (splitFix b m e).2
    let q : Int := satInt (splitFix b m e).1 (-1000) 1000 + scale - 96
    fexp2Bits fmt (.fin b m e) scale clamp choice =
      approxResult fmt v q (twoUlp (ffmt fmt) v q - 2 ^ 12) clamp choice := by
  simp only [fexp2Bits, hm, hwhole, not_lt.2 hgrid, if_false, Bool.false_eq_true]

theorem flog2Bits_inexact (hm : m ≠ 0) (hpow : isPow2 m = false) :
    flog2Bits fmt (.fin false m e) scale clamp choice =
      approxResult fmt (log2Fix m e) (scale - 48)
        (max (twoUlp (ffmt fmt) (log2Fix m e) (scale - 48)) (2 ^ (26 - scale).toNat) - 2) clamp choice := by
  simp only [flog2Bits, hm, hpow, if_false, Bool.false_eq_true]

theorem fsinBits_inexact (hwhole : isWhole m e = false) (hhalf : isWhole m (e + 1) = false)
    (hsmall : decide ((bitLen m : Int) + e < -40) = false) :
    fsinBits fmt (.fin b m e) scale clamp choice =
      approxResult fmt (sinPi b m e) (scale - 96) (2 ^ (74 - scale).toNat - 2 ^ 12) clamp choice := by
  simp only [fsinBits, hwhole, hhalf, of_decide_eq_false hsmall, if_false, Bool.false_eq_true]

theorem fsinBits_small (hwhole : isWhole m e = false) (hhalf : isWhole m (e + 1) = false)
    (hsmall : decide ((bitLen m : Int) + e < -40) = true) :
    fsinBits fmt (.fin b m e) scale clamp choice =
      approxResult fmt (if b then -((m * piFix : Nat) : Int) else (m * piFix : Nat)) (e + scale - 96)
        (2 ^ (74 - scale - e).toNat - m) clamp choice := by
  simp only [fsinBits, hwhole, hhalf, of_decide_eq_true hsmall, if_true, if_false, Bool.false_eq_true]

theorem fcosBits_inexact (hwhole : isWhole m e = false) (hhalf : isWhole m (e + 1) = false) :
    let x : Int := gridInt b m e (min e (-1)) + 2 ^ (-1 - min e (-1)).toNat
    fcosBits fmt (.fin b m e) scale clamp choice =
      approxResult fmt (sinPi (x < 0) x.natAbs (min e (-1))) (scale - 96) (2 ^ (74 - scale).toNat - 2 ^ 12)
        clamp choice := by
  simp only [fcosBits, hwhole, hhalf, if_false, Bool.false_eq_true]

end

/-! ## Infinities and zeros (R170) -/

/-- What a special function delivers without SCALE and CLAMP: an infinity, a zero and a one of a format that it takes. -/
theorem finishVal_inf : ∀ fmt ∈ [6#4, 7#4, 8#4], ∀ b, finishVal (.inf b) fmt 0 0 4 = ((ffmt fmt).infBits b, 0#5) := by
  decide
theorem finishVal_zero : ∀ fmt ∈ [6#4, 7#4, 8#4], ∀ b, finishVal (.fin b 0 0) fmt 0 0 4 = ((ffmt fmt).sign b, 0#5) := by
  decide
theorem finishVal_one : ∀ fmt ∈ [6#4, 7#4, 8#4],
    finishVal (.fin false 1 0) fmt 0 0 4 = ((ffmt fmt).bias * 2 ^ (ffmt fmt).frac, 0#5) := by
  decide

/-- A zero is an even integer. -/
theorem isWhole_zero (e : Int) : isWhole 0 e = true := by simp [isWhole]
theorem floorInt_zero (b : Bool) (e : Int) : floorInt b 0 e = 0 := by cases b <;> simp [floorInt, gridInt]

section
variable {fmt : BitVec 4} {b : Bool} {e : Int} {choice : Nat} (hfmt : fmt ∈ [6#4, 7#4, 8#4])
include hfmt

theorem frsqBits_posInf : frsqBits fmt (.inf false) 0 0 choice = (0, 0#5) := finishVal_zero fmt hfmt false
theorem frsqBits_zero : frsqBits fmt (.fin b 0 e) 0 0 choice = ((ffmt fmt).infBits b, flagDZ) := by
  simp [frsqBits, finishVal_inf fmt hfmt]

theorem fexp2Bits_negInf : fexp2Bits fmt (.inf true) 0 0 choice = (0, 0#5) := finishVal_zero fmt hfmt false
theorem fexp2Bits_posInf : fexp2Bits fmt (.inf false) 0 0 choice = ((ffmt fmt).infBits false, 0#5) :=
  finishVal_inf fmt hfmt false
theorem fexp2Bits_zero : fexp2Bits fmt (.fin b 0 e) 0 0 choice = ((ffmt fmt).bias * 2 ^ (ffmt fmt).frac, 0#5) := by
  rw [fexp2Bits, if_pos rfl, finishVal_one fmt hfmt]

theorem flog2Bits_posInf : flog2Bits fmt (.inf false) 0 0 choice = ((ffmt fmt).infBits false, 0#5) :=
  finishVal_inf fmt hfmt false
theorem flog2Bits_zero : flog2Bits fmt (.fin b 0 e) 0 0 choice = ((ffmt fmt).infBits true, flagDZ) := by
  simp [flog2Bits, finishVal_inf fmt hfmt]

theorem fsinBits_zero : fsinBits fmt (.fin b 0 e) 0 0 choice = ((ffmt fmt).sign b, 0#5) := by
  rw [fsinBits, if_pos (isWhole_zero e), finishVal_zero fmt hfmt]
theorem fcosBits_zero : fcosBits fmt (.fin b 0 e) 0 0 choice = ((ffmt fmt).bias * 2 ^ (ffmt fmt).frac, 0#5) := by
  rw [fcosBits, if_pos (isWhole_zero e), floorInt_zero]
  exact finishVal_one fmt hfmt

end

/-- Settles O13: the passes, then for every choice the accuracy of each function, then R170's results in its order. -/
theorem specialFunctions : Obligations.SpecialFunctions := fun h f =>
  ⟨takes_putSpecial fun s => (rfl : execFrcp h f s = _), takes_putSpecial fun s => (rfl : execFsqrt h f s = _),
    takes_putSpecial fun s => (rfl : execFrsq h f s = _), takes_putSpecial fun s => (rfl : execFexp2 h f s = _),
    takes_putSpecial fun s => (rfl : execFlog2 h f s = _), takes_putSpecial fun s => (rfl : execFsin h f s = _),
    takes_putSpecial fun s => (rfl : execFcos h f s = _),
    fun _ _ _ _ _ _ _ hm =>
      ⟨fun hpos hexact => hpos ▸ frsqBits_mem hm hexact,
        fun hwhole hgrid => inWindow_of_eq (fexp2Bits_inexact hm hwhole hgrid),
        fun hpos hpow => hpos ▸ inWindow_of_eq (flog2Bits_inexact hm hpow),
        fun hwhole hhalf hlarge => inWindow_of_eq (fsinBits_inexact hwhole hhalf hlarge),
        fun hwhole hhalf hsmall => inWindow_of_eq (fsinBits_small hwhole hhalf hsmall),
        fun hwhole hhalf => inWindow_of_eq (fcosBits_inexact hwhole hhalf)⟩,
    fun _ _ _ hfmt =>
      ⟨rfl, frsqBits_posInf hfmt, frsqBits_zero hfmt, fexp2Bits_negInf hfmt, fexp2Bits_posInf hfmt, fexp2Bits_zero hfmt,
        rfl, flog2Bits_posInf hfmt, flog2Bits_zero hfmt, rfl, fsinBits_zero hfmt, rfl, fcosBits_zero hfmt⟩⟩

end Sys2Proof.Machine
end

section
/-!
PROOFS. Scalar arithmetic and logic: the table of R182, its exact integers and bit lists as operations on words.
-/

namespace Sys2Proof.Machine

open Sys2Proof Sys2Proof.Claims

/-! ## Passes that change the warp alone -/

/-- What gives an instruction that writes registers of its warp its completion statement, -/
theorem takes_modWarp {i : Instr} {kind : PassKind} {g : Ctx → Warp → Warp}
    (hx : ∀ s, exec i s = runPass i kind (fun c s => .ok (s.modWarp c.k (g c))) s) : Takes i kind (onWarp g) :=
  takes_of hx fun _ _ => rfl

/-- and one that writes a scalar computed from three. -/
theorem takes_scalarEffect {i : Instr} {f : FV} {op g : Word → Word → Word → Word}
    (hx : ∀ s, exec i s = runPass i .scal (scalarEffect f op) s) (hop : ∀ a b x, op a b x = g a b x) :
    Takes i .scal (toScalar f g) := by
  obtain rfl : op = g := by funext a b x; exact hop a b x
  exact takes_modWarp hx

/-! ## Scalars as integers of FMT -/

/-- Extension to a wider vector keeps the integer that FMT reads in a scalar. -/
theorem ofInt_scalarInt (v : Nat) (h : Hdr) (x : Word) :
    BitVec.ofInt v (scalarInt h x) = if h.fmt == 0#4 then x.signExtend v else x.setWidth v := by
  rw [scalarInt, apply_ite (BitVec.ofInt v), BitVec.ofInt_natCast, BitVec.ofNat_toNat]
  rfl

theorem scalarInt_le (h : Hdr) (a b : Word) :
    scalarInt h a ≤ scalarInt h b ↔ (if h.fmt == 0#4 then a.sle b else a.ule b) = true := by
  unfold scalarInt
  split
  · exact BitVec.sle_iff_toInt_le.symm
  · rw [Int.ofNat_le, BitVec.ule_iff_toNat_le]

theorem scalarInt_lt (h : Hdr) (a b : Word) :
    scalarInt h a < scalarInt h b ↔ (if h.fmt == 0#4 then a.slt b else a.ult b) = true := by
  unfold scalarInt
  split
  · exact BitVec.slt_iff_toInt_lt.symm
  · rw [Int.ofNat_lt, BitVec.ult_iff_toNat_lt]

theorem scalarInt_inj (h : Hdr) (a b : Word) : scalarInt h a = scalarInt h b ↔ a = b := by
  unfold scalarInt
  split
  · exact BitVec.toInt_inj
  · rw [Int.ofNat_inj, BitVec.toNat_inj]

/-! ## Products -/

theorem extractLsb'_ofInt (x : Int) : (BitVec.ofInt 64 x).extractLsb' 32 32 = BitVec.ofInt 32 (x / 2 ^ 32) := by
  apply BitVec.eq_of_toNat_eq
  rw [BitVec.extractLsb'_toNat, BitVec.toNat_ofInt, BitVec.toNat_ofInt, Nat.shiftRight_eq_div_pow]
  omega

/-- Bits [63:32] of the exact product are those of the product of the operands extended to 64 bits. -/
theorem mulHigh_eq (h : Hdr) (a b : Word) : mulHigh h a b =
    if h.fmt == 0#4 then (a.signExtend 64 * b.signExtend 64).extractLsb' 32 32
    else (a.setWidth 64 * b.setWidth 64).extractLsb' 32 32 := by
  rw [mulHigh, ← extractLsb'_ofInt, BitVec.ofInt_mul, ofInt_scalarInt, ofInt_scalarInt]
  split <;> rfl

/-! ## Comparisons -/

/-- The conditions of R75 on whether the first operand is below the second, and equal to it. -/
def condHolds (cond : Nat) (lt eq : Bool) : Bool :=
  match cond with
  | 0 => eq
  | 1 => !eq
  | 2 => lt
  | 3 => lt || eq
  | 4 => !lt && !eq
  | _ => !lt

theorem icmpVal_eq_condHolds (cond : Nat) (x y : Int) : icmpVal cond x y = condHolds cond (x < y) (x == y) := by
  unfold icmpVal condHolds
  split
  · rfl
  · rfl
  · rfl
  · rw [Bool.eq_iff_iff]
    simp [Int.le_iff_lt_or_eq]
  · rw [Bool.eq_iff_iff]
    have hgt : y < x ↔ y ≤ x ∧ x ≠ y := by omega
    simpa using hgt
  · rw [Bool.eq_iff_iff]
    simp

theorem icmpVal_scalarInt (h : Hdr) (cond : Nat) (a b : Word) : icmpVal cond (scalarInt h a) (scalarInt h b) =
    condHolds cond (if h.fmt == 0#4 then a.slt b else a.ult b) (a == b) := by
  have hlt : decide (scalarInt h a < scalarInt h b) = if h.fmt == 0#4 then a.slt b else a.ult b := by
    rw [Bool.eq_iff_iff, decide_eq_true_iff, scalarInt_lt]
  have heq : (scalarInt h a == scalarInt h b) = (a == b) := by
    rw [Bool.eq_iff_iff, beq_iff_eq, beq_iff_eq, scalarInt_inj]
  rw [icmpVal_eq_condHolds, hlt, heq]

/-! ## Shifts -/

/-- A word shifted arithmetically out of its width leaves its sign in every bit. -/
theorem sshiftRight_of_width_le {a : Word} {n : Nat} (hn : 32 ≤ n) :
    a.sshiftRight n = if a.getLsbD 31 then 0xFFFFFFFF#32 else 0#32 := by
  have hmsb : a.getLsbD 31 = a.msb := (BitVec.msb_eq_getLsbD_last a).symm
  rw [hmsb]
  cases hsign : a.msb
  · rw [BitVec.sshiftRight_eq_of_msb_false hsign, BitVec.ushiftRight_eq_zero hn]
    rfl
  · rw [BitVec.sshiftRight_eq_of_msb_true hsign, BitVec.ushiftRight_eq_zero hn]
    rfl

/-! ## The instructions -/

section
variable (h : Hdr) (f : FV)

theorem smov_takes : Takes (.smov h f) .scal (toScalar f (fun a _ _ => a)) :=
  takes_scalarEffect (fun s => (rfl : execSmov h f s = _)) fun _ _ _ => rfl

theorem smovi_takes (fi : FI) : Takes (.smovi h fi) .scal (onWarp (fun c w => w.setS c.e fi.d.toNat fi.imm)) :=
  takes_modWarp fun s => (rfl : execSmovi h fi s = _)

theorem sadd_takes : Takes (.sadd h f) .scal (toScalar f (fun a b _ => BitVec.ofNat 32 (a.toNat + b.toNat))) :=
  takes_scalarEffect (fun s => (rfl : execSadd h f s = _)) fun a b _ => by simp [BitVec.ofNat_add]

theorem ssub_takes : Takes (.ssub h f) .scal
    (toScalar f (fun a b _ => BitVec.ofInt 32 ((a.toNat : Int) - b.toNat))) :=
  takes_scalarEffect (fun s => (rfl : execSsub h f s = _)) fun a b _ => 
    BitVec.eq_of_toInt_eq (by rw [BitVec.toInt_sub, BitVec.toInt_ofInt]; simp [BitVec.toInt_eq_toNat_bmod])

theorem smul_takes : Takes (.smul h f) .scal (toScalar f (fun a b _ => BitVec.ofNat 32 (a.toNat * b.toNat))) :=
  takes_scalarEffect (fun s => (rfl : execSmul h f s = _)) fun a b _ => by simp [BitVec.ofNat_mul]

theorem smulh_takes : Takes (.smulh h f) .scal (toScalar f (fun a b _ =>
    if h.fmt == 0#4 then (a.signExtend 64 * b.signExtend 64).extractLsb' 32 32
    else (a.setWidth 64 * b.setWidth 64).extractLsb' 32 32)) :=
  takes_scalarEffect (fun s => (rfl : execSmulh h f s = _)) fun a b _ => mulHigh_eq h a b

theorem sand_takes : Takes (.sand h f) .scal (toScalar f (fun a b _ => a &&& b)) :=
  takes_scalarEffect (fun s => (rfl : execSand h f s = _)) fun _ _ _ => rfl

theorem sor_takes : Takes (.sor h f) .scal (toScalar f (fun a b _ => a ||| b)) :=
  takes_scalarEffect (fun s => (rfl : execSor h f s = _)) fun _ _ _ => rfl

theorem sxor_takes : Takes (.sxor h f) .scal (toScalar f (fun a b _ => a ^^^ b)) :=
  takes_scalarEffect (fun s => (rfl : execSxor h f s = _)) fun _ _ _ => rfl

theorem sshl_takes : Takes (.sshl h f) .scal
    (toScalar f (fun a b _ => if 32 ≤ b.toNat % 256 then 0#32 else a <<< (b.toNat % 256))) :=
  takes_scalarEffect (fun s => (rfl : execSshl h f s = _)) fun a b _ => by
    rw [shiftAmount]
    split
    · next hout => exact BitVec.shiftLeft_eq_zero hout
    · rfl

theorem sshr_takes : Takes (.sshr h f) .scal
    (toScalar f (fun a b _ => if 32 ≤ b.toNat % 256 then 0#32 else a >>> (b.toNat % 256))) :=
  takes_scalarEffect (fun s => (rfl : execSshr h f s = _)) fun a b _ => by
    rw [shiftAmount]
    split
    · next hout => exact BitVec.ushiftRight_eq_zero hout
    · rfl

theorem ssar_takes : Takes (.ssar h f) .scal (toScalar f (fun a b _ =>
    if 32 ≤ b.toNat % 256 then (if a.getLsbD 31 then 0xFFFFFFFF#32 else 0#32) else a.sshiftRight (b.toNat % 256))) :=
  takes_scalarEffect (fun s => (rfl : execSsar h f s = _)) fun a b _ => by
    rw [shiftAmount]
    split
    · next hout => exact sshiftRight_of_width_le hout
    · rfl

theorem smin_takes : Takes (.smin h f) .scal
    (toScalar f (fun a b _ => if (if h.fmt == 0#4 then a.sle b else a.ule b) then a else b)) :=
  takes_scalarEffect (fun s => (rfl : execSmin h f s = _)) fun a b _ => by simp only [scalarInt_le]

theorem smax_takes : Takes (.smax h f) .scal
    (toScalar f (fun a b _ => if (if h.fmt == 0#4 then a.sle b else a.ule b) then b else a)) :=
  takes_scalarEffect (fun s => (rfl : execSmax h f s = _)) fun a b _ => by simp only [scalarInt_le]

theorem scmp_takes : Takes (.scmp h f) .scal (toScalar f (fun a b _ =>
    if condHolds f.fn.toNat (if h.fmt == 0#4 then a.slt b else a.ult b) (a == b) then 1#32 else 0#32)) :=
  takes_scalarEffect (fun s => (rfl : execScmp h f s = _)) fun a b _ => by rw [boolWord, icmpVal_scalarInt]

theorem ssel_takes : Takes (.ssel h f) .scal (toScalar f (fun a b x => if x = 0#32 then b else a)) :=
  takes_scalarEffect (fun s => (rfl : execSsel h f s = _)) fun a b x => by simp only [bne_iff_ne, ite_not]

theorem spopc_takes : Takes (.spopc h f) .scal (toScalar f (fun a _ _ =>
    BitVec.ofNat 32 ((List.range 32).filter (fun i => a.getLsbD i)).length)) :=
  takes_scalarEffect (fun s => (rfl : execSpopc h f s = _)) fun a _ _ =>
    congrArg (BitVec.ofNat 32) (popCount_eq_length a.toNat 32)

theorem sclz_takes : Takes (.sclz h f) .scal (toScalar f (fun a _ _ =>
    BitVec.ofNat 32 (((List.range 32).find? (fun i => a.getLsbD (31 - i))).getD 32))) :=
  takes_scalarEffect (fun s => (rfl : execSclz h f s = _)) fun a _ _ =>
    congrArg (BitVec.ofNat 32) (leadingZeros_eq_find a.isLt)

end

/-- Settles O1: each clause is its instruction's lemma above. -/
theorem scalarResults : Obligations.ScalarResults := fun h f fi =>
  ⟨smov_takes h f, smovi_takes h fi, sadd_takes h f, ssub_takes h f, smul_takes h f, smulh_takes h f, sand_takes h f,
    sor_takes h f, sxor_takes h f, sshl_takes h f, sshr_takes h f, ssar_takes h f, smin_takes h f, smax_takes h f,
    scmp_takes h f, ssel_takes h f, spopc_takes h f, sclz_takes h f⟩

end Sys2Proof.Machine
end

section
/-!
PROOFS. Predicate and address instructions (R183, R184, R186).
-/

namespace Sys2Proof.Machine

open Sys2Proof Sys2Proof.Claims

/-! ## Predicates -/

theorem plog_takes (h : Hdr) (f : FV) : Takes (.plog h f) .scal (onWarp (fun c w => w.putP f.d.toNat c.part
    (mkLanes (fun l => f.fn.getLsbD (((predField c.view f.a.toNat).getLsbD l).toNat +
      2 * ((predField c.view f.b.toNat).getLsbD l).toNat + 4 * ((predField c.view f.c.toNat).getLsbD l).toNat))))) :=
  takes_of (fun s => (rfl : execPlog h f s = _)) fun c s => by
    simp only [table3_eq]
    rfl

section
variable (h : Hdr) (f : FV)

theorem pmov_predicate : TakesIf (.pmov h f) .scal (fun _ _ => f.fn = 0#8)
    (onWarp (fun c w => w.putP f.d.toNat c.part (predField c.view f.a.toNat))) :=
  takesIf_of (fun s => (rfl : execPmov h f s = _)) fun c s hfn => by
    rw [hfn]
    rfl

theorem pmov_toScalars : TakesIf (.pmov h f) .scal (fun _ _ => f.fn = 1#8) (onWarp (fun c w =>
    w.setSs c.e f.d.toNat ([0, 1, 2].map (fun k => (predField c.view f.a.toNat).extractLsb' (32 * k) 32)))) :=
  takesIf_of (fun s => (rfl : execPmov h f s = _)) fun c s hfn => by
    rw [hfn]
    simp only [wordsOf_lanes]
    rfl

theorem pmov_ofScalars : TakesIf (.pmov h f) .scal (fun _ _ => f.fn = 2#8)
    (onWarp (fun c w => w.putP f.d.toNat c.part (BitVec.ofNat 96 (c.view.svals c.e f.a.toNat 3)))) :=
  takesIf_of (fun s => (rfl : execPmov h f s = _)) fun c s hfn => by
    rw [hfn]
    rfl

theorem pmov_spread : TakesIf (.pmov h f) .scal (fun _ _ => f.fn = 3#8) (onWarp (fun c w =>
    w.putP f.d.toNat c.part (if c.view.sval c.e f.a.toNat = 0#32 then 0#96 else BitVec.allOnes 96))) :=
  takesIf_of (fun s => (rfl : execPmov h f s = _)) fun c s hfn => by
    rw [hfn]
    simp only [bne_iff_ne, ite_not]
    rfl

end

/-! ## Address registers -/

/-- The address of ALEA is the exact sum of base, scaled index and offset modulo 2^80 (R186). -/
theorem aleaSum_eq (h : Hdr) (a : A80) (x : Word) (n : Nat) (o : BitVec 24) :
    a + (extIndex h x <<< n) + o.signExtend 80 =
      BitVec.ofInt 80 (a.toNat + (if h.fmt == 0#4 then x.toInt else x.toNat) * 2 ^ n + o.toInt) := by
  have hbase : BitVec.ofInt 80 a.toNat = a := by simp
  have hscale : BitVec.ofInt 80 (2 ^ n) = BitVec.twoPow 80 n := by
    apply BitVec.eq_of_toNat_eq
    rw [BitVec.toNat_twoPow, BitVec.toNat_ofInt]
    exact_mod_cast rfl
  have hindex : BitVec.ofInt 80 (scalarInt h x) = extIndex h x := ofInt_scalarInt 80 h x
  rw [BitVec.ofInt_add, BitVec.ofInt_add, BitVec.ofInt_mul, hbase, hscale, BitVec.shiftLeft_eq_mul_twoPow, ← hindex]
  rfl

theorem alea_takes (h : Hdr) (fm : FM) : Takes (.alea h fm) .scal (onWarp (fun c w => w.setA fm.d.toNat
    (BitVec.ofInt 80 ((c.view.aval fm.a.toNat).toNat + (if h.fmt == 0#4 then (c.view.sval c.e fm.x.toNat).toInt
      else (c.view.sval c.e fm.x.toNat).toNat) * 2 ^ fm.ish.toNat + fm.offset.toInt)))) :=
  takes_of (fun s => (rfl : execAlea h fm s = _)) fun c s => by
    simp only [aleaSum_eq]
    rfl

/-- The words of an address, the third with its upper half zero. -/
theorem wordsOf_address (a : A80) : wordsOf 3 a.toNat =
    [a.extractLsb' 0 32, a.extractLsb' 32 32, (a.extractLsb' 64 16).setWidth 32] := by
  have htop : a.extractLsb' 64 32 = (a.extractLsb' 64 16).setWidth 32 := by
    apply BitVec.eq_of_toNat_eq
    simp only [BitVec.toNat_setWidth, BitVec.extractLsb'_toNat, Nat.shiftRight_eq_div_pow]
    omega
  rw [← htop]
  simp [wordsOf, BitVec.extractLsb', Nat.shiftRight_eq_div_pow, Nat.div_div_eq_div_mul]

section
variable (h : Hdr) (f : FV)

theorem amov_address : TakesIf (.amov h f) .scal (fun _ _ => f.fn = 0#8)
    (onWarp (fun c w => w.setA f.d.toNat (c.view.aval f.a.toNat))) :=
  takesIf_of (fun s => (rfl : execAmov h f s = _)) fun c s hfn => by
    rw [hfn]
    rfl

theorem amov_ofScalars : TakesIf (.amov h f) .scal (fun _ _ => f.fn = 1#8)
    (onWarp (fun c w => w.setA f.d.toNat (BitVec.ofNat 80 (c.view.svals c.e f.a.toNat 3)))) :=
  takesIf_of (fun s => (rfl : execAmov h f s = _)) fun c s hfn => by
    rw [hfn]
    rfl

theorem amov_toScalars : TakesIf (.amov h f) .scal (fun _ _ => f.fn = 2#8) (onWarp (fun c w =>
    let a := c.view.aval f.a.toNat
    w.setSs c.e f.d.toNat [a.extractLsb' 0 32, a.extractLsb' 32 32, (a.extractLsb' 64 16).setWidth 32])) :=
  takesIf_of (fun s => (rfl : execAmov h f s = _)) fun c s hfn => by
    rw [hfn]
    simp only [wordsOf_address]
    rfl

end

section
variable (h : Hdr) (fi : FI)

theorem amovi_takes : Takes (.amovi h fi) .scal (onWarp (fun _ w => w.setA fi.d.toNat (fi.imm.signExtend 80))) :=
  takes_modWarp fun s => (rfl : execAmovi h fi s = _)

theorem ahi_middle : TakesIf (.ahi h fi) .scal (fun _ _ => fi.fn = 0#8) (onWarp (fun c w =>
    let a := c.view.aval fi.a.toNat
    w.setA fi.d.toNat (a.extractLsb' 64 16 ++ (fi.imm ++ a.extractLsb' 0 32)))) :=
  takesIf_of (fun s => (rfl : execAhi h fi s = _)) fun c s hfn => by
    rw [hfn]
    rfl

theorem ahi_top : TakesIf (.ahi h fi) .scal (fun _ _ => fi.fn = 1#8) (onWarp (fun c w =>
    w.setA fi.d.toNat (fi.imm.extractLsb' 0 16 ++ (c.view.aval fi.a.toNat).extractLsb' 0 64))) :=
  takesIf_of (fun s => (rfl : execAhi h fi s = _)) fun c s hfn => by
    rw [hfn]
    rfl

end

/-- Settles O2: each clause is the lemma above of its instruction and FN. -/
theorem predicateAndAddressResults : Obligations.PredicateAndAddressResults := fun h f fi fm =>
  ⟨plog_takes h f, pmov_predicate h f, pmov_toScalars h f, pmov_ofScalars h f, pmov_spread h f, alea_takes h fm,
    amov_address h f, amov_ofScalars h f, amov_toScalars h f, amovi_takes h fi, ahi_middle h fi, ahi_top h fi⟩

end Sys2Proof.Machine
end

section
/-!
PROOFS. Special registers: what SRD waits for, what SRD and SWR leave, and their passes without a live lane (R179, R187,
R189 to R191, R482 to R484).
-/

namespace Sys2Proof.Machine

open Sys2Proof Sys2Proof.Claims

/-- What SRD of special register n waits for: the float results of the warp, or all that may still count an event of it
(R171, R482, R484; log 29). -/
theorem srdWaits_iff {s : State} {k n : Nat} : srdWaits s k n = true ↔
    (n = 0x10 ∧ (s.warp k).floatsOut = true) ∨
      (0x41 ≤ n ∧ n ≤ 0x44 ∧ ((s.warp k).pend ≠ [] ∨ ∃ x ∈ (s.core (coreOf k)).copies, x.warp = k)) := by
  simp only [srdWaits, Bool.or_eq_true, Bool.and_eq_true, decide_eq_true_eq, Bool.not_eq_true',
    List.isEmpty_eq_false_iff, List.any_eq_true, beq_iff_eq, and_assoc]

/-- The special register that SRD and SWR name (R187). -/
def spNumber (f : FX) : Nat := (f.ctl.extractLsb' 0 12).toNat

theorem srd_reads (h : Hdr) (f : FX) : TakesIf (.srd h f) .scal (fun c s => ¬srdWaits s c.k (spNumber f)) (fun c s =>
    onWarp (fun c w => w.setSs c.e f.e0.toNat
      (wordsOf ((spWords (spNumber f)).getD 1) (spRead c s (spNumber f)))) c s) :=
  takesIf_of (fun s => (rfl : execSrd h f s = _)) fun _ _ hgo => if_neg hgo

theorem swr_takes (h : Hdr) (f : FX) : Takes (.swr h f) .scal (fun c s => onWarp (fun c w =>
    spWrite w (spNumber f) (c.view.svals c.e f.e0.toNat ((spWords (spNumber f)).getD 1))) c
    (swrCount c (spNumber f) s)) :=
  takes_of (fun s => (rfl : execSwr h f s = _)) fun _ _ => rfl

/-- A scalar instruction only ends a pass without a live lane (R179). -/
theorem idles_of_scal {i : Instr} {eff : Ctx → State → PassResult} (hx : ∀ s, exec i s = runPass i .scal eff s) :
    Idles i .scal := by
  intro s q hq c hchecks hidle _
  have hlive : noLanes c.live = true := by
    rcases hidle with hlive | ⟨hkind, -⟩
    · rw [noLanes, hlive]
      rfl
    · cases hkind
  rw [hx]
  unfold runPass runChecked
  rw [hq]
  dsimp only
  rw [hchecks]
  dsimp only
  rw [hlive, ite_self]
  rfl

/-- Settles O3: the passes with a live lane, SRD's where it waits for nothing, then those without. -/
theorem specialRegisterResults : Obligations.SpecialRegisterResults := fun h f =>
  ⟨fun s q hq hclears hgo => srd_reads h f s q hq hclears (mt srdWaits_iff.1 hgo), swr_takes h f,
    idles_of_scal (fun s => (rfl : execSrd h f s = _)), idles_of_scal (fun s => (rfl : execSwr h f s = _))⟩

end Sys2Proof.Machine
end

section
/-!
PROOFS. The transform pipe: a request that finds room in its core's queue is queued with its sources read (R194, R195,
R350), and the checks that XDEC, XTOPK and XPLANE make before it (R194, R197, R199, R205, R206).
-/

namespace Sys2Proof.Machine

open Sys2Proof Sys2Proof.Claims

/-! ## Requests -/

theorem sendRequest_queues {c : Ctx} {s : State} (hroom : pipeRoom c s) (i : Instr) (lanes : Lanes) (vs : List VReg)
    (ss : List Word) (vd : TagList) (sd : List Nat) (float : Bool) :
    sendRequest c i lanes vs ss vd sd float s = .ok (piped i lanes vs ss vd sd float c s) := by
  obtain ⟨hlength, hacquire⟩ := hroom
  have hgo : ((s.warp c.k).acquireOut || decide (8 ≤ (s.core (coreOf c.k)).pipe.length)) = false := by
    rw [hacquire, decide_eq_false (Nat.not_le.2 hlength)]
    rfl
  exact if_neg (Bool.eq_false_iff.1 hgo)

/-- An instruction that sends a request when a live lane takes part, and once checks of its own pass (R194, R197 to
R205). -/
theorem takesIf_request {i : Instr} {own : Ctx → State → Prop} {vs : Ctx → List VReg} {ss : Ctx → List Word}
    {vd : Ctx → TagList} {sd : List Nat} {float : Bool} {go : Ctx → State → PassResult}
    (hx : ∀ s, exec i s = runPass i .once (onceEffect go) s)
    (hown : ∀ c s, own c s → go c s = sendRequest c i c.live (vs c) (ss c) (vd c) sd float s) :
    TakesIf i .once (fun c s => pipeFree c s ∧ own c s)
      (fun c s => piped i c.live (vs c) (ss c) (vd c) sd float c s) :=
  takesIf_of hx fun c s ⟨⟨hlive, hroom⟩, hpre⟩ =>
    (onceEffect_live hlive).trans ((hown c s hpre).trans (sendRequest_queues hroom ..))

/-- The same of an instruction that makes no check of its own. -/
theorem takesIf_request_unchecked {i : Instr} {vs : Ctx → List VReg} {ss : Ctx → List Word} {vd : Ctx → TagList}
    {sd : List Nat} {float : Bool}
    (hx : ∀ s, exec i s = runPass i .once
      (onceEffect fun c => sendRequest c i c.live (vs c) (ss c) (vd c) sd float) s) :
    TakesIf i .once pipeFree (fun c s => piped i c.live (vs c) (ss c) (vd c) sd float c s) :=
  takesIf_of hx fun _ _ ⟨hlive, hroom⟩ => (onceEffect_live hlive).trans (sendRequest_queues hroom ..)

theorem map_span {α : Type} (g : Nat → α) (a n : Nat) : (span a n).map g = (List.range n).map (fun j => g (a + j)) :=
  List.map_map

/-! ## XDEC -/

/-- The counts, the stream's alignment and its place in shared memory that XDEC checks (R197, R199). -/
def streamReady (f : FX) (c : Ctx) (s : State) : Prop :=
  (∀ l, c.live.getLsbD l = true → ((c.view.src c.e (f.e1.toNat + 2)).word l).toNat % 128 ≤ 64) ∧
  (c.view.sval c.e f.e3.toNat).toNat % 4 = 0 ∧
  ((c.view.sval c.e (f.e3.toNat + 1)).toNat = 0 ∨
    (c.view.sval c.e f.e3.toNat).toNat + 4 * (c.view.sval c.e (f.e3.toNat + 1)).toNat ≤
      (s.warpLaunch c.k).info.sarea)

theorem any_lanesOf_eq_false {m : Lanes} {p : Nat → Bool} (h : ∀ l, m.getLsbD l = true → p l = false) :
    (lanesOf m).any p = false :=
  List.any_eq_false.2 fun l hl => Bool.eq_false_iff.1 (h l (List.mem_filter.1 hl).2)

/-- With its checks passed XDEC sends its buffers, its cursor and carry, and the place and length of its stream. -/
theorem xdec_sends (h : Hdr) (f : FX) : TakesIf (.xdec h f) .once (fun c s => pipeFree c s ∧ streamReady f c s)
    (fun c s => piped (.xdec h f) c.live ([0, 1, 2].map (fun j => c.handed (f.e1.toNat + j)))
      [c.view.sval c.e f.e2.toNat, c.view.sval c.e (f.e2.toNat + 1), c.view.sval c.e f.e3.toNat,
        c.view.sval c.e (f.e3.toNat + 1)]
      [(f.e0.toNat, 1#4), (f.e1.toNat, 14#4), (f.e1.toNat + 1, 14#4), (f.e1.toNat + 2, 1#4)]
      [f.e2.toNat, f.e2.toNat + 1] false c s) := by
  refine takesIf_request (fun s => (rfl : execXdec h f s = _)) ?_
  rintro c s ⟨hcounts, haligned, hbounds⟩
  have hcount := any_lanesOf_eq_false (p := fun l =>
    decide (64 < ((c.view.src c.e (f.e1.toNat + 2)).word l).toNat % 128))
    fun l hl => decide_eq_false (Nat.not_lt.2 (hcounts l hl))
  have hinside : ((c.view.sval c.e (f.e3.toNat + 1)).toNat != 0 && decide ((s.warpLaunch c.k).info.sarea <
      (c.view.sval c.e f.e3.toNat).toNat + 4 * (c.view.sval c.e (f.e3.toNat + 1)).toNat)) = false := by
    rcases hbounds with hempty | hlies
    · rw [hempty]
      rfl
    · rw [decide_eq_false (Nat.not_lt.2 hlies), Bool.and_false]
  have hbuffers : (span f.e1.toNat 3).map c.handed = [0, 1, 2].map (fun j => c.handed (f.e1.toNat + j)) :=
    map_span c.handed f.e1.toNat 3
  simp only [xdecEffect, hcount, haligned, hinside, hbuffers, bne_self_eq_false, Bool.false_eq_true, if_false,
    BitVec.ofNat_toNat, BitVec.setWidth_eq]

/-! ## XSCAN -/

/-- The count of registers that XSCAN scans (R202). -/
def scanCount (f : FX) : Nat := (f.ctl.extractLsb' 0 3).toNat + 1

theorem exec_xscan (h : Hdr) (f : FX) (s : State) : exec (.xscan h f) s =
    runPass (.xscan h f) .once (onceEffect fun c =>
      sendRequest c (.xscan h f) c.live ((List.range (scanCount f)).map (fun j => c.handed (f.e1.toNat + j)))
        [c.view.sval c.e f.e2.toNat] ((List.range (scanCount f)).map (fun j => (f.e0.toNat + j, h.fmt))) [f.e2.toNat]
        (h.fmt == 6#4)) s := by
  change execXscan h f s = _
  simp only [execXscan, scanCount, map_span, fieldOf]

theorem xscan_sends (h : Hdr) (f : FX) : TakesIf (.xscan h f) .once pipeFree (fun c s =>
    piped (.xscan h f) c.live ((List.range (scanCount f)).map (fun j => c.handed (f.e1.toNat + j)))
      [c.view.sval c.e f.e2.toNat] ((List.range (scanCount f)).map (fun j => (f.e0.toNat + j, h.fmt))) [f.e2.toNat]
      (h.fmt == 6#4) c s) :=
  takesIf_request_unchecked (exec_xscan h f)

/-! ## XSORT and XTOPK -/

theorem pairDests_eq (c : Ctx) (h : Hdr) (f : FX) : pairDests c h f =
    (f.e0.toNat, h.fmt) :: (if f.e3 = 643#10 then [] else
      [(f.e3.toNat, if f.e2 = 643#10 then 14#4 else (c.view.src c.e f.e2.toNat).tag)]) := by
  simp only [pairDests, beq_iff_eq]

/-- Where XTOPK merges, no key and no value of the lanes below its count is poisoned (R194, R205). -/
def mergesClean (f : FX) (c : Ctx) (_ : State) : Prop :=
  f.ctl.getLsbD 8 = true →
    cleanIn c [f.e0.toNat, f.e3.toNat] (mkLanes (fun l => l < (f.ctl.extractLsb' 0 7).toNat + 1))

/-- The poisoned lanes that XTOPK finds in the words it merges. -/
def mergePoison (f : FX) (c : Ctx) : Lanes :=
  if f.ctl.getLsbD 8 then
    ((c.view.src c.e f.e0.toNat).poison ||| (c.view.src c.e f.e3.toNat).poison) &&& mkLanes (fun l => l < topkCount f)
  else 0#96

theorem mergePoison_of_clean {f : FX} {c : Ctx} {s : State} (hclean : mergesClean f c s) : mergePoison f c = 0#96 := by
  by_cases hmerge : f.ctl.getLsbD 8 = true
  · have hkeys := hclean hmerge f.e0.toNat (by simp)
    have hvals := hclean hmerge f.e3.toNat (by simp)
    rw [mergePoison, if_pos hmerge, topkCount, fieldOf, BitVec.and_or_distrib_right, hkeys, hvals, BitVec.or_self]
  · exact if_neg hmerge

/-- XTOPK, its poison check named. -/
theorem exec_xtopk (h : Hdr) (f : FX) (s : State) : exec (.xtopk h f) s =
    runPass (.xtopk h f) .once (onceEffect fun c s =>
      if !noLanes (mergePoison f c) then .fault s { cause := causePoison, va := 0#80, lanes := mergePoison f c }
      else sendRequest c (.xtopk h f) c.live
        ([c.handed f.e1.toNat, c.handed f.e2.toNat] ++
          (if f.ctl.getLsbD 8 then [c.handed f.e0.toNat, c.handed f.e3.toNat] else []))
        [] (pairDests c h f) [] false s) s :=
  rfl

theorem xsort_sends (h : Hdr) (f : FX) : TakesIf (.xsort h f) .once pipeFree (fun c s =>
    piped (.xsort h f) c.live [c.handed f.e1.toNat, c.handed f.e2.toNat] [] (pairDests c h f) [] false c s) :=
  takesIf_request_unchecked fun _ => rfl

theorem xtopk_sends (h : Hdr) (f : FX) : TakesIf (.xtopk h f) .once (fun c s => pipeFree c s ∧ mergesClean f c s)
    (fun c s => piped (.xtopk h f) c.live
      ([c.handed f.e1.toNat, c.handed f.e2.toNat] ++
        (if f.ctl.getLsbD 8 then [c.handed f.e0.toNat, c.handed f.e3.toNat] else []))
      [] (pairDests c h f) [] false c s) :=
  takesIf_request (exec_xtopk h f) fun c s hclean => if_neg (by
    rw [mergePoison_of_clean hclean]
    exact Bool.false_ne_true)

/-! ## XPLANE -/

/-- The registers that XPLANE reads: the planes joined, or the codes split (R206). -/
def planeSources (h : Hdr) (f : FX) : List Nat :=
  span f.e1.toNat (if f.ctl.getLsbD 0 then (f.ctl.extractLsb' 1 4).toNat else hsBits h.fmt)

theorem foldl_poison_of_cleanIn {c : Ctx} {rs : List Nat} (hclean : cleanIn c rs (BitVec.allOnes 96)) :
    rs.foldl (fun m x => m ||| (c.view.src c.e x).poison) 0#96 = 0#96 := by
  induction rs with
  | nil => rfl
  | cons r rs ih =>
    have hr : (c.view.src c.e r).poison = 0#96 := by
      rw [← BitVec.and_allOnes (x := (c.view.src c.e r).poison)]
      exact hclean r List.mem_cons_self
    rw [List.foldl_cons, hr, BitVec.or_self]
    exact ih fun x hx => hclean x (List.mem_cons_of_mem _ hx)

theorem xplane_sends (h : Hdr) (f : FX) : TakesIf (.xplane h f) .once
    (fun c s => pipeRoom c s ∧ cleanIn c (planeSources h f) (BitVec.allOnes 96))
    (fun c s => piped (.xplane h f) (BitVec.allOnes 96) ((planeSources h f).map c.handed) []
      ((span f.e0.toNat (hsBits h.fmt)).map (fun d => (d, if f.ctl.getLsbD 0 then h.fmt else 14#4))) [] false c s) :=
  takesIf_of (fun s => (rfl : execXplane h f s = _)) fun c s ⟨hroom, hclean⟩ => by
    have hnone : (!noLanes ((planeSources h f).foldl (fun m x => m ||| (c.view.src c.e x).poison) 0#96)) = false := by
      rw [foldl_poison_of_cleanIn hclean]
      rfl
    exact (if_neg (Bool.eq_false_iff.1 hnone)).trans (sendRequest_queues hroom ..)

/-- Settles O14: each clause is its instruction's lemma above. -/
theorem transformRequests : Obligations.TransformRequests := fun h f =>
  ⟨xdec_sends h f, xscan_sends h f, by simpa only [pairDests_eq] using xsort_sends h f,
    by simpa only [pairDests_eq, mergesClean] using xtopk_sends h f, xplane_sends h f⟩

end Sys2Proof.Machine
end

section
/-!
PROOFS. Faults of a warp: what trap entry writes and leaves (R208), and the end of the launch that a double fault and a
fault without a handler ask for (R212).
-/

namespace Sys2Proof.Machine

open Sys2Proof Sys2Proof.Claims

/-! ## Trap entry -/

theorem countErrorAt_eq (i n g : Nat) (s : State) : ∃ p, countErrorAt i n g s = { s with pkgs := p } := by
  unfold countErrorAt countError
  split
  · exact ⟨s.pkgs, rfl⟩
  · exact ⟨_, rfl⟩

/-- A fault that a handler takes enters trap mode; of the rest of the state it changes error counters at most, and those
for POISON-USE alone (R208, R219). -/
theorem raiseFault_handled (k e : Nat) (pc : BitVec 64) (f : FaultInfo) (s : State)
    (hmode : (s.warp k).trapMode = false) (hhandler : (s.warpLaunch k).handler ≠ 0#80)
    (htakes : f.cause ≠ causePoison ∨ (s.warpLaunch k).replayable = false) :
    ∃ p, raiseFault k e pc f s = ({ s with pkgs := p } : State).modWarp k (fun x => x.enterTrap e pc f) := by
  by_cases hpoison : f.cause = causePoison
  · have hreplay : (s.warpLaunch k).replayable = false := htakes.resolve_left (not_not_intro hpoison)
    obtain ⟨p, hp⟩ := countErrorAt_eq 13 1 (coreOf k) s
    refine ⟨p, ?_⟩
    rw [← hp]
    simp [raiseFault, hpoison, hreplay, hmode, hhandler]
  · exact ⟨s.pkgs, raiseFault_enters k e pc f s hpoison hmode hhandler⟩

/-- Settles O18: the warp is the one that Warp.enterTrap writes, and the state is otherwise the one before but for error
counters. -/
theorem trapEntry : Obligations.TrapEntry := by
  intro k e pc f s hmode hhandler htakes t w u
  obtain ⟨p, ht : t = _⟩ := raiseFault_handled k e pc f s hmode hhandler htakes
  have hu : u = w.enterTrap e pc f := by
    dsimp only [u]
    rw [ht, warp_modWarp_self]
    rfl
  rw [hu, ht]
  exact ⟨rfl, rfl, rfl, rfl, rfl, rfl, rfl, rfl, rfl, rfl, rfl, rfl, rfl, rfl, rfl, rfl, rfl, rfl, rfl, rfl, rfl, rfl,
    rfl, rfl, rfl, fun _ hj => warp_modWarp_ne hj _ _⟩

/-! ## Double faults and missing handlers -/

theorem ending_endLaunch_first {l : Nat} {s : State} (r : EndReq) (replay : Bool) (h : (s.launch l).ending = none) :
    ((endLaunch l r replay s).launch l).ending = some r := by
  rw [endLaunch_first l r replay s h, launch_modLaunch_self]

/-- A launch that is ending keeps the request that came first (R228). -/
theorem ending_endLaunch_again {l : Nat} {s : State} (r : EndReq) (replay : Bool) (h : (s.launch l).ending ≠ none) :
    ((endLaunch l r replay s).launch l).ending = (s.launch l).ending := by
  obtain ⟨first, hfirst⟩ := Option.ne_none_iff_exists'.1 h
  simp [endLaunch, hfirst]

/-- A warp stopped, and its team's launch asked to end with a status and a cause (R212). -/
def stopAndEnd (k : Nat) (status cause : BitVec 8) (s : State) : State :=
  endTeam (s.warp k).team status cause 0#32 (s.modWarp k (fun x => { x with park := .stopped }))

theorem stopAndEnd_asks (k : Nat) (status cause : BitVec 8) (s : State) :
    let l := (s.team (s.warp k).team).launch
    let t := stopAndEnd k status cause s
    (t.warp k).park = .stopped ∧
    ((s.launch l).ending = none → (t.launch l).ending = some
      { status := status, cause := cause, detail := 0#32, team := (s.team (s.warp k).team).number }) ∧
    ((s.launch l).ending ≠ none → (t.launch l).ending = (s.launch l).ending) := by
  refine ⟨?_, ending_endLaunch_first _ false, ending_endLaunch_again _ false⟩
  simp [stopAndEnd, endTeam, endLaunch]

section
variable (k e : Nat) (pc : BitVec 64) (f : FaultInfo) (s : State) (hpoison : f.cause ≠ causePoison)
include hpoison

theorem raiseFault_inTrapMode (hmode : (s.warp k).trapMode = true) :
    raiseFault k e pc f s = stopAndEnd k 0x21#8 f.cause s := by
  simp [raiseFault, stopAndEnd, hpoison, hmode]

theorem raiseFault_withoutHandler (hmode : (s.warp k).trapMode = false) (hhandler : (s.warpLaunch k).handler = 0#80)
    (hbreak : f.cause ≠ causeBreak) : raiseFault k e pc f s = stopAndEnd k 0x20#8 f.cause s := by
  simp [raiseFault, stopAndEnd, hpoison, hmode, hhandler, hbreak]

theorem raiseFault_breakpoint (hmode : (s.warp k).trapMode = false) (hhandler : (s.warpLaunch k).handler = 0#80)
    (hbreak : f.cause = causeBreak) : raiseFault k e pc f s =
      s.modWarp k (fun x => { x with park := .breakpoint, trapPc := pc, trapEntry := e }) := by
  have hne : causeBreak ≠ causePoison := hbreak ▸ hpoison
  simp [raiseFault, hne, hmode, hhandler, hbreak]

end

/-- Settles O19: each case of the fault stops the warp and asks for the end of its launch, or parks it. -/
theorem doubleFaultsAndMissingHandlers : Obligations.DoubleFaultsAndMissingHandlers := by
  intro k e pc f s hpoison l asks t
  refine ⟨fun hmode => ?_, fun hmode hhandler hbreak => ?_, fun hmode hhandler hbreak => ?_⟩
  · have ht : t = stopAndEnd k 0x21#8 f.cause s := raiseFault_inTrapMode k e pc f s hpoison hmode
    rw [ht]
    exact stopAndEnd_asks k 0x21#8 f.cause s
  · have ht : t = stopAndEnd k 0x20#8 f.cause s := raiseFault_withoutHandler k e pc f s hpoison hmode hhandler hbreak
    rw [ht]
    exact stopAndEnd_asks k 0x20#8 f.cause s
  · have ht : t = _ := raiseFault_breakpoint k e pc f s hpoison hmode hhandler hbreak
    rw [ht, warp_modWarp_self]
    exact ⟨rfl, rfl, rfl⟩

end Sys2Proof.Machine
end

section
/-!
PROOFS. TRAP and BRK, which fault with the lanes that take part (R213); SYSC, which parks its warp (R214); KSAVE and
KLOAD, which copy registers whole (R216).
-/

namespace Sys2Proof.Machine

open Sys2Proof Sys2Proof.Claims

/-! ## TRAP and BRK -/

theorem trapEffect_live {cause : BitVec 8} {c : Ctx} {s : State} (hlive : c.live ≠ 0#96) :
    trapEffect cause c s = .fault s { cause := cause, va := 0#80, lanes := c.live } := by
  simp [trapEffect, noLanes, hlive]

theorem trapEffect_idle {cause : BitVec 8} {c : Ctx} {s : State} (hidle : c.live = 0#96) :
    trapEffect cause c s = .ok s := by
  simp [trapEffect, noLanes, hidle]

section
variable {i : Instr} {cause : BitVec 8} (hx : ∀ s, exec i s = runPass i .vec (trapEffect cause) s)
include hx

theorem exec_trapEffect_live {s : State} {q : Issue} (hq : s.cur = some q) (hclears : clears i .vec s q = true)
    (hlive : (passCtx s q i .vec).live ≠ 0#96) :
    exec i s = .next (trapPass (passCtx s q i .vec)
      { cause := cause, va := 0#80, lanes := (passCtx s q i .vec).live }
      (countReads (passCtx s q i .vec) i (readState i s q))) := by
  rw [hx, runPass_clears _ _ _ _ _ hq hclears, trapEffect_live hlive]
  rfl

theorem takesIf_trapEffect_idle : TakesIf i .vec (fun c _ => c.live = 0#96) (fun _ s => s) :=
  takesIf_of hx fun _ _ hidle => trapEffect_idle hidle

end

theorem exec_trap (h : Hdr) (f : FX) (s : State) :
    exec (.trap h f) s = runPass (.trap h f) .vec (trapEffect causeTrap) s := rfl

theorem exec_brk (h : Hdr) (f : FX) (s : State) :
    exec (.brk h f) s = runPass (.brk h f) .vec (trapEffect causeBreak) s := rfl

/-- Settles O20: TRAP and BRK with a live lane that takes part, then without one. -/
theorem trapInstructionsTrap : Obligations.TrapInstructionsTrap := fun h f =>
  ⟨fun _ _ hq hclears => exec_trapEffect_live (exec_trap h f) hq hclears,
    fun _ _ hq hclears => exec_trapEffect_live (exec_brk h f) hq hclears,
    takesIf_trapEffect_idle (exec_trap h f), takesIf_trapEffect_idle (exec_brk h f)⟩

/-! ## SYSC, KSAVE and KLOAD -/

/-- What SYSC does to its warp: it waits for firmware with the service, its values and the place to go on from (R214). -/
def syscParks (f : FX) (c : Ctx) (w : Warp) : Warp :=
  let service := (f.ctl.extractLsb' 0 8).toNat
  { w with
    park := .sysc service (c.view.sval c.e f.e0.toNat)
      (if service = 1 ∧ isS f.e0.toNat = true then c.view.sval c.e (f.e0.toNat + 1) else 0#32) c.q.offset }

theorem exec_sysc (h : Hdr) (f : FX) (s : State) : exec (.sysc h f) s =
    runPass (.sysc h f) .first (fun c s => .ok (s.modWarp c.k (syscParks f c))) s := by
  change execSysc h f s = _
  simp only [execSysc, Bool.and_eq_true, decide_eq_true_eq]
  rfl

/-- Settles O22: each instruction changes its warp alone, and SYSC acts once an issue. -/
theorem syscAndSaveArea : Obligations.SyscAndSaveArea := fun h f =>
  ⟨takes_modWarp (exec_sysc h f), idlesOwn_of_first (exec_sysc h f),
    takes_modWarp (fun s => (rfl : execKsave h f s = _)), takes_modWarp (fun s => (rfl : execKload h f s = _))⟩

end Sys2Proof.Machine
end

section
/-!
PROOFS. NOP, PAD and the transfers of control: when a direct and an indirect transfer moves the lanes of its pass, and
TransfersComplete from these (R252, R254 to R256, R505).
-/

namespace Sys2Proof.Machine

open Sys2Proof Sys2Proof.Claims

/-! ## The point named, and the lanes of a trap split -/

/-- A point named as R56 says, or none under RSLOT 7, is what pointOf answers. -/
theorem pointOf_of_pointNamed {s : State} {c : Ctx} {rline : BitVec 27} {rslot : BitVec 3} {p : Option Word}
    (hp : pointNamed s c rline rslot p) : pointOf s c rline rslot = some p := by
  by_cases hslot : rslot = 7#3
  · rw [pointNamed, if_pos hslot] at hp
    simp [pointOf, hslot, hp]
  · cases p with
    | none => simp [pointNamed, hslot] at hp
    | some o => exact pointOf_named hslot hp

theorem trapDisagrees_of_transfers {s : State} {c : Ctx} (h : transfers s c) : trapDisagrees s c = false := by
  obtain ⟨-, hagree⟩ := h
  cases hmode : (s.warp c.k).trapMode with
  | false => simp [trapDisagrees, hmode]
  | true => simp [trapDisagrees, hagree hmode]

theorem trapDisagrees_of_idle {s : State} {c : Ctx} (hidle : c.live = 0#96) : trapDisagrees s c = false := by
  simp [trapDisagrees, noLanes, hidle]

theorem noLanes_eq_false {m : Lanes} (h : m ≠ 0#96) : noLanes m = false := by
  simp [noLanes, h]

/-- The state from which lanes move: with a63 written when the transfer is a call (R255, R256). -/
def linkedIf (link : Bool) (c : Ctx) (s : State) : State := if link then linked c s else s

/-! ## BRA and CALL -/

theorem fetchTargets_held {c : Ctx} {s : State} (h : targetsHeld s c) : fetchTargets c s = none := by
  unfold fetchTargets
  split
  · next htook => exact fetchLines_held (h (List.isEmpty_iff.1 htook))
  · rfl

theorem directTransfer_idle {f : FC} {link : Bool} {c : Ctx} {s : State} (hidle : c.live = 0#96)
    (hheld : targetsHeld s c) : directTransfer f link c s = .ok s := by
  simp [directTransfer, trapDisagrees_of_idle hidle, fetchTargets_held hheld, noLanes, hidle]

/-- The conditions of a direct transfer to an offset, with a point named or none. -/
def transfersDirectly (f : FC) (o : Word) (p : Option Word) (c : Ctx) (s : State) : Prop :=
  transfers s c ∧ landsAt f s c o ∧ pointNamed s c f.rline f.rslot p

theorem directTransfer_lands {f : FC} {link : Bool} {o : Word} {p : Option Word} {c : Ctx} {s : State}
    (h : transfersDirectly f o p c s) :
    directTransfer f link c s = .ok (movesTo c.live o p (linkedIf link c s)) := by
  obtain ⟨hmoves, ⟨hheld, hoffset, hlands⟩, hpoint⟩ := h
  simp only [directTransfer, trapDisagrees_of_transfers hmoves, fetchTargets_held hheld, noLanes_eq_false hmoves.1,
    hoffset, pointOf_of_pointNamed hpoint, hlands, Bool.false_eq_true, if_false]
  rfl

section
variable {i : Instr} {f : FC} {link : Bool} (hx : ∀ s, exec i s = runPass i .vec (directTransfer f link) s)
include hx

theorem takesIf_direct (o : Word) (p : Option Word) :
    TakesIf i .vec (transfersDirectly f o p) (fun c s => movesTo c.live o p (linkedIf link c s)) :=
  takesIf_of hx fun _ _ h => directTransfer_lands h

theorem takesIf_direct_idle : TakesIf i .vec (fun c s => c.live = 0#96 ∧ targetsHeld s c) (fun _ s => s) :=
  takesIf_of hx fun _ _ ⟨hidle, hheld⟩ => directTransfer_idle hidle hheld

end

/-! ## BRX, CALLX and RET -/

theorem indirectTransfer_idle {f : FCX} {pad : Option (BitVec 7)} {link : Bool} {c : Ctx} {s : State}
    (hidle : c.live = 0#96) : indirectTransfer f pad link c s = .ok s := by
  simp [indirectTransfer, noLanes, hidle]

theorem mem_planesHolding {c : Ctx} {m : Lanes} {x : Nat × Lanes} (hx : x ∈ planesHolding c m) :
    x.1 ∈ c.q.todo ∧ activeLanes c.view c.q x.1 &&& m ≠ 0#96 := by
  obtain ⟨hmem, hlanes⟩ := List.mem_filter.1 hx
  obtain ⟨n, hn, rfl⟩ := List.mem_map.1 hmem
  exact ⟨hn, by simpa [noLanes] using hlanes⟩

/-- Landings that all succeed leave nothing to report (R251). -/
theorem indirectOutcome_lands {ls : List Landing} {s : State} (h : ∀ x ∈ ls, x = .lands) :
    indirectOutcome ls s = none := by
  have hall : ls.filter (· == .lands) = ls := List.filter_eq_self.2 fun x hx => by simp [h x hx]
  simp [indirectOutcome, hall]

/-- The conditions of an indirect transfer, with a point named or none. -/
def transfersByPointer (f : FCX) (pad : Option (BitVec 7)) (p : Option Word) (c : Ctx) (s : State) : Prop :=
  transfers s c ∧ landsByPointer f pad s c ∧ pointNamed s c f.rline f.rslot p

/-- The offset that an indirect transfer's pointer holds (R232). -/
def pointerOffset (f : FCX) (c : Ctx) : Word := (c.view.aval f.a.toNat).setWidth 32

theorem indirectTransfer_lands {f : FCX} {pad : Option (BitVec 7)} {link : Bool} {p : Option Word} {c : Ctx}
    {s : State} (h : transfersByPointer f pad p c s) :
    indirectTransfer f pad link c s = .ok (movesTo c.live (pointerOffset f c) p (linkedIf link c s)) := by
  obtain ⟨hmoves, ⟨hpointer, hslot, hrange, hland⟩, hpoint⟩ := h
  have hlands : ∀ x ∈ planesHolding c c.live, landing s c.k x.1 (pointerOffset f c) pad = .lands := fun x hx =>
    hland x.1 (mem_planesHolding hx).1 (mem_planesHolding hx).2
  have hfetched : fetchLines c.k ((planesHolding c c.live).map (fun x => (x.1, pointerOffset f c, x.2))) s = none := by
    refine fetchLines_held fun t ht => ?_
    obtain ⟨x, hx, rfl⟩ := List.mem_map.1 ht
    exact getLine_of_lands (hlands x hx)
  have houtcome : indirectOutcome ((planesHolding c c.live).map
      (fun x => landing s c.k x.1 (pointerOffset f c) pad)) s = none := by
    refine indirectOutcome_lands fun y hy => ?_
    obtain ⟨x, hx, rfl⟩ := List.mem_map.1 hy
    exact hlands x hx
  have hvalid : (decide ((c.view.aval f.a.toNat).toNat ≥ 2 ^ 32) || decide (slotNum (pointerOffset f c) ≥ 5) ||
      !offsetInRange s c.k (pointerOffset f c)) = false := by
    rw [pointerOffset, decide_eq_false (Nat.not_le.2 hpointer), decide_eq_false (Nat.not_le.2 hslot), hrange]
    rfl
  rw [pointerOffset] at hfetched houtcome hvalid
  simp only [indirectTransfer, noLanes_eq_false hmoves.1, trapDisagrees_of_transfers hmoves, hvalid,
    pointOf_of_pointNamed hpoint, hfetched, houtcome, Bool.false_eq_true, if_false]
  rfl

section
variable {i : Instr} {f : FCX} {pad : Option (BitVec 7)} {link : Bool}
  (hx : ∀ s, exec i s = runPass i .once (indirectTransfer f pad link) s)
include hx

theorem takesIf_indirect (p : Option Word) : TakesIf i .once (transfersByPointer f pad p)
    (fun c s => movesTo c.live (pointerOffset f c) p (linkedIf link c s)) :=
  takesIf_of hx fun _ _ h => indirectTransfer_lands h

theorem takesIf_indirect_idle : TakesIf i .once (fun c _ => c.live = 0#96) (fun _ s => s) :=
  takesIf_of hx fun _ _ hidle => indirectTransfer_idle hidle

end

/-! ## The instructions -/

theorem exec_bra (h : Hdr) (f : FC) (s : State) :
    exec (.bra h f) s = runPass (.bra h f) .vec (directTransfer f false) s := rfl

theorem exec_call (h : Hdr) (f : FC) (s : State) :
    exec (.call h f) s = runPass (.call h f) .vec (directTransfer f true) s := rfl

theorem exec_brx (h : Hdr) (f : FCX) (s : State) :
    exec (.brx h f) s = runPass (.brx h f) .once (indirectTransfer f (some f.tag) false) s := rfl

theorem exec_callx (h : Hdr) (f : FCX) (s : State) :
    exec (.callx h f) s = runPass (.callx h f) .once (indirectTransfer f (some f.tag) true) s := rfl

theorem exec_ret (h : Hdr) (f : FCX) (s : State) :
    exec (.ret h f) s = runPass (.ret h f) .once (indirectTransfer f none false) s := rfl

/-- Settles O15: NOP and PAD have no effect of their own, BRA and CALL transfer directly, BRX, CALLX and RET by pointer,
then each transfer without a live lane. -/
theorem transfersComplete : Obligations.TransfersComplete := fun h bits f fx o p =>
  ⟨takes_of (fun s => (rfl : execNop h bits s = _)) fun _ _ => rfl,
    takes_of (fun s => (rfl : execPad h f s = _)) fun _ _ => rfl,
    takesIf_direct (exec_bra h f) o p, takesIf_direct (exec_call h f) o p,
    takesIf_indirect (exec_brx h fx) p, takesIf_indirect (exec_callx h fx) p, takesIf_indirect (exec_ret h fx) p,
    takesIf_direct_idle (exec_bra h f), takesIf_direct_idle (exec_call h f),
    takesIf_indirect_idle (exec_brx h fx), takesIf_indirect_idle (exec_callx h fx),
    takesIf_indirect_idle (exec_ret h fx)⟩

end Sys2Proof.Machine
end

section
/-!
PROOFS. REP, BSYNC and REGROUP: a pass that moves its split itself, an arrival at a barrier that need not wait and has
room, and RepEntersItsRepetitions and BsyncAndRegroupComplete from these (R263, R264, R466, R467, R474, R476).
-/

namespace Sys2Proof.Machine

open Sys2Proof Sys2Proof.Claims

/-! ## Passes that move their split -/

/-- In every state in which instruction i clears its checks and pre holds of what it reads, its pass ends with the
state that eff makes, in which it has moved its split itself. -/
def MovesIf (i : Instr) (kind : PassKind) (pre : Ctx → State → Prop) (eff : Ctx → State → State) : Prop :=
  ∀ (s : State) (q : Issue), s.cur = some q → clears i kind s q = true →
    pre (passCtx s q i kind) (readState i s q) →
    exec i s = .next ((eff (passCtx s q i kind) (readState i s q)).modCur
      (fun q => { q with todo := [], status := .finished }))

theorem movesIf_of {i : Instr} {kind : PassKind} {pre : Ctx → State → Prop} {g : Ctx → State → State}
    {eff : Ctx → State → PassResult} (hx : ∀ s, exec i s = runPass i kind eff s)
    (he : ∀ c s, pre c s → eff c s = .moved (g c s)) : MovesIf i kind pre g := by
  intro s q hq hclears hpre
  rw [hx, runPass_clears i kind eff s q hq hclears, he _ _ hpre]
  rfl

/-! ## REP -/

theorem rep_enters (h : Hdr) (f : FP) : MovesIf (.rep h f) .once (fun _ _ => True) (onWarp (fun c w =>
    if w.trapMode then { w with trapSplit := w.trapSplit.map (fun t => { t with inRep := true, repJ := 0 }) }
    else w.modSplit c.e (fun x => { x with inRep := true, repJ := 0 }))) :=
  movesIf_of (fun s => (rfl : execRep h f s = _)) fun _ _ _ => rfl

/-- Settles O17: REP moves its split under no further condition. -/
theorem repEntersItsRepetitions : Obligations.RepEntersItsRepetitions := fun h f s q hq hclears =>
  rep_enters h f s q hq hclears trivial

/-! ## Passes without effect -/

/-- An instruction that acts once an issue, and makes its own check with a live lane alone, only ends a pass without its
effect (R135, R179). -/
theorem idles_of_first {i : Instr} {own : Ctx → State → PreCheck} {eff : Ctx → State → PassResult}
    (hx : ∀ s, exec i s = runChecked i .first own eff s) (hquiet : deliversIdle i = false) : Idles i .first := by
  intro s q hq c hchecks hidle _
  have hno : (!!noLanes c.live || q.acted (s.warp q.warp) i.opNum) = true := by
    rcases hidle with hlive | ⟨-, hacted⟩
    · simp [noLanes, hlive]
    · simp [hacted]
  rw [hx]
  unfold runChecked
  rw [hq]
  dsimp only
  rw [hchecks]
  dsimp only
  rw [if_pos (by simpa using hno), hquiet]
  rfl

/-! ## Barriers named and arrivals -/

section
variable {c : Ctx} {f : FX} {s : State}

theorem withBarrier_named (hname : named1 c f s) (go : Nat → Nat → PassResult) :
    withBarrier c f go s = go (s.warp c.k).team (barNo f) :=
  if_neg (Nat.not_le.2 hname)

theorem arriveWith_arrives (hgo : mayArrive c (scopeOf c f s) f s) (go : BitVec 16 → State → PassResult) :
    arriveWith c f go s = go (phaseOf c f s) (arrived c (scopeOf c f s) f s) := by
  obtain ⟨hwaits, hroom⟩ := hgo
  exact (if_neg (Bool.eq_false_iff.1 hwaits)).trans (if_neg (mt beq_iff_eq.1 hroom))

end

/-! ## BSYNC -/

/-- ARRIVED and the number of a phase as a word (R476). -/
theorem arrivedWord_eq (p : BitVec 16) :
    ((1#1 ++ p : BitVec 17).setWidth 32 : Word) = 0x10000#32 ||| p.setWidth 32 := by
  have happend : (1#1 ++ p : BitVec 17).toNat = 1 <<< 16 ||| p.toNat := BitVec.toNat_append 1#1 p
  have hp : p.toNat % 2 ^ 32 = p.toNat := Nat.mod_eq_of_lt (by omega)
  apply BitVec.eq_of_toNat_eq
  rw [BitVec.toNat_or, BitVec.toNat_setWidth, BitVec.toNat_setWidth, happend, hp]
  rw [Nat.mod_eq_of_lt (Nat.or_lt_two_pow (by decide) (by omega))]
  rfl

/-- BSYNC's end: its wait is an acquire, and its scalar keeps the phase without ARRIVED (R475, R476). -/
def bsyncReturns (f : FX) (c : Ctx) (t : Nat) (p : BitVec 16) (s : State) : State :=
  (waitDone c f t (barNo f) s).modWarp c.k (fun w => w.setS c.e f.e0.toNat (p.setWidth 32))

/-- The scalar that BSYNC waits by. -/
def bsyncWord (f : FX) (c : Ctx) : Word := c.view.sval c.e f.e0.toNat

/-- BSYNC's arrival, with ARRIVED and the phase in its scalar (R476). -/
def bsyncArrives (f : FX) (c : Ctx) (s : State) : State :=
  (arrived c (scopeOf c f s) f s).modWarp c.k (fun w =>
    w.setS c.e f.e0.toNat (0x10000#32 ||| (phaseOf c f s).setWidth 32))

theorem bsyncWait_done {c : Ctx} {f : FX} {t : Nat} {p : BitVec 16} {s : State}
    (hdone : phaseDone (s.bar t (barNo f)).ph p = true) :
    bsyncWait c f t (barNo f) p s = .ok (bsyncReturns f c t p s) :=
  if_pos hdone

theorem bsync_returns (h : Hdr) (f : FX) : TakesOwn (.bsync h f) .first delivers
    (fun c s => named1 c f s ∧ (bsyncWord f c).getLsbD 16 = true ∧
      phaseDone (Claims.barOf c f s).ph ((bsyncWord f c).extractLsb' 0 16) = true)
    (fun c s => bsyncReturns f c (s.warp c.k).team ((bsyncWord f c).extractLsb' 0 16) s) := by
  refine takesOwn_of (fun s => (rfl : execBsync h f s = _)) ?_
  rintro c s ⟨hname, harrived, hdone⟩
  rw [withBarrier_named hname]
  exact (if_pos harrived).trans (bsyncWait_done hdone)

theorem bsync_arrivesLast (h : Hdr) (f : FX) : TakesOwn (.bsync h f) .first delivers
    (fun c s => named1 c f s ∧ (bsyncWord f c).getLsbD 16 = false ∧ mayArrive c (scopeOf c f s) f s ∧
      phaseDone ((bsyncArrives f c s).bar (s.warp c.k).team (barNo f)).ph (phaseOf c f s) = true)
    (fun c s => bsyncReturns f c (s.warp c.k).team (phaseOf c f s) (bsyncArrives f c s)) := by
  refine takesOwn_of (fun s => (rfl : execBsync h f s = _)) ?_
  rintro c s ⟨hname, hfirst, hgo, hdone⟩
  rw [withBarrier_named hname]
  refine (if_neg (Bool.eq_false_iff.1 hfirst)).trans ?_
  rw [arriveWith_arrives hgo, arrivedWord_eq]
  exact bsyncWait_done hdone

/-! ## REGROUP -/

/-- The count of registers in REGROUP's range (R264). -/
def regroupCount (f : FX) : Nat := if f.e0 = 643#10 then 0 else (f.ctl.extractLsb' 7 6).toNat + 1

/-- A warp recorded among those of a REGROUP with its range, its split waiting there (R264). -/
def regroupJoined (f : FX) (c : Ctx) (s : State) : State :=
  (s.setBar (s.warp c.k).team (barNo f) { Claims.barOf c f s with
    regroup := (Claims.barOf c f s).regroup ++
      [((s.warp c.k).warpid, f.e0.toNat, regroupCount f, (phaseOf c f s).toNat)] }).modWarp c.k
    (fun w => w.modSplit c.e (fun y => { y with rgWait := true }))

/-- The conditions under which REGROUP arrives: outside trap mode, at a barrier of its team that has room (R264). -/
def regroupsNow (f : FX) (c : Ctx) (s : State) : Prop :=
  (s.warp c.k).trapMode = false ∧ named1 c f s ∧ (Claims.barOf c f s).level = .team ∧ mayArrive c 0 f s

theorem regroup_arrives (h : Hdr) (f : FX) :
    MovesIf (.regroup h f) .once (regroupsNow f) (fun c s =>
      arrive c.k (s.warp c.k).team (barNo f) 0 (countIssue c 1 (regroupJoined f c s))) := by
  refine movesIf_of (fun s => (rfl : execRegroup h f s = _)) ?_
  rintro c s ⟨hmode, hname, hlevel, hwaits, hroom⟩
  rw [Claims.barOf] at hlevel hroom
  have hteam : ((s.bar (s.warp c.k).team (barNo f)).level != .team) = false := bne_eq_false_iff_eq.2 hlevel
  simp only [hmode, withBarrier_named hname, hteam, hwaits, hroom, Bool.false_eq_true, if_false, beq_iff_eq]
  rfl

/-- Settles O38: BSYNC without effect, BSYNC that has arrived, BSYNC that arrives last, then REGROUP. -/
theorem bsyncAndRegroupComplete : Obligations.BsyncAndRegroupComplete := fun h f =>
  ⟨idles_of_first (fun s => (rfl : execBsync h f s = _)) rfl, bsync_returns h f, bsync_arrivesLast h f,
    fun s q hq hclears hmode hname hlevel hgo => regroup_arrives h f s q hq hclears ⟨hmode, hname, hlevel, hgo⟩⟩

end Sys2Proof.Machine
end

section
/-!
PROOFS. Tiles: the row layout of R268 one to one, and what TALLOC, TFREE, TREL and TSTAT do under each of the
statement's conditions; TileLayoutIsOneToOne and TileInstructionsComplete from these (R268, R273 to R277).
-/

namespace Sys2Proof.Machine

open Sys2Proof Sys2Proof.Claims

/-! ## The row layout -/

/-- A chunk's number with the low bits of its row's number exclusively added is a chunk's number again. -/
theorem chunk_xor_lt (b : Nat) : (b % 128 / 16) ^^^ (b / 128 % 8) < 8 :=
  Nat.xor_lt_two_pow (n := 3) (by omega) (by omega)

/-- A byte's place holds its row, its permuted chunk and its position in the chunk. -/
theorem place_decompose (x : Tile) (b : Nat) :
    x.place b = x.base + 128 * (b / 128) + (16 * ((b % 128 / 16) ^^^ (b / 128 % 8)) + b % 16) := by
  simp only [Tile.place]
  omega

theorem place_inRow (x : Tile) (b : Nat) :
    x.base + 128 * (b / 128) ≤ x.place b ∧ x.place b < x.base + 128 * (b / 128) + 128 := by
  have hchunk := chunk_xor_lt b
  rw [place_decompose]
  omega

/-- Two bytes at one place lie in one row, in one chunk of it and at one position: the exclusive sum is undone by the row's
number. -/
theorem place_injective (x : Tile) {a b : Nat} (h : x.place a = x.place b) : a = b := by
  have ha := chunk_xor_lt a
  have hb := chunk_xor_lt b
  rw [place_decompose, place_decompose] at h
  have hrow : a / 128 = b / 128 := by omega
  have hxor : (a % 128 / 16) ^^^ (a / 128 % 8) = (b % 128 / 16) ^^^ (b / 128 % 8) := by omega
  have hchunk : a % 128 / 16 = b % 128 / 16 := by
    rw [hrow] at hxor
    exact Nat.xor_left_inj.1 hxor
  omega

/-- Settles O60: the place of a byte is one to one, and in the byte's row. -/
theorem tileLayoutIsOneToOne : Obligations.TileLayoutIsOneToOne := fun x a _ =>
  ⟨place_injective x, place_inRow x a⟩

/-! ## The instructions -/

/-- What an instruction that acts once an issue, and makes no check of its own, leaves of a pass without its effect. -/
theorem idles_of_firstPass {i : Instr} {eff : Ctx → State → PassResult} (hx : ∀ s, exec i s = runPass i .first eff s)
    (hquiet : deliversIdle i = false) : Idles i .first :=
  idles_of_first (fun s => (hx s).trans rfl) hquiet

/-- The handle of a tile: its generation above the 6 bits of its index (R267). -/
theorem handleWord_eq (gen : BitVec 10) {i : Nat} (hi : i < 64) :
    ((gen ++ BitVec.ofNat 6 i : BitVec 16).setWidth 32 : Word) = BitVec.ofNat 32 (gen.toNat * 64 + i) := by
  have hgen := gen.isLt
  apply BitVec.eq_of_toNat_eq
  rw [BitVec.toNat_setWidth, BitVec.toNat_append, BitVec.toNat_ofNat, BitVec.toNat_ofNat, Nat.mod_eq_of_lt hi,
    ← Nat.shiftLeft_add_eq_or_of_lt hi, Nat.shiftLeft_eq]

/-- The two halves of TALLOC's dimension word (R274). -/
theorem dimWord_low (v : Word) : (fieldOf v 0 16).toNat = v.toNat % 2 ^ 16 := by
  simp [fieldOf, BitVec.extractLsb'_toNat]

theorem dimWord_high (v : Word) : (fieldOf v 16 16).toNat = v.toNat / 2 ^ 16 := by
  have hv := v.isLt
  rw [fieldOf, BitVec.extractLsb'_toNat, Nat.shiftRight_eq_div_pow]
  exact Nat.mod_eq_of_lt (by omega)

theorem talloc_fills (h : Hdr) (f : FX) :
    let i := (f.ctl.extractLsb' 0 6).toNat
    let d0 (c : Ctx) : Nat := (c.view.sval c.e f.e1.toNat).toNat % 2 ^ 16
    let d1 (c : Ctx) : Nat := (c.view.sval c.e f.e1.toNat).toNat / 2 ^ 16
    let base (c : Ctx) : Nat := (c.view.sval c.e f.e2.toNat).toNat
    let bytes (c : Ctx) : Nat := 128 * pitchOf (d0 c) h.fmt * d1 c
    TakesIf (.talloc h f) .first
      (fun c s => i < s.tileCount (s.warp c.k).team ∧ 1 ≤ d0 c ∧ 1 ≤ d1 c ∧ d1 c ≤ 4096 ∧ base c % 128 = 0 ∧
        base c + bytes c ≤ (s.launchOf (s.warp c.k).team).info.shared ∧ (s.tile (s.warp c.k).team i).state = .empty)
      (fun c s =>
        let gen := (s.tile (s.warp c.k).team i).gen + 1#10
        (s.setTile (s.warp c.k).team i
          { owner := (s.team (s.warp c.k).team).number, filled := 0, bytes := bytes c, dim1 := d1 c, dim0 := d0 c,
            pitch := pitchOf (d0 c) h.fmt, base := base c, readers := 0, sealed := false, gen := gen, fmt := h.fmt,
            state := .filling, fills := 0 }).modWarp c.k
          (fun w => w.setS c.e f.e0.toNat (BitVec.ofNat 32 (gen.toNat * 64 + i)))) := by
  refine takesIf_of (fun s => (rfl : execTalloc h f s = _)) ?_
  rintro c s ⟨hi, hd0, hd1, hrows, halign, hfits, hempty⟩
  dsimp only at hi hd0 hd1 hrows halign hfits hempty ⊢
  have hi64 : (f.ctl.extractLsb' 0 6).toNat < 64 := (f.ctl.extractLsb' 0 6).isLt
  rw [← handleWord_eq _ hi64]
  unfold tallocEffect
  dsimp only
  rw [dimWord_low, dimWord_high, if_neg]
  · simp only [fieldOf, hempty]
  · simp only [Bool.or_eq_true, decide_eq_true_eq, beq_iff_eq, bne_iff_ne, fieldOf]
    rintro (((((hbad | hbad) | hbad) | hbad) | hbad) | hbad)
    · exact absurd (of_decide_eq_true hbad) (Nat.not_le.2 hi)
    all_goals omega

theorem tfree_drains (h : Hdr) (f : FX) : TakesIf (.tfree h f) .first
    (fun c s => handleCurrent s (s.warp c.k).team (c.view.sval c.e f.e0.toNat) = true ∧
      ((s.tile (s.warp c.k).team (handleIndex (c.view.sval c.e f.e0.toNat))).state = .filling ∨
        (s.tile (s.warp c.k).team (handleIndex (c.view.sval c.e f.e0.toNat))).state = .ready))
    (fun c s => s.modTile (s.warp c.k).team (handleIndex (c.view.sval c.e f.e0.toNat))
      (fun y => { y with state := .draining })) := by
  refine takesIf_of (fun s => (rfl : execTfree h f s = _)) ?_
  rintro c s ⟨hcurrent, hstate⟩
  refine if_pos ?_
  rw [hcurrent]
  rcases hstate with hstate | hstate <;> rw [hstate] <;> rfl

theorem trel_seals (h : Hdr) (f : FX) : TakesIf (.trel h f) .first
    (fun c s => handleCurrent s (s.warp c.k).team (c.view.sval c.e f.e0.toNat) = true ∧
      (s.tile (s.warp c.k).team (handleIndex (c.view.sval c.e f.e0.toNat))).state = .filling ∧
      (s.tile (s.warp c.k).team (handleIndex (c.view.sval c.e f.e0.toNat))).sealed = false)
    (fun c s => s.modTile (s.warp c.k).team (handleIndex (c.view.sval c.e f.e0.toNat)) (fun y =>
      { y with sealed := true, filled := if f.ctl.getLsbD 0 then y.bytes else y.filled })) := by
  refine takesIf_of (fun s => (rfl : execTrel h f s = _)) ?_
  rintro c s ⟨hcurrent, hstate, hopen⟩
  refine if_pos ?_
  rw [fillOk, hcurrent, hstate, hopen]
  rfl

theorem tstat_writes (h : Hdr) (f : FX) : Takes (.tstat h f) .first (fun c s =>
    s.modWarp c.k (fun w => w.setS c.e f.e0.toNat
      (tileStatus s (s.warp c.k).team (c.view.sval c.e f.e1.toNat)))) :=
  takes_of (fun s => (rfl : execTstat h f s = _)) fun _ _ => rfl

/-- Settles O32: each clause is its instruction's lemma above, and without a live lane, or a second time, none acts. -/
theorem tileInstructionsComplete : Obligations.TileInstructionsComplete := fun h f =>
  ⟨talloc_fills h f, tfree_drains h f, trel_seals h f, tstat_writes h f,
    idles_of_firstPass (fun s => (rfl : execTalloc h f s = _)) rfl,
    idles_of_firstPass (fun s => (rfl : execTfree h f s = _)) rfl,
    idles_of_firstPass (fun s => (rfl : execTrel h f s = _)) rfl,
    idles_of_firstPass (fun s => (rfl : execTstat h f s = _)) rfl⟩

end Sys2Proof.Machine
end

section
/-!
PROOFS. Reset: what every package holds after a device reset, and ResetState from this (R288, R310, R430).
-/

namespace Sys2Proof.Machine

open Sys2Proof

/-- Every package is in the state of a reset. -/
theorem pkg_reset (p : Nat) : State.reset.pkg p = Package.reset := by
  simp only [State.pkg, State.reset]
  rfl

/-- After reset every die uses map A, of slices 0 to 255 in order, and no region is elsewhere (R288). -/
theorem dieMap_reset (d : Nat) : Package.reset.dieMap d = DieMap.reset := rfl

theorem list_reset : DieMap.reset.list = List.range 256 := by
  simp only [DieMap.list, DieMap.reset, Bool.false_eq_true, if_false]

/-- After reset a line of HBM is homed on the slice of its own number, folded, modulo the 256 of map A (R288). -/
theorem home_reset (a : Nat) :
    DieMap.reset.home a = some (((a / 128) ^^^ ((a / 128) >>> 11) ^^^ ((a / 128) >>> 22)) % 256) := by
  have hlt := Nat.mod_lt ((a / 128) ^^^ ((a / 128) >>> 11) ^^^ ((a / 128) >>> 22)) (by omega : 0 < 256)
  have hregion : DieMap.reset.region (a / 2 ^ 29) = .mapA := rfl
  have hmap : DieMap.reset.mapA = List.range 256 := by simp only [DieMap.reset]
  unfold DieMap.home
  simp only [hregion, hmap, List.length_range, lget_eq_getElem?, List.getElem?_range hlt]

theorem homeOf_reset {k : Nat} (hkind : keyKind k ≤ 1) :
    homeOf State.reset k = some (288 * keyDie k +
      (((keyAddr k / 128) ^^^ ((keyAddr k / 128) >>> 11) ^^^ ((keyAddr k / 128) >>> 22)) % 256)) := by
  unfold homeOf
  dsimp only
  rw [if_pos hkind, pkg_reset, dieMap_reset, home_reset]
  rfl

/-- Settles O54: every package is as after reset, and the walk of R288 is computed. -/
theorem resetState : Obligations.ResetState := by
  refine ⟨fun p d => ?_, fun p m _ => ?_, fun p => ?_, ?_, memoryWf_reset, rfl, fun _ => rfl⟩
  · rw [pkg_reset, dieMap_reset, list_reset]
  · rw [pkg_reset]
    rfl
  · rw [pkg_reset]
    rfl
  · rw [homeOf_reset (by decide)]
    decide

end Sys2Proof.Machine
end
section
/-!
PROOFS. BINIT, BARV, BWAIT and BEXP under each of the statement's conditions, and BarrierInstructionsComplete from these
(R466, R473, R474, R475, R477).
-/

namespace Sys2Proof.Machine

open Sys2Proof Sys2Proof.Claims

theorem binit_sets (h : Hdr) (f : FX) : TakesIf (.binit h f) .first
    (fun c s => named1 c f s ∧ (Claims.barOf c f s).arr = 0 ∧ (Claims.barOf c f s).bytes = 0 ∧
      (Claims.barOf c f s).up = false ∧
      (c.view.sval c.e f.e0.toNat).toNat ≤ s.warpsLeft (s.warp c.k).team ∧
      ((c.view.sval c.e f.e0.toNat).toNat ≠ 0 ∨ (c.view.sval c.e f.e1.toNat).toNat ≠ 0))
    (fun c s => s.setBar (s.warp c.k).team (barNo f) { Claims.barOf c f s with
      initw := (c.view.sval c.e f.e0.toNat).toNat, initb := (c.view.sval c.e f.e1.toNat).toNat
      expb := (c.view.sval c.e f.e1.toNat).toNat }) := by
  refine takesIf_of (fun s => (rfl : execBinit h f s = _)) ?_
  rintro c s ⟨hname, harr, hbytes, hup, hleft, hcounts⟩
  rw [Claims.barOf] at harr hbytes hup
  have hidle : ((s.bar (s.warp c.k).team (barNo f)).arr != 0 || (s.bar (s.warp c.k).team (barNo f)).bytes != 0 ||
      (s.bar (s.warp c.k).team (barNo f)).up) = false := by
    rw [harr, hbytes, hup]
    rfl
  rw [withBarrier_named hname]
  refine (if_neg (Bool.eq_false_iff.1 hidle)).trans (if_neg ?_)
  simp only [Bool.or_eq_true, decide_eq_true_eq, Bool.and_eq_true, beq_iff_eq]
  omega

/-- BARV's arrival, with the phase that it counts toward in its scalar. -/
theorem barv_arrives (h : Hdr) (f : FX) : TakesOwn (.barv h f) .first delivers
    (fun c s => named1 c f s ∧ mayArrive c (scopeOf c f s) f s)
    (fun c s => (arrived c (scopeOf c f s) f s).modWarp c.k (fun w =>
      w.setS c.e f.e0.toNat ((phaseOf c f s).setWidth 32))) := by
  refine takesOwn_of (fun s => (rfl : execBarv h f s = _)) ?_
  rintro c s ⟨hname, hgo⟩
  rw [withBarrier_named hname, arriveWith_arrives hgo]

@[simp] theorem setWph_team (w : Warp) (e : Nat) (p : Option (BitVec 16)) : (w.setWph e p).team = w.team := by
  unfold Warp.setWph
  split <;> rfl

/-- A wait that returns is an acquire at the barrier's scope (R475). -/
theorem waited_eq_waitDone (c : Ctx) (f : FX) (s : State) :
    waited c f s = waitDone c f (s.warp c.k).team (barNo f) s := rfl

theorem bwait_named (h : Hdr) (f : FX) : TakesOwn (.bwait h f) .first delivers
    (fun c s => named1 c f s ∧ f.e0 ≠ 643#10 ∧
      phaseDone (Claims.barOf c f s).ph ((c.view.sval c.e f.e0.toNat).extractLsb' 0 16) = true)
    (fun c s => waited c f s) := by
  refine takesOwn_of (fun s => (rfl : execBwait h f s = _)) ?_
  rintro c s ⟨hname, hscalar, hdone⟩
  rw [withBarrier_named hname]
  exact (if_neg (mt beq_iff_eq.1 hscalar)).trans (if_pos hdone)

/-- The wait of a split for the phase that it holds, the barrier's own where it holds none, which it then forgets. -/
theorem bwait_held (h : Hdr) (f : FX) : TakesOwn (.bwait h f) .first delivers
    (fun c s => named1 c f s ∧ f.e0 = 643#10 ∧
      phaseDone (Claims.barOf c f s).ph (((s.warp c.k).wph c.e).getD (Claims.barOf c f s).ph) = true)
    (fun c s => waited c f (s.modWarp c.k (fun w => w.setWph c.e none))) := by
  refine takesOwn_of (fun s => (rfl : execBwait h f s = _)) ?_
  rintro c s ⟨hname, hnone, hdone⟩
  rw [withBarrier_named hname, waited_eq_waitDone, warp_modWarp_self, setWph_team]
  exact (if_pos (beq_iff_eq.2 hnone)).trans (if_pos hdone)

theorem bexp_raises (h : Hdr) (f : FX) : TakesIf (.bexp h f) .first
    (fun c s => named1 c f s ∧ (Claims.barOf c f s).expb + (c.view.sval c.e f.e0.toNat).toNat < 2 ^ 32)
    (fun c s => barTest (s.warp c.k).team (barNo f) (s.setBar (s.warp c.k).team (barNo f)
      { Claims.barOf c f s with expb := (Claims.barOf c f s).expb + (c.view.sval c.e f.e0.toNat).toNat })) := by
  refine takesIf_of (fun s => (rfl : execBexp h f s = _)) ?_
  rintro c s ⟨hname, hfits⟩
  rw [withBarrier_named hname]
  exact if_neg (Nat.not_le.2 hfits)

/-- Settles O37: each clause is its instruction's lemma above, and without a live lane, or a second time, none acts. -/
theorem barrierInstructionsComplete : Obligations.BarrierInstructionsComplete := fun h f =>
  ⟨binit_sets h f, barv_arrives h f, bwait_named h f, bwait_held h f, bexp_raises h f,
    idles_of_firstPass (fun s => (rfl : execBinit h f s = _)) rfl,
    idles_of_first (fun s => (rfl : execBarv h f s = _)) rfl,
    idles_of_first (fun s => (rfl : execBwait h f s = _)) rfl,
    idles_of_firstPass (fun s => (rfl : execBexp h f s = _)) rfl⟩

end Sys2Proof.Machine
end

section
/-!
PROOFS. Handle queues, channels and VEER: what their instructions do under each of the statements' conditions, and
HandleQueuesComplete and ChannelsAndVeerComplete from these (R417 to R421, R425 to R427, R433).
-/

namespace Sys2Proof.Machine

open Sys2Proof Sys2Proof.Claims

/-! ## Handle queues -/

/-- The queue that an instruction names (R415). -/
def hqNamed (f : FX) (c : Ctx) (s : State) : HQueue := s.hq (s.warp c.k).team (queueNum f)

theorem hqpush_counts (h : Hdr) (f : FX) : TakesOwn (.hqpush h f) .first (queueCheck f)
    (fun c s => (hqNamed f c s).count < (hqNamed f c s).size ∧ arriveWaits s c.k 0 = false)
    (fun c s => (sharedStore (s.warp c.k).team
      ((hqNamed f c s).ring + 4 * (((hqNamed f c s).head + (hqNamed f c s).count) % (hqNamed f c s).size))
      (leBytes 4 (c.view.sval c.e f.e0.toNat).toNat) s).setHq (s.warp c.k).team (queueNum f)
        { hqNamed f c s with count := (hqNamed f c s).count + 1 }) := by
  refine takesOwn_of (fun s => (rfl : execHqpush h f s = _)) ?_
  rintro c s ⟨hroom, hwaits⟩
  refine if_neg ?_
  rw [hwaits, Bool.or_false, decide_eq_true_eq]
  exact Nat.not_le.2 hroom

/-- The oldest word of the queue that an instruction names, taken (R419). -/
def hqTaken (f : FX) (c : Ctx) (s : State) : Word × Bool × State :=
  takeEntry c.k (s.warp c.k).team (queueNum f) (hqNamed f c s) s

theorem hqpop_takes (h : Hdr) (f : FX) : TakesOwn (.hqpop h f) .first (queueCheck f)
    (fun c s => (hqNamed f c s).count ≠ 0)
    (fun c s => produceWord c f.e0.toNat (hqTaken f c s).1 (hqTaken f c s).2.1 (hqTaken f c s).2.2) :=
  takesOwn_of (fun s => (rfl : execHqpop h f s = _)) fun _ _ hsome => if_neg hsome

theorem hqtry_takes (h : Hdr) (f : FX) : TakesOwn (.hqtry h f) .first (queueCheck f)
    (fun c s => (hqNamed f c s).count ≠ 0)
    (fun c s => (hqTaken f c s).2.2.modWarp c.k (fun w =>
      (w.setScalar c.e (f.e0.toNat - 768) (hqTaken f c s).1 (hqTaken f c s).2.1).setS c.e (f.e0.toNat + 1) 1#32)) :=
  takesOwn_of (fun s => (rfl : execHqtry h f s = _)) fun _ _ hsome => if_neg hsome

theorem hqtry_ofNone (h : Hdr) (f : FX) : TakesOwn (.hqtry h f) .first (queueCheck f)
    (fun c s => (hqNamed f c s).count = 0)
    (onWarp (fun c w => w.setSs c.e f.e0.toNat [0#32, 0#32])) :=
  takesOwn_of (fun s => (rfl : execHqtry h f s = _)) fun _ _ hnone => if_pos hnone

/-- Settles O33: each clause is its instruction's lemma above, and without a live lane, or a second time, none acts. -/
theorem handleQueuesComplete : Obligations.HandleQueuesComplete := fun h f =>
  ⟨hqpush_counts h f, hqpop_takes h f, hqtry_takes h f, hqtry_ofNone h f,
    idles_of_first (fun s => (rfl : execHqpush h f s = _)) rfl,
    idles_of_first (fun s => (rfl : execHqpop h f s = _)) rfl,
    idles_of_first (fun s => (rfl : execHqtry h f s = _)) rfl⟩

/-! ## Channels -/

theorem csend_sends (h : Hdr) (f : FX) : TakesOwn (.csend h f) .first (fun c s => declCheck (sendNamed f c s))
    (fun c s => (c.view.sval c.e f.e0.toNat).toNat % 4 = 0 ∧
      (c.view.sval c.e f.e0.toNat).toNat + (sendNamed f c s).size ≤ (s.warpLaunch c.k).info.sarea ∧
      (sendNamed f c s).closed = false ∧ (sendNamed f c s).cnt ≠ 0 ∧ (s.warp c.k).acquireOut = false ∧
      l1Stalled s (coreOf c.k) (s.fused c.k) = false)
    (fun c s =>
      let x := sendNamed f c s
      let r := sharedFetch c.k (c.view.sval c.e f.e0.toNat).toNat x.size s
      let t := releaseL1 (coreOf c.k) (r.2.fused c.k) 2 r.2
      (t.setSend (s.warp c.k).team (queueNum f) { x with cnt := x.cnt - 1, idx := (x.idx + 1) % x.slots }).modPkg
        (pkgOf (coreOf c.k)) (fun p => { p with chDeliveries := p.chDeliveries ++
          [{ launch := (s.team (s.warp c.k).team).launch, fromTeam := (s.warp c.k).team, fromEp := queueNum f,
             toTeam := s.peerKey (s.warp c.k).team x.peer, toEp := x.peerEp, slot := x.idx, bytes := r.1.map (·.1),
             poison := r.1.map (·.2), warp := c.k, after := (s.warp c.k).packageOut }] })) := by
  refine takesOwn_of (fun s => (rfl : execCsend h f s = _)) ?_
  rintro c s ⟨halign, hfits, hopen, hcredit, hacquire, hstall⟩
  unfold csendEffect
  dsimp only
  rw [if_neg (by simpa using halign), if_neg (Nat.not_lt.2 hfits), hopen, if_neg Bool.false_ne_true, hacquire, hstall]
  exact if_neg (by simpa using hcredit)

theorem crecv_frees (h : Hdr) (f : FX) : TakesOwn (.crecv h f) .first (fun c s => declCheck (recvNamed f c s))
    (fun _ _ => f.ctl.getLsbD 4 = true)
    (fun c s => (returnCredit c.k (s.warp c.k).team (recvNamed f c s) s).setRecv (s.warp c.k).team (queueNum f)
      { recvNamed f c s with held := false }) :=
  takesOwn_of (fun s => (rfl : execCrecv h f s = _)) fun _ _ hfree => if_pos hfree

theorem crecv_takes (h : Hdr) (f : FX) : TakesOwn (.crecv h f) .first (fun c s => declCheck (recvNamed f c s))
    (fun c s => f.ctl.getLsbD 4 = false ∧ (recvNamed f c s).cnt ≠ 0)
    (fun c s =>
      let x := recvNamed f c s
      produceWord c f.e0.toNat (BitVec.ofNat 32 (x.base + x.size * x.idx)) false
        (acquireL1 (coreOf c.k) (s.fused c.k) 2
          ((returnCredit c.k (s.warp c.k).team x s).setRecv (s.warp c.k).team (queueNum f)
            { x with cnt := x.cnt - 1, idx := (x.idx + 1) % x.slots, held := true }))) :=
  takesOwn_of (fun s => (rfl : execCrecv h f s = _)) fun _ _ ⟨htake, hsome⟩ =>
    (if_neg (Bool.eq_false_iff.1 htake)).trans (if_neg hsome)

theorem cpoll_writes (h : Hdr) (f : FX) : TakesOwn (.cpoll h f) .first (fun c s => declCheck (polled f c s))
    (fun _ _ => True)
    (fun c s => s.modWarp c.k (fun w => w.setS c.e f.e0.toNat
      (BitVec.ofNat 32 ((if (polled f c s).closed then 128 else 0) + (polled f c s).cnt)))) :=
  takesOwn_of (fun s => (rfl : execCpoll h f s = _)) fun _ _ _ => rfl

/-! ## VEER -/

/-- The modules toward die 1 that VEER asks for. -/
def veerCount (f : FX) (c : Ctx) : Nat := if f.e1 = 643#10 then f.ctl.toNat else (c.view.sval c.e f.e1.toNat).toNat

/-- VEER's status word, with the modules that carry traffic toward die 1 before it (R433). -/
def veerReplies (f : FX) (c : Ctx) (s : State) (r : Nat) (t : State) : State :=
  t.modWarp c.k (fun w => w.setS c.e f.e0.toNat
    (BitVec.ofNat 32 (2 ^ 16 * ((s.pkg (pkgOf (coreOf c.k))).carrying true).length + r)))

/-- VEER with a count that it may ask for, by the tenant's grant and the room in the queue (R433). -/
theorem veerEffect_inRange {f : FX} {c : Ctx} {s : State} (hlo : 4 ≤ veerCount f c) (hhi : veerCount f c ≤ 28) :
    veerEffect f c s =
      let p := pkgOf (coreOf c.k)
      .ok (if (s.warpLaunch c.k).granted = false then veerReplies f c s 1 s
        else if 8 ≤ (s.pkg p).turnQueue.length then veerReplies f c s 2 s
        else veerReplies f c s (2 ^ 8 * (s.pkg p).turnQueue.length)
          (s.modPkg p (fun x => { x with turnQueue := x.turnQueue ++ [veerCount f c] }))) := by
  have hrange : (decide (veerCount f c < 4) || decide (28 < veerCount f c)) = false := by
    simp only [Bool.or_eq_false_iff, decide_eq_false_iff_not]
    omega
  have hcount : (if f.e1 == 643#10 then f.ctl.toNat else (c.view.sval c.e f.e1.toNat).toNat) = veerCount f c := by
    simp only [veerCount, beq_iff_eq]
  unfold veerEffect
  dsimp only
  rw [hcount, hrange, if_neg Bool.false_ne_true]
  cases (s.warpLaunch c.k).granted with
  | false => rfl
  | true =>
    by_cases hfull : 8 ≤ (s.pkg (pkgOf (coreOf c.k))).turnQueue.length
    · simp only [hfull, if_true]
      rfl
    · simp only [hfull, if_false]
      rfl

section
variable (h : Hdr) (f : FX)

theorem veer_ungranted : TakesIf (.veer h f) .once
    (fun c s => (some1 c s ∧ 4 ≤ veerCount f c ∧ veerCount f c ≤ 28) ∧ (s.warpLaunch c.k).granted = false)
    (fun c s => veerReplies f c s 1 s) := by
  refine takesIf_of (fun s => (rfl : execVeer h f s = _)) ?_
  rintro c s ⟨⟨hlive, hlo, hhi⟩, hgrant⟩
  rw [onceEffect_live hlive, veerEffect_inRange hlo hhi]
  exact congrArg _ (if_pos hgrant)

theorem veer_full : TakesIf (.veer h f) .once
    (fun c s => (some1 c s ∧ 4 ≤ veerCount f c ∧ veerCount f c ≤ 28) ∧ (s.warpLaunch c.k).granted = true ∧
      8 ≤ (s.pkg (pkgOf (coreOf c.k))).turnQueue.length)
    (fun c s => veerReplies f c s 2 s) := by
  refine takesIf_of (fun s => (rfl : execVeer h f s = _)) ?_
  rintro c s ⟨⟨hlive, hlo, hhi⟩, hgrant, hfull⟩
  rw [onceEffect_live hlive, veerEffect_inRange hlo hhi]
  exact congrArg _ ((if_neg (by simp [hgrant])).trans (if_pos hfull))

theorem veer_queues : TakesIf (.veer h f) .once
    (fun c s => (some1 c s ∧ 4 ≤ veerCount f c ∧ veerCount f c ≤ 28) ∧ (s.warpLaunch c.k).granted = true ∧
      (s.pkg (pkgOf (coreOf c.k))).turnQueue.length < 8)
    (fun c s => veerReplies f c s (2 ^ 8 * (s.pkg (pkgOf (coreOf c.k))).turnQueue.length)
      (s.modPkg (pkgOf (coreOf c.k)) (fun x => { x with turnQueue := x.turnQueue ++ [veerCount f c] }))) := by
  refine takesIf_of (fun s => (rfl : execVeer h f s = _)) ?_
  rintro c s ⟨⟨hlive, hlo, hhi⟩, hgrant, hroom⟩
  rw [onceEffect_live hlive, veerEffect_inRange hlo hhi]
  exact congrArg _ ((if_neg (by simp [hgrant])).trans (if_neg (Nat.not_le.2 hroom)))

end

/-- Settles O34: each clause is its instruction's lemma above, and of the channels' three none acts without a live lane or
a second time. -/
theorem channelsAndVeerComplete : Obligations.ChannelsAndVeerComplete := fun h f =>
  ⟨csend_sends h f, crecv_frees h f, crecv_takes h f,
    idles_of_first (fun s => (rfl : execCsend h f s = _)) rfl,
    idles_of_first (fun s => (rfl : execCrecv h f s = _)) rfl,
    idles_of_first (fun s => (rfl : execCpoll h f s = _)) rfl,
    cpoll_writes h f, veer_ungranted h f, veer_full h f, veer_queues h f⟩

end Sys2Proof.Machine
end

section
/-!
PROOFS. The events of the copy engine and of channels, each under the statement's condition, and
CopiesAndChannelsDeliver from these (R279, R321, R406 to R412, R425, R426, R428).
-/

namespace Sys2Proof.Machine

open Sys2Proof Sys2Proof.Claims

/-- An access of a command that has begun, by the command's kind (R406). -/
def copyAccess (k : Nat) (q : CopyCmd) (s : State) : State :=
  match q.kind with
  | .tstore => storeStep k q s
  | .tpref => prefStep k q s
  | _ => fillStep k q s

/-- The command whose turn it is performs an access, and is the last that wrote (R406). -/
theorem copyRowWrite_served {k i : Nat} {q : CopyCmd} {s : State} (hturn : copyServed s k i = true)
    (hq : lget (s.core k).copies i = some q) :
    exec (.copyRowWrite k i) s = .next (copyAccess k q (onCore k (fun c => { c with copyNext := q.id })
      (modCopy k q.id (fun y => { y with begun := true }) s))) := by
  show execCopyRowWrite k i s = _
  unfold execCopyRowWrite copyAccess
  rw [hturn, hq]
  dsimp only
  cases q.kind <;> rfl

/-- A command whose rows are written and which has nothing in flight completes (R406). -/
theorem copyCommandComplete_done {k i : Nat} {q : CopyCmd} {s : State} (hq : lget (s.core k).copies i = some q)
    (hgoes : q.stopped = none) (hrows : q.rows ≤ q.nextRow) (hflight : q.inFlight = 0) :
    exec (.copyCommandComplete k i) s = .next (
      let t := onCore k (fun c => { c with copies := ldel c.copies i }) s
      copyCredits q (if q.kind ≠ .tstore ∧ q.ownTile (s.team q.team).number = true then fillEnds q.team q.tile t
        else t)) := by
  have hover : (q.stopped.isSome || decide (q.nextRow < q.rows) || q.inFlight != 0) = false := by
    simp [hgoes, hrows, hflight]
  show execCopyCommandComplete k i s = _
  unfold execCopyCommandComplete
  rw [hq]
  dsimp only
  rw [hover, if_neg Bool.false_ne_true]
  simp only [onCore, Bool.and_eq_true, bne_iff_ne]

/-- A multicast access is judged, and counted as dropped once for each team, as it arrives (R279). -/
theorem multicastDelivery_judged {k i : Nat} {m : McDelivery} {s : State}
    (hm : lget (s.pkg k).multicasts i = some m) :
    exec (.multicastDelivery k i) s = .next (
      let r := deliverRow m.toTeam m.tile m.row m.first (List.zipWith (fun b p => (b, p)) m.bytes m.poison)
        (onPkg k (fun _ y => { y with multicasts := ldel y.multicasts i }) s)
      let short := r.1 < m.bytes.length
      let seen := (((s.core m.core).copies.find? (fun y => y.id == m.cmd)).map
        (fun y => y.dropped.contains m.toTeam)).getD false
      let t := if short ∧ seen = false then countCore 0x21 1 (s.team m.toTeam).core r.2 else r.2
      modCopy m.core m.cmd (fun y => { y with
        inFlight := y.inFlight - 1
        credits := tput y.credits m.toTeam ((tget y.credits m.toTeam).getD 0 + r.1)
        dropped := if short then unionList y.dropped [m.toTeam] else y.dropped }) t) := by
  have hseen (o : Option CopyCmd) :
      (match o with | some y => y.dropped.contains m.toTeam | none => false) =
        (o.map (fun y => y.dropped.contains m.toTeam)).getD false := by
    cases o <;> rfl
  show execMulticastDelivery k i s = _
  unfold execMulticastDelivery onPkg
  rw [hm]
  dsimp only
  generalize deliverRow m.toTeam m.tile m.row m.first _ _ = r
  obtain ⟨n, t⟩ := r
  rw [← hseen]
  simp only [decide_eq_true_eq, Bool.and_eq_true, Bool.not_eq_true'] <;> rfl

/-- A channel's bytes land while the receiving team is there (R425, R428). -/
theorem channelDelivery_lands {k i : Nat} {d : ChDelivery} {s : State} (hdue : deliveryDue s (s.pkg k) i = true)
    (hd : lget (s.pkg k).chDeliveries i = some d) (hdecl : (s.recv d.toTeam d.toEp).decl = true)
    (hheld : s.teamHeld d.toTeam = true) :
    exec (.channelDelivery k i) s = .next (
      let y := s.recv d.toTeam d.toEp
      (sharedMove d.toTeam (y.base + y.size * d.slot) (List.zipWith (fun b p => (b, p)) d.bytes d.poison)
        (onPkg k (fun _ p => { p with chDeliveries := ldel p.chDeliveries i }) s)).setRecv d.toTeam d.toEp
        { y with cnt := y.cnt + 1 }) := by
  have hthere : (!(s.recv d.toTeam d.toEp).decl || !s.teamHeld d.toTeam) = false := by
    rw [hdecl, hheld]
    rfl
  show execChannelDelivery k i s = _
  unfold execChannelDelivery
  rw [hdue, hd]
  exact if_neg (Bool.eq_false_iff.1 hthere)

/-- A freed slot's credit arrives while the sending team is there (R426, R428). -/
theorem channelCreditReturn_arrives {k i : Nat} {x : ChCredit} {s : State}
    (hx : lget (s.pkg k).chCredits i = some x) (hdecl : (s.send x.toTeam x.toEp).decl = true)
    (hheld : s.teamHeld x.toTeam = true) :
    exec (.channelCreditReturn k i) s = .next (
      (onPkg k (fun _ p => { p with chCredits := ldel p.chCredits i }) s).setSend x.toTeam x.toEp
        { s.send x.toTeam x.toEp with cnt := (s.send x.toTeam x.toEp).cnt + 1 }) := by
  show execChannelCreditReturn k i s = _
  unfold execChannelCreditReturn
  rw [hx]
  exact if_pos (Bool.and_eq_true_iff.2 ⟨hdecl, hheld⟩)

/-- Settles O40: each clause is its event's lemma above. -/
theorem copiesAndChannelsDeliver : Obligations.CopiesAndChannelsDeliver := fun _ _ _ _ _ _ =>
  ⟨fun _ ⟨hturn, hq⟩ => copyRowWrite_served hturn hq,
    fun _ ⟨hq, hgoes, hrows, hflight⟩ => copyCommandComplete_done hq hgoes hrows hflight,
    fun _ hm => multicastDelivery_judged hm,
    fun _ ⟨hdue, hd, hdecl, hheld⟩ => channelDelivery_lands hdue hd hdecl hheld,
    fun _ ⟨hx, hdecl, hheld⟩ => channelCreditReturn_arrives hx hdecl hheld⟩

end Sys2Proof.Machine
end

section
/-!
PROOFS. The commands on rings, translations, partitions, tables and grants, each under the statement's condition, and
TableCommands from these (R287, R290, R291, R295, R308, R316).
-/

namespace Sys2Proof.Machine

open Sys2Proof Sys2Proof.Claims

/-- The statements' completion of a command is the model's. -/
theorem answered_eq_answer : answered = answer := rfl

/-! ## Rings -/

theorem ringBusy_iff (s : State) (p ring : Nat) : ringBusy s p ring = true ↔ ∃ r ∈ (s.pkg p).runs, r.ring = ring := by
  simp only [ringBusy, List.any_eq_true, beq_iff_eq]

/-- The parameters of a ring's binding: 16 slots to 65,536, of 256-byte records and 64 KiB tables (R295). -/
def GoodRing (ring k : Nat) (ba : A80) (root : BitVec 56) : Prop :=
  ring < 64 ∧ 4 ≤ k ∧ k ≤ 16 ∧ ba.toNat % 256 = 0 ∧ root.toNat % 2 ^ 16 = 0 ∧ root.toNat < 2 ^ 39

theorem badRing_iff (ring k : Nat) (ba : A80) (root : BitVec 56) :
    (decide (64 ≤ ring) || decide (k < 4) || decide (16 < k) || ba.toNat % 256 != 0 || root.toNat % 2 ^ 16 != 0 ||
      decide (2 ^ 39 ≤ root.toNat)) = true ↔ ¬GoodRing ring k ba root := by
  simp only [Bool.or_eq_true, decide_eq_true_eq, bne_iff_ne, GoodRing]
  omega

section
variable {p tag ring k asn : Nat} {ba : A80} {root : BitVec 56} {tk : BitVec 8} {s : State}

theorem ringBind_good (hgood : GoodRing ring k ba root) :
    exec (.ringBind p tag ring ba k root asn tk) s = .next (if ringBusy s p ring = true then answered p tag 3 s
      else answered p tag 0 (onPkg p (fun _ x => { x with
        rings := tput x.rings ring
          { base := ba, logSlots := k, root := root.toNat, asn := asn, tkey := tk, live := [], prefetched := [],
            torn := [] } }) s)) := by
  show execRingBind p tag ring ba k root asn tk s = _
  unfold execRingBind
  rw [if_neg (mt (badRing_iff ring k ba root).1 (not_not_intro hgood))]
  cases ringBusy s p ring <;> rfl

theorem ringBind_bad (hbad : ¬GoodRing ring k ba root) :
    exec (.ringBind p tag ring ba k root asn tk) s = .next (answered p tag 2 s) :=
  if_pos ((badRing_iff ring k ba root).2 hbad)

theorem ringUnbind_bound (hbound : (tget (s.pkg p).rings ring).isSome = true) :
    exec (.ringUnbind p tag ring) s = .next (if ringBusy s p ring = true then answered p tag 3 s
      else answered p tag 0 (onPkg p (fun _ x => { x with rings := tdel x.rings ring }) s)) := by
  have hthere : (s.ringOf p ring).isNone = false := Option.isNone_eq_false_iff.2 hbound
  show execRingUnbind p tag ring s = _
  unfold execRingUnbind
  rw [hthere, if_neg Bool.false_ne_true]
  cases ringBusy s p ring <;> rfl

end

/-! ## Partitions and tables -/

/-- Whether a team runs on a core that would move into a partition (R308). -/
def Moving (p die part : Nat) (mask : BitVec 160) (s : State) : Prop :=
  ∃ t ∈ s.teams, t.2.run = .running ∧ t.2.core / 160 = 2 * p + die ∧
    (mask &&& ~~~(s.pkg p).userPart die part).getLsbD (t.2.core % 160) = true

theorem moving_iff (p die part : Nat) (mask : BitVec 160) (s : State) :
    s.teams.any (fun t => t.2.run == .running && t.2.core / 160 == 2 * p + die &&
      (mask &&& ~~~(s.pkg p).userPart die part).getLsbD (t.2.core % 160)) = true ↔ Moving p die part mask s := by
  simp only [List.any_eq_true, Bool.and_eq_true, beq_iff_eq, and_assoc, Moving]

section
variable {p tag die part : Nat} {mask : BitVec 160} {s : State}

/-- The partitions of a die with the cores of a mask in one of them and in no other (R308). -/
def repartitioned (p die part : Nat) (mask : BitVec 160) (s : State) (x : Package) : Package :=
  { x with partitions := (List.range 15).foldl (fun t q => tput t (16 * die + q)
      (if q = part then (s.pkg p).userPart die q ||| mask else (s.pkg p).userPart die q &&& ~~~mask)) x.partitions }

theorem badPartition_eq_false (hdie : die < 2) (hpart : part < 15) :
    (decide (2 ≤ die) || decide (15 ≤ part)) = false := by
  simp only [Bool.or_eq_false_iff, decide_eq_false_iff_not]
  omega

theorem partition_moves (hdie : die < 2) (hpart : part < 15) (hfree : ¬Moving p die part mask s) :
    exec (.partition p tag die part mask) s = .next (answered p tag 0 (onPkg p (repartitioned p die part mask) s)) := by
  show execPartition p tag die part mask s = _
  unfold execPartition
  dsimp only
  rw [badPartition_eq_false hdie hpart, if_neg Bool.false_ne_true]
  rw [if_neg (mt (moving_iff p die part mask s).1 hfree), answered_eq_answer]
  simp only [onPkg, repartitioned, State.modPkg]
  rfl

theorem partition_refused (hdie : die < 2) (hpart : part < 15) (hbusy : Moving p die part mask s) :
    exec (.partition p tag die part mask) s = .next (answered p tag 3 s) := by
  show execPartition p tag die part mask s = _
  unfold execPartition
  dsimp only
  rw [badPartition_eq_false hdie hpart, if_neg Bool.false_ne_true]
  exact if_pos ((moving_iff p die part mask s).2 hbusy)

end

theorem residencyWrite_writes {p tag die entry : Nat} {value : BitVec 128} {s : State} (hdie : die < 2)
    (hentry : entry < 1024) (hclass : ((value &&& ~~~(0x7FFFE#128)).extractLsb' 45 3).toNat ≤ 2) :
    exec (.residencyWrite p tag die entry value) s = .next (answered p tag 0 (onPkg p (fun _ x => { x with
      residency := tput x.residency (1024 * die + entry) (value &&& ~~~(0x7FFFE#128))
      sweepDue := tput x.sweepDue die true }) s)) := by
  have hfield : (fieldOf (value &&& ~~~(0x7FFFE#128)) 45 3).toNat ≤ 2 := hclass
  refine if_neg ?_
  simp only [Bool.or_eq_true, decide_eq_true_eq]
  omega

theorem cxlWindow_moves {p tag die window base size : Nat} {ports : BitVec 4} {s : State}
    (hdie : die < 2) (hwindow : window < 16) (hbase : base % 2 ^ 29 = 0) (hsize : size % 2 ^ 29 = 0)
    (hend : base + size ≤ 2 ^ 55) (hports : portCount ports ∈ [1, 2, 4]) :
    exec (.cxlWindow p tag die window base size ports) s = .next (answered p tag 0
      (setCxlWindow p (16 * die + window) { base := base, size := size, ports := ports } s)) := by
  have hcount : portCount ports = 1 ∨ portCount ports = 2 ∨ portCount ports = 4 := by simpa using hports
  refine if_neg ?_
  simp only [Bool.or_eq_true, decide_eq_true_eq, Bool.and_eq_true, bne_iff_ne]
  omega

/-- Settles O47: each clause is its command's lemma above, read in the case of the ring's state where it has one. -/
theorem tableCommands : Obligations.TableCommands := by
  intro p tag ring k asn die part n entry window base size tkey lo hi ba root tk mask value ports grant all
  refine ⟨fun s ⟨hgood, hfree⟩ => ?_, fun s ⟨hgood, hbusy⟩ => ?_, fun s hbad => ringBind_bad hbad,
    fun s ⟨hbound, hfree⟩ => ?_, fun s ⟨hbound, hbusy⟩ => ?_, fun _ _ => rfl,
    fun s ⟨hdie, hpart, hfree⟩ => partition_moves hdie hpart hfree,
    fun s ⟨hdie, hpart, hbusy⟩ => partition_refused hdie hpart hbusy,
    fun s hn => if_neg (Nat.not_lt.2 hn), fun s ⟨hdie, hentry, hclass⟩ => residencyWrite_writes hdie hentry hclass,
    fun s ⟨hdie, hwindow, hbase, hsize, hend, hports⟩ => cxlWindow_moves hdie hwindow hbase hsize hend hports,
    fun s htkey => if_neg (Nat.not_le.2 htkey)⟩
  · exact (ringBind_good hgood).trans (congrArg _ (if_neg (mt (ringBusy_iff s p ring).1 hfree)))
  · exact (ringBind_good hgood).trans (congrArg _ (if_pos ((ringBusy_iff s p ring).2 hbusy)))
  · exact (ringUnbind_bound hbound).trans (congrArg _ (if_neg (mt (ringBusy_iff s p ring).1 hfree)))
  · exact (ringUnbind_bound hbound).trans (congrArg _ (if_pos ((ringBusy_iff s p ring).2 hbusy)))

end Sys2Proof.Machine
end

section
/-!
PROOFS. The commands of firmware, the debugger and BAR2, each under the statement's condition, and FirmwareAndBarCommands
from these (R310 to R312, R314, R316, R485, R490).
-/

namespace Sys2Proof.Machine

open Sys2Proof Sys2Proof.Claims

/-! ## Firmware -/

/-- The bytes of an image, and the state once they are read (R311). -/
def imageRead (p addr len : Nat) (s : State) : List Byte × State :=
  ((busTake p (busPlace addr) len s).1.map (·.1), (busTake p (busPlace addr) len s).2)

/-- An image that firmware takes: no older than it may be, accepted, and none waits for its takeover (R311). -/
def ImageAccepted (p : Nat) (r : List Byte × State) : Prop :=
  Config.minVersion ≤ Config.imageVersion r.1 ∧ Config.imageAccepts r.1 = true ∧ (r.2.pkg p).fwPending = none

theorem imageRefused_iff (p : Nat) (r : List Byte × State) :
    (decide (Config.imageVersion r.1 < Config.minVersion) || !Config.imageAccepts r.1 || (r.2.pkg p).fwPending.isSome) = true
      ↔ ¬ImageAccepted p r := by
  simp only [Bool.or_eq_true, decide_eq_true_eq, Bool.not_eq_true', ImageAccepted, Option.isSome_iff_ne_none]
  cases Config.imageAccepts r.1 <;> grind

section
variable {p tag addr len : Nat} {s : State}

/-- FW_UPDATE by what it reads: an image that does not verify, one that is refused, one whose takeover is to come. -/
theorem fwUpdate_cases :
    exec (.fwUpdate p tag addr len) s = .next (
      let r := imageRead p addr len s
      if (!Config.imageVerifies r.1) = true then answered p tag 4 r.2
      else if (decide (Config.imageVersion r.1 < Config.minVersion) || !Config.imageAccepts r.1 ||
          (r.2.pkg p).fwPending.isSome) = true then answered p tag 3 r.2
      else onPkg p (fun _ x => { x with fwPending := some (tag, leValue r.1, Config.imageVersion r.1) }) r.2) := by
  show execFwUpdate p tag addr len s = _
  unfold execFwUpdate imageRead
  generalize busTake p (busPlace addr) len s = r
  obtain ⟨cs, t⟩ := r
  dsimp only
  split
  · rfl
  · split <;> rfl

theorem fwUpdate_pending (hverifies : Config.imageVerifies (imageRead p addr len s).1 = true)
    (haccept : ImageAccepted p (imageRead p addr len s)) :
    exec (.fwUpdate p tag addr len) s = .next (onPkg p (fun _ x => { x with
      fwPending := some (tag, leValue (imageRead p addr len s).1, Config.imageVersion (imageRead p addr len s).1) })
        (imageRead p addr len s).2) := by
  rw [fwUpdate_cases]
  dsimp only
  rw [hverifies, if_neg (by decide), if_neg (mt (imageRefused_iff p _).1 (not_not_intro haccept))]

theorem fwUpdate_refused (hverifies : Config.imageVerifies (imageRead p addr len s).1 = true)
    (hrefuse : ¬ImageAccepted p (imageRead p addr len s)) :
    exec (.fwUpdate p tag addr len) s = .next (answered p tag 3 (imageRead p addr len s).2) := by
  rw [fwUpdate_cases]
  dsimp only
  rw [hverifies, if_neg (by decide), if_pos ((imageRefused_iff p _).2 hrefuse)]

theorem fwUpdate_unsigned (hverifies : Config.imageVerifies (imageRead p addr len s).1 = false) :
    exec (.fwUpdate p tag addr len) s = .next (answered p tag 4 (imageRead p addr len s).2) := by
  rw [fwUpdate_cases]
  dsimp only
  rw [hverifies]
  rfl

end

theorem lullTakeover_takes {p tag image version : Nat} {s : State}
    (hpending : (s.pkg p).fwPending = some (tag, image, version)) (hlull : lullPoint s p = true) :
    exec (.lullTakeover p) s = .next (answered p tag 0 (onPkg p (fun _ x => { x with
      firmware := tput x.firmware (1 - x.activeFw)
        { x.fw (1 - x.activeFw) with image := image, secVersion := version }
      activeFw := 1 - x.activeFw, fwPending := none }) s)) := by
  show execLullTakeover p s = _
  unfold execLullTakeover
  rw [hpending]
  dsimp only
  rw [hlull]
  rfl

theorem breakResume_resumes {p tag team warpid k : Nat} {s : State}
    (hfind : (s.teamWarps team).find? (fun k => (s.warp k).warpid == warpid) = some k) (hpkg : pkgOf (coreOf k) = p)
    (hparked : (s.warp k).park = .breakpoint) :
    exec (.breakResume p tag team warpid) s = .next (answered p tag 0 (settle k (s.modWarp k (fun w =>
      { w.resumeAfter w.trapEntry (w.trapPc.extractLsb' 0 32) with park := .no })))) := by
  show execBreakResume p tag team warpid s = _
  unfold execBreakResume
  rw [hfind]
  dsimp only
  rw [if_neg (by simp [hpkg]), if_neg (by simp [hparked])]
  rfl

/-! ## BAR2's windows -/

theorem wbaseOk_iff (b w : Nat) : wbaseOk b w = true ↔ w % (b / 2) = 0 ∧ w + b / 2 ≤ 2 ^ 38 := by
  simp only [wbaseOk, Bool.and_eq_true, beq_iff_eq, decide_eq_true_eq]

section
variable {p tag w0 w1 : Nat} {s : State}

theorem bar2Window_moves (h0 : wbaseOk (s.pkg p).bar2Size w0 = true) (h1 : wbaseOk (s.pkg p).bar2Size w1 = true) :
    exec (.bar2Window p tag w0 w1) s = .next (answered p tag 0
      (onPkg p (fun _ x => { x with wbase0 := w0, wbase1 := w1 }) s)) := by
  refine if_pos ?_
  rw [h0, h1]
  rfl

theorem bar2Window_refused
    (h : ¬(wbaseOk (s.pkg p).bar2Size w0 = true ∧ wbaseOk (s.pkg p).bar2Size w1 = true)) :
    exec (.bar2Window p tag w0 w1) s = .next (answered p tag 3 s) :=
  if_neg (mt Bool.and_eq_true_iff.1 h)

end

/-- A resize within R314's bounds: a window's base that no longer fits returns to 0. -/
theorem resizableBarSizeWrite_resizes {p logSize : Nat} {s : State} (hlo : 34 ≤ logSize) (hhi : logSize ≤ 39) :
    exec (.resizableBarSizeWrite p logSize) s = .next (onPkg p (fun _ x => { x with
      bar2Size := 2 ^ logSize
      wbase0 := if x.wbase0 % (2 ^ logSize / 2) = 0 ∧ x.wbase0 + 2 ^ logSize / 2 ≤ 2 ^ 38 then x.wbase0 else 0
      wbase1 := if x.wbase1 % (2 ^ logSize / 2) = 0 ∧ x.wbase1 + 2 ^ logSize / 2 ≤ 2 ^ 38 then x.wbase1 else 0 }) s) := by
  have hfits : (decide (logSize < 34) || decide (39 < logSize)) = false := by
    simp only [Bool.or_eq_false_iff, decide_eq_false_iff_not]
    omega
  show execResizableBarSizeWrite p logSize s = _
  unfold execResizableBarSizeWrite
  rw [hfits, if_neg Bool.false_ne_true]
  simp only [onPkg, wbaseOk_iff]

theorem commandBadOpcode_ends {p tag : Nat} {opcode : BitVec 16} {s : State}
    (hbad : opcode = 0#16 ∨ 0x0E ≤ opcode.toNat) :
    exec (.commandBadOpcode p tag opcode) s = .next (answered p tag 1 s) := by
  refine if_neg ?_
  simp only [Bool.and_eq_true, decide_eq_true_eq]
  rcases hbad with rfl | hbad
  · decide
  · omega

/-! ## Registers -/

section
variable {p offset : Nat} {value : BitVec 64} {s : State}

/-- A write outside the doorbell pages is BAR0's. -/
theorem registerWriteIgnored_outside (h : offset < 0x80000 ∨ 0xC0000 ≤ offset) :
    exec (.registerWriteIgnored p offset value) s = .next (bar0Write p offset (leBytes 8 value.toNat) s) := by
  refine congrArg _ (if_neg ?_)
  simp only [Bool.and_eq_true, decide_eq_true_eq]
  omega

theorem bar0Write_readOnly {bs : List Byte}
    (h : (0x40 ≤ offset ∧ offset < 0x100) ∨ (0x10000 ≤ offset ∧ offset < 0x39000)) :
    bar0Write p offset bs s = s := by
  refine if_pos ?_
  simpa only [Bool.or_eq_true, Bool.and_eq_true, decide_eq_true_eq] using h

theorem bar0Write_held {bs : List Byte}
    (h : ¬((0x40 ≤ offset ∧ offset < 0x100) ∨ (0x10000 ≤ offset ∧ offset < 0x39000))) :
    bar0Write p offset bs s = onPkg p (fun _ x => { x with
      queueRegs := (List.range bs.length).foldl (fun t i =>
        tput t (offset + i) ((lget bs i).getD 0#8)) x.queueRegs }) s := by
  refine if_neg ?_
  simpa only [Bool.or_eq_true, Bool.and_eq_true, decide_eq_true_eq] using h

theorem registerWriteIgnored_readOnly
    (h : (0x40 ≤ offset ∧ offset < 0x100) ∨ (0x10000 ≤ offset ∧ offset < 0x39000)) :
    exec (.registerWriteIgnored p offset value) s = .next s := by
  rw [registerWriteIgnored_outside (by omega), bar0Write_readOnly h]

theorem registerWriteIgnored_held (h : offset < 0x40 ∨ (0x100 ≤ offset ∧ offset < 0x10000) ∨
      (0x39000 ≤ offset ∧ offset < 0x80000) ∨ 0xC0000 ≤ offset) :
    exec (.registerWriteIgnored p offset value) s = .next (onPkg p (fun _ x => { x with
      queueRegs := (List.range 8).foldl (fun t i =>
        tput t (offset + i) ((lget (leBytes 8 value.toNat) i).getD 0#8)) x.queueRegs }) s) := by
  rw [registerWriteIgnored_outside (by omega), bar0Write_held (by omega), leBytes_length]

theorem registerWriteIgnored_doorbellPage (hlo : 0x80000 ≤ offset) (hhi : offset < 0xC0000) :
    exec (.registerWriteIgnored p offset value) s = .next (countDie 0x43 1 p 0 s) := by
  refine congrArg _ (if_pos ?_)
  simp only [hlo, hhi, decide_true, Bool.and_true]

end

/-! ## BAR2's requests -/

/-- The keys that a request through BAR2 reaches, line by line, with their bytes (R314, R490). -/
def bar2Pieces (p offset len : Nat) (s : State) : List (Nat × Nat) :=
  (piecesOf (BitVec.ofNat 80 offset) len).map (fun q => (bar2Key (s.pkg p) p q.1.toNat, q.2))

/-- A request within BAR2 joins those that wait, which are served in order. -/
theorem bar2Request_inside {p offset : Nat} {write : Bool} {data : List Byte} {s : State}
    (hgood : offset + data.length ≤ (s.pkg p).bar2Size) :
    exec (.bar2Request p write offset data) s = .next (serveInbound p
      ((s.pkg p).inbound ++ [(write, bar2Pieces p offset data.length s, data)]) s) :=
  if_neg (Nat.not_lt.2 hgood)

theorem stalls_iff (s : State) (qs : List (Nat × Nat)) :
    qs.any (fun q => regionIs s q.1 .migrating) = true ↔ ∃ q ∈ qs, regionIs s q.1 .migrating = true :=
  List.any_eq_true

/-- A request that meets a MIGRATING region waits, with those behind it (R289, R490). -/
theorem serveInbound_waits {p : Nat} {x : Bool × List (Nat × Nat) × List Byte}
    {xs : List (Bool × List (Nat × Nat) × List Byte)} {s : State}
    (hstall : ∃ q ∈ x.2.1, regionIs s q.1 .migrating = true) :
    serveInbound p (x :: xs) s = onPkg p (fun _ y => { y with inbound := x :: xs }) s := by
  obtain ⟨write, qs, data⟩ := x
  exact if_pos ((stalls_iff s qs).2 hstall)

/-- The bytes of a write stored at the home slices of their lines. -/
theorem serveInbound_write {p : Nat} {qs : List (Nat × Nat)} {data : List Byte} {s : State}
    (hgo : ¬∃ q ∈ qs, regionIs s q.1 .migrating = true) :
    serveInbound p [(true, qs, data)] s = onPkg p (fun _ x => { x with inbound := [] })
      (qs.foldl (fun (a : State × List Byte) q =>
        (homeStore q.1 (a.2.take q.2) (touchHome q.1 0#8 a.1), a.2.drop q.2)) (s, data)).1 :=
  if_neg (mt (stalls_iff s qs).1 hgo)

/-- The bytes of a read, in the order of their lines, with what is in error resolved. -/
theorem serveInbound_read {p : Nat} {qs : List (Nat × Nat)} {data : List Byte} {s : State}
    (hgo : ¬∃ q ∈ qs, regionIs s q.1 .migrating = true) :
    serveInbound p [(false, qs, data)] s =
      let r := qs.foldl (fun (a : List (Byte × Bool) × State) q =>
        let u := (List.range ((q.1 % 4 + q.2 + 3) / 4)).foldl
          (fun t i => resolveMem (q.1 / 4 * 4 + 4 * i) t) (touchHome q.1 0#8 a.2)
        (a.1 ++ homeRead q.1 q.2 u, u)) ([], s)
      onPkg p (fun _ x => { x with inbound := [] })
        (onPkg p (fun _ x => { x with reads := x.reads ++ [(r.1.map (·.1), r.1.any (·.2))] }) r.2) :=
  if_neg (mt (stalls_iff s qs).1 hgo)

theorem bar2Request_waits {p offset : Nat} {write : Bool} {data : List Byte} {s : State}
    (hgood : offset + data.length ≤ (s.pkg p).bar2Size)
    (hheld : ∃ x xs, (s.pkg p).inbound ++ [(write, bar2Pieces p offset data.length s, data)] = x :: xs ∧
      ∃ q ∈ x.2.1, regionIs s q.1 .migrating = true) :
    exec (.bar2Request p write offset data) s = .next (onPkg p (fun _ x => { x with
      inbound := x.inbound ++ [(write, bar2Pieces p offset data.length s, data)] }) s) := by
  obtain ⟨x, xs, hqueue, hstall⟩ := hheld
  rw [bar2Request_inside hgood, hqueue, serveInbound_waits hstall, ← hqueue]
  rfl

/-- Settles O48: each clause is its command's lemma above. -/
theorem firmwareAndBarCommands : Obligations.FirmwareAndBarCommands := by
  intro p tag addr len team warpid base size w0 w1 logSize offset k image version nonce opcode value data
  refine ⟨fun s ⟨hverifies, haccept⟩ => fwUpdate_pending hverifies haccept,
    fun s ⟨hverifies, hrefuse⟩ => fwUpdate_refused hverifies hrefuse,
    fun s hverifies => fwUpdate_unsigned hverifies,
    fun s ⟨hpending, hlull⟩ => lullTakeover_takes hpending hlull, fun _ _ => rfl,
    fun s ⟨hfind, hpkg, hparked⟩ => breakResume_resumes hfind hpkg hparked, fun _ _ => rfl,
    fun s ⟨h0, h1⟩ => bar2Window_moves ((wbaseOk_iff _ _).2 h0) ((wbaseOk_iff _ _).2 h1),
    fun s hno => bar2Window_refused (mt (And.imp (wbaseOk_iff _ _).1 (wbaseOk_iff _ _).1) hno),
    fun s ⟨hlo, hhi⟩ => resizableBarSizeWrite_resizes hlo hhi, fun s hbad => commandBadOpcode_ends hbad,
    fun s h => registerWriteIgnored_readOnly h, fun s h => registerWriteIgnored_held h,
    fun s ⟨hlo, hhi⟩ => registerWriteIgnored_doorbellPage hlo hhi,
    fun s ⟨hgood, hnone, hgo⟩ => ?_, fun s ⟨hgood, hnone, hgo⟩ => ?_,
    fun s ⟨hgood, hheld⟩ => bar2Request_waits hgood hheld, fun s ⟨hgood, hheld⟩ => bar2Request_waits hgood hheld⟩
  · rw [bar2Request_inside hgood, hnone]
    exact congrArg _ (serveInbound_write hgo)
  · rw [bar2Request_inside hgood, hnone]
    exact congrArg _ (serveInbound_read hgo)

end Sys2Proof.Machine
end

section
/-!
PROOFS. The graph's nodes: a node that starts performs its kind's step, each kind's step by what its reads return, and
NodesAct from these (R302, R307).
-/

namespace Sys2Proof.Machine

open Sys2Proof Sys2Proof.Claims

/-- A ready node of the event's kind performs the step of its kind, in the state in which its record is read (R299). -/
theorem startNode_starts {p ring slot kind i : Nat} {g : Ring} {d : List Byte} {t s : State}
    (h : starts p ring slot kind i g d t s) : startNode p ring slot kind s = nodeStep p i g (nodeOf d) none t := by
  obtain ⟨hfind, hring, ⟨r, hrun, rfl⟩, ⟨z, hfetched, hphase, hrecord⟩, hkind, huntried⟩ := h
  have hgo : ((nodeOf d).kind != kind || (kind == 1 && untriedAhead s p i (nodeOf d))) = false := by
    by_cases hone : kind = 1
    · simp [hkind, huntried hone]
    · simp [hkind, hone]
  unfold startNode
  simp only [hfind, hring, hrun, hfetched, hphase, hrecord, hgo, Bool.false_eq_true, if_false]

/-! ## The steps -/

section
variable {p i : Nat} {g : Ring} {d : NodeRec} {again : Option Nat} {s t : State} {bs : List (Byte × Bool)}

/-- A KERNEL node with a good launch record, at its first run, is tried with the ranges of its OUTLIST (R307). -/
theorem kernelStep_good {u : State} {os : List (Byte × Bool)} (hread : feRead p g d.lrec 512 s = (.bytes bs, t))
    (hcoll : (launchRecOf (bs.map (·.1))).coll = (d.part == 0#32)) (hcode : launchCode d.lrec (bs.map (·.1)) = 0)
    (hfeasible : feasible t p (launchRecOf (bs.map (·.1))) d.part = true)
    (hfirst : ∀ y, s.runAt p i = some y → y.replays = 0)
    (houts : if d.nout = 0 then os = [] ∧ u = t else feRead p g d.outlist (16 * d.nout) t = (.bytes os, u)) :
    kernelStep p i g d again s = tryPlace p i (modRun p i (fun r => { r with
      lrec := some (launchRecOf (bs.map (·.1))), outputs := outputsOf (os.map (·.1)) d.nout }) u) := by
  have hreplay : (match s.runAt p i with | some r => r.replays != 0 | none => false) = false := by
    cases hrun : s.runAt p i with
    | none => rfl
    | some y => simp [hfirst y hrun]
  have hlist : (if d.nout = 0 then (EngineAns.bytes [], t) else feRead p g d.outlist (16 * d.nout) t)
      = (.bytes os, u) := by
    split at houts
    case isTrue hnone =>
      obtain ⟨rfl, rfl⟩ := houts
      exact if_pos hnone
    case isFalse hsome => exact (if_neg hsome).trans houts
  unfold kernelStep
  simp only [hread, hcoll, hcode, hfeasible, hlist, bne_self_eq_false, Bool.false_eq_true, Bool.not_true, if_false]
  exact if_neg (Bool.eq_false_iff.1 hreplay)

theorem copyStep_moved (hcopy : copyPieces p g (piecesOf d.lrec d.value) d.args (loadPhase p g.tkey d.phase s)
    = (.bytes bs, t)) : copyStep p i g d s = succeed p i d.succ t := by
  unfold copyStep
  rw [hcopy]

/-- A WHILE node whose word is 0 exits. -/
theorem whileStep_exits {r : NodeRun} (hread : feAcquire p g d.cond 4 s = (.bytes bs, t))
    (hrun : s.runAt p i = some r) (hzero : leValue (bs.map (·.1)) = 0) :
    whileStep p i g d again s = succeed p i (d.succ.drop 1) t := by
  unfold whileStep
  rw [hread, hrun]
  exact if_pos hzero

/-- A WHILE node whose word is not 0 loops. -/
theorem whileStep_loops {r : NodeRun} (hread : feAcquire p g d.cond 4 s = (.bytes bs, t))
    (hrun : s.runAt p i = some r) (hsome : leValue (bs.map (·.1)) ≠ 0) :
    whileStep p i g d again s = ((lget d.succ 0).toList).foldl (fun s y => releaseOne p y s)
      (setLive p r.ring r.slot d.loopPreds (dropRun p i t)) := by
  unfold whileStep
  rw [hread, hrun]
  exact if_neg hsome

theorem waitStep_reached (hread : feAcquire p g d.cond 8 s = (.bytes bs, t)) (hword : d.value ≤ leValue (bs.map (·.1))) :
    waitStep p i g d again s = succeed p i d.succ t := by
  unfold waitStep
  rw [hread]
  exact if_pos hword

theorem waitStep_waits (hread : feAcquire p g d.cond 8 s = (.bytes bs, t)) (hword : leValue (bs.map (·.1)) < d.value) :
    waitStep p i g d again s = modRun p i (fun r => { r with phase := .waitWord }) t := by
  unfold waitStep
  rw [hread]
  exact if_neg (Nat.not_le.2 hword)

end

/-- A WAIT node that waits for its word reads it again (R302). -/
theorem waitNodeReread_step {p ring slot i : Nat} {g : Ring} {r : NodeRun} {s : State}
    (hfind : findRun s p ring slot (· == .waitWord) = some i) (hring : s.ringOf p ring = some g)
    (hrun : s.runAt p i = some r) : exec (.waitNodeReread p ring slot) s = .next (waitStep p i g r.node none s) := by
  show execWaitNodeReread p ring slot s = _
  unfold execWaitNodeReread
  simp only [hfind, hring, hrun]

/-! ## The nodes -/

/-- The step of a started node, as the event answers it: its kind's. -/
theorem started {p ring slot kind i : Nat} {g : Ring} {d : List Byte} {t s u : State}
    (h : starts p ring slot kind i g d t s) (hstep : nodeStep p i g (nodeOf d) none t = u) :
    Host.Outcome.next (startNode p ring slot kind s) = (.next u : Host.Outcome State Fault Refusal) := by
  rw [startNode_starts h, hstep]

/-- A started node is of its event's kind. -/
theorem nodeStep_kind {p ring slot kind i : Nat} {g : Ring} {d : List Byte} {t s : State}
    (h : starts p ring slot kind i g d t s) : (nodeOf d).kind = kind := by
  obtain ⟨-, -, -, -, hkind, -⟩ := h
  exact hkind

/-- A started node's run is there. -/
theorem starts_run {p ring slot kind i : Nat} {g : Ring} {d : List Byte} {t s : State}
    (h : starts p ring slot kind i g d t s) : ∃ r, t.runAt p i = some r := by
  obtain ⟨-, -, -, ⟨r, hrun, -⟩, -⟩ := h
  exact ⟨r, hrun⟩

section
variable {p i : Nat} {g : Ring} {d : NodeRec} {again : Option Nat} {s : State}

/-- The step of each kind. -/
theorem nodeStep_nop (h : d.kind = 0) : nodeStep p i g d again s = succeed p i d.succ s := by
  simp only [nodeStep, h]

theorem nodeStep_kernel (h : d.kind = 1) : nodeStep p i g d again s = kernelStep p i g d again s := by
  simp only [nodeStep, h]

theorem nodeStep_copy (h : d.kind = 2) : nodeStep p i g d again s = copyStep p i g d s := by
  simp only [nodeStep, h]

theorem nodeStep_while (h : d.kind = 4) : nodeStep p i g d again s = whileStep p i g d again s := by
  simp only [nodeStep, h]

end

/-- Settles O45: a started node performs its kind's step, which is the lemma above for what its reads return. -/
theorem nodesAct : Obligations.NodesAct := by
  intro p ring slot i g d t u v bs os r
  refine ⟨fun s h => started h (nodeStep_nop (nodeStep_kind h)),
    fun s ⟨h, hread, hcoll, hcode, hfeasible, hfirst, houts⟩ => started h ((nodeStep_kernel (nodeStep_kind h)).trans
      (kernelStep_good hread hcoll hcode hfeasible hfirst houts)),
    fun s ⟨h, hcopy⟩ => started h ((nodeStep_copy (nodeStep_kind h)).trans (copyStep_moved hcopy)),
    fun s ⟨h, hread⟩ => started h (nodeStep_cond (nodeStep_kind h) hread),
    fun s ⟨h, hread, hzero⟩ => ?_,
    fun s ⟨h, hread, hsome, hrun⟩ => started h ((nodeStep_while (nodeStep_kind h)).trans
      (whileStep_loops hread hrun hsome)),
    fun s ⟨h, hwrite⟩ => started h (nodeStep_signal (nodeStep_kind h) hwrite),
    fun s ⟨h, hread, hword⟩ => started h ((nodeStep_wait (nodeStep_kind h) hread).trans (if_pos hword)),
    fun s ⟨h, hread, hword⟩ => started h ((nodeStep_wait (nodeStep_kind h) hread).trans (if_neg (Nat.not_le.2 hword))),
    fun s ⟨⟨hfind, hring, hrun⟩, hread, hword⟩ =>
      (waitNodeReread_step hfind hring hrun).trans (congrArg _ (waitStep_reached hread hword)),
    fun s ⟨⟨hfind, hring, hrun⟩, hread, hword⟩ =>
      (waitNodeReread_step hfind hring hrun).trans (congrArg _ (waitStep_waits hread hword))⟩
  obtain ⟨z, hrun⟩ := starts_run h
  exact started h ((nodeStep_while (nodeStep_kind h)).trans (whileStep_exits hread hrun hzero))

end Sys2Proof.Machine
end

section
/-!
PROOFS. A collective instance: its chunks and the partials in gateways' slots, the packets, deadlines, reruns, losses and
completions that act on them, and CollectivesRun from these (R442, R443, R447, R449, R454 to R456, R462 to R464).
-/

namespace Sys2Proof.Machine

open Sys2Proof Sys2Proof.Claims

/-- A kind of parameters is REPART's or it is not. -/
theorem isRepart_cases (q : CollParams) :
    (∃ curve nf widths flags isz koff woff, q = .repart curve nf widths flags isz koff woff) ∨ q.isRepart = false := by
  cases q with
  | repart curve nf widths flags isz koff woff => exact .inl ⟨curve, nf, widths, flags, isz, koff, woff, rfl⟩
  | _ => exact .inr rfl

theorem not_contains {m : Nat} {ms : List Nat} (h : m ∉ ms) : ms.contains m = false := by
  simpa using h

theorem contains_of {m : Nat} {ms : List Nat} (h : m ∈ ms) : ms.contains m = true := by
  simpa using h

/-! ## Slots of gateways -/

/-- The gateway at a position of a chunk's tree, with its slot for the chunk (R454). -/
structure SlotAt (s : State) (x : Inst) (c : Chunk) (n j v p d : Nat) (e : CombSlot) : Prop where
  gateway : treeGateway s x c v = some (p, d)
  slot : (s.pkg p).slotOf n j = some e

/-- A slot combines every contribution from its position and below (R454). -/
def SlotWhole (s : State) (x : Inst) (c : Chunk) (v : Nat) (e : CombSlot) : Prop :=
  ∀ w ∈ chunkSenders s x c, w ∉ c.lost → passesBy 4 (treePos x c w) v = true → w ∈ e.members

section
variable {n j v p d k : Nat} {x : Inst} {c : Chunk} {e : CombSlot} {s : State}

theorem slotWhole_iff :
    ((chunkSenders s x c).filter (fun m => !c.lost.contains m && passesBy 4 (treePos x c m) v)).all e.members.contains
      = true ↔ SlotWhole s x c v e := by
  simp only [List.all_eq_true, List.mem_filter, Bool.and_eq_true, Bool.not_eq_true', SlotWhole, and_imp,
    List.contains_eq_mem, decide_eq_false_iff_not, decide_eq_true_eq]

theorem slotAt_bind (h : SlotAt s x c n j v p d e) :
    (treeGateway s x c v).bind (fun g => ((s.pkg g.1).slotOf n j).map (g.1, ·)) = some (p, e) := by
  rw [h.gateway, Option.bind_some, h.slot, Option.map_some]

/-- A partial that a contribution is missing from stays. -/
theorem passUp_partial (h : SlotAt s x c n j v p d e) (hpart : ¬SlotWhole s x c v e) :
    passUp n j x c (k + 1) v s = s := by
  have hall := Bool.eq_false_iff.2 (mt slotWhole_iff.1 hpart)
  unfold passUp
  rw [slotAt_bind h]
  dsimp only
  rw [hall]
  rfl

/-- A whole partial of the root's slot reaches the root. -/
theorem passUp_root (h : SlotAt s x c n j 0 p d e) (hwhole : SlotWhole s x c 0 e) :
    passUp n j x c (k + 1) 0 s = reachRoot n j e.members (freeSlot p n j s) := by
  unfold passUp
  rw [slotAt_bind h]
  dsimp only
  rw [slotWhole_iff.2 hwhole]
  rfl

/-- A whole partial passes to the gateway that acts above, where it has a slot free. -/
theorem passUp_above {w : Nat × Nat} (h : SlotAt s x c n j (v + 1) p d e) (hwhole : SlotWhole s x c (v + 1) e)
    (habove : treeGateway s x c (actingAbove s x c 4 (v + 1)) = some w) :
    passUp n j x c (k + 1) (v + 1) s =
      match holdInSlot w.1 w.2 n j e.members s with
      | some t => passUp n j x c k (actingAbove s x c 4 (v + 1)) (freeSlot p n j t)
      | none => s := by
  obtain ⟨q, d'⟩ := w
  rw [passUp, slotAt_bind h]
  dsimp only
  rw [slotWhole_iff.2 hwhole, if_neg (by decide), if_neg (Nat.succ_ne_zero v), habove]
  dsimp only
  cases holdInSlot q d' n j e.members s <;> rfl

end

/-! ## Packets -/

section
variable {n m j : Nat} {x : Inst} {cs : List Chunk} {c : Chunk} {y : CollJoin} {s : State}

/-- A chunk of an instance that runs. -/
structure ChunkOf (n j : Nat) (x : Inst) (cs : List Chunk) (c : Chunk) (s : State) : Prop where
  inst : tget s.insts n = some x
  chunks : x.chunks = some cs
  chunk : lget cs j = some c

theorem chunkOf_bind (h : ChunkOf n j x cs c s) : x.chunks.bind (fun cs => lget cs j) = some c := by
  rw [h.chunks, Option.bind_some, h.chunk]

/-- The first packet of a ready instance fixes its chunks and its status (R447). -/
theorem collectivePacket_forms (hinst : tget s.insts n = some x) (hnone : x.chunks = none)
    (hready : instReady s x = true) :
    exec (.collectivePacket n m j) s =
      .next (s.modInst n (fun z => { z with chunks := some (formChunks s x), status := formStatus s x })) := by
  show execCollectivePacket n m j s = _
  unfold execCollectivePacket
  rw [hinst]
  dsimp only
  rw [hnone]
  exact if_pos hready

/-- A later packet, of a member that may send its part, by the member's parameters. -/
theorem collectivePacket_of (h : ChunkOf n j x cs c s) (hpeer : x.peer m = some y) (hmay : maySend s x c m = true) :
    exec (.collectivePacket n m j) s = .next (
      if y.params.isRepart then repartPacket n m j x c y s
      else if c.sent.contains m then retryChunk n j m x c s else sendChunk n j m x c y s) := by
  show execCollectivePacket n m j s = _
  unfold execCollectivePacket
  rw [h.inst]
  dsimp only
  rw [h.chunks]
  dsimp only
  rw [h.chunk, hpeer]
  dsimp only
  rw [hmay, if_neg (by decide)]
  cases y.params with
  | repart curve nf widths flags isz koff woff => rfl
  | _ =>
    dsimp only [CollParams.isRepart]
    split <;> rfl

theorem collectivePacket_repart (h : ChunkOf n j x cs c s) (hpeer : x.peer m = some y) (hmay : maySend s x c m = true)
    (hkind : y.params.isRepart = true) :
    exec (.collectivePacket n m j) s = .next (repartPacket n m j x c y s) := by
  rw [collectivePacket_of h hpeer hmay, if_pos hkind]

theorem collectivePacket_first (h : ChunkOf n j x cs c s) (hpeer : x.peer m = some y) (hmay : maySend s x c m = true)
    (hkind : y.params.isRepart = false) (hsent : m ∉ c.sent) :
    exec (.collectivePacket n m j) s = .next (sendChunk n j m x c y s) := by
  rw [collectivePacket_of h hpeer hmay, hkind, not_contains hsent]
  rfl

theorem collectivePacket_again (h : ChunkOf n j x cs c s) (hpeer : x.peer m = some y) (hmay : maySend s x c m = true)
    (hkind : y.params.isRepart = false) (hsent : m ∈ c.sent) :
    exec (.collectivePacket n m j) s = .next (retryChunk n j m x c s) := by
  rw [collectivePacket_of h hpeer hmay, hkind, contains_of hsent]
  rfl

/-- A member's part of a chunk, read as it is sent (R449). -/
def partSent (n m j : Nat) (x : Inst) (c : Chunk) (y : CollJoin) (s : State) : State :=
  let r := sendParts y x.runBytes c ((instRuns s x).filter (fun w => w.src == m && w.into x.runBytes c)) s
  r.2.modChunk n j (fun h => { h with sent := h.sent ++ [m], parts := h.parts ++ r.1 })

/-- Outside slots a part goes to the root. -/
theorem sendChunk_direct (hdirect : (x.slotted && !c.direct) = false) :
    sendChunk n j m x c y s = reachRoot n j [m] (partSent n m j x c y s) := by
  unfold sendChunk
  dsimp only
  rw [hdirect]
  rfl

/-- With no slot free in its package's gateway a part is held back. -/
theorem sendChunk_held (hslot : (x.slotted && !c.direct) = true)
    (hfull : (treeGateway s x c (treePos x c m)).bind (fun w => holdInSlot w.1 w.2 n j [m] s) = none) :
    sendChunk n j m x c y s = s := by
  unfold sendChunk
  dsimp only
  rw [hslot, if_pos rfl, hfull]

/-- Taking a slot changes a package only. -/
theorem holdInSlot_modPkg {q d i h : Nat} {ms : List Nat} {t : State} (ht : holdInSlot q d i h ms s = some t) :
    ∃ f, t = s.modPkg q f := by
  unfold holdInSlot at ht
  dsimp only at ht
  split at ht
  · exact ⟨_, (Option.some.inj ht).symm⟩
  · split at ht
    · cases ht
    · exact ⟨_, (Option.some.inj ht).symm⟩

/-- A part whose package's gateway has a slot for it goes there, and from there on. -/
theorem sendChunk_slotted {t : State} (hslot : (x.slotted && !c.direct) = true)
    (hheld : (treeGateway s x c (treePos x c m)).bind (fun w => holdInSlot w.1 w.2 n j [m] s) = some t) :
    sendChunk n j m x c y s = passUp n j x c 5 (treePos x c m) (partSent n m j x c y t) := by
  obtain ⟨w, -, ht⟩ := Option.bind_eq_some_iff.1 hheld
  obtain ⟨f, rfl⟩ := holdInSlot_modPkg ht
  have hruns : instRuns (s.modPkg w.1 f) x = instRuns s x := rfl
  unfold sendChunk partSent
  dsimp only
  rw [hslot, if_pos rfl, hheld, hruns]

end

/-! ## REPART -/

section
variable {n m j : Nat} {x : Inst} {c : Chunk} {y : CollJoin} {s : State}

/-- A member of a REPART reads its items first (R462). -/
theorem repartPacket_reads {items : List RepItem} {t : State} (hnone : y.items = none)
    (hread : readItems y (List.range y.nsrc) s = (.ok items, t)) :
    repartPacket n m j x c y s = countErrorAt 15 (items.filter (fun e => e.poisoned)).length (t.team y.team).core
      (t.modJoin n m (fun w => { w with items := some items })) := by
  unfold repartPacket
  rw [hnone]
  dsimp only
  rw [hread]

/-- Once every member's items are known it sends, and the instance moves when it may. -/
theorem repartPacket_sends {is : List RepItem} (hitems : y.items = some is)
    (hknown : ∀ w ∈ x.conforming, w.items ≠ none ∨ w.member ∈ x.lostMembers) :
    repartPacket n m j x c y s = repartMove n (s.modChunk n j (fun h =>
      if m ∈ c.sent then h else { h with sent := h.sent ++ [m], got := unionList h.got [m] })) := by
  have hall : x.conforming.any (fun y => y.items.isNone && !x.lostMembers.contains y.member) = false := by
    simp only [List.any_eq_false, Bool.and_eq_true, Option.isNone_iff_eq_none, Bool.not_eq_true', not_and]
    intro w hw hnone
    rcases hknown w hw with hsome | hlost
    · exact absurd hnone hsome
    · simpa using hlost
  unfold repartPacket
  rw [hitems]
  dsimp only
  rw [hall, if_neg Bool.false_ne_true]
  simp only [List.contains_eq_mem, decide_eq_true_eq]

/-- A REPART may move: every member has sent or is lost, and those whose teams have ended are lost (R462, R463). -/
def MayMove (x : Inst) (s : State) : Prop :=
  (∀ h ∈ x.chunks.getD [], h.done = false ∧ ∀ w ∈ chunkSenders s x h, w ∈ h.got ∨ w ∈ h.lost) ∧
    ∀ w ∈ x.conforming, joinDead s w = false ∨ w.member ∈ x.lostMembers

theorem mayMove_iff :
    (!(x.chunks.getD []).all (fun c =>
        !c.done && (chunkSenders s x c).all (fun m => c.got.contains m || c.lost.contains m)) ||
      x.conforming.any (fun j => joinDead s j && !x.lostMembers.contains j.member)) = false ↔ MayMove x s := by
  simp only [Bool.or_eq_false_iff, Bool.not_eq_false', List.all_eq_true, List.any_eq_false, Bool.and_eq_true,
    Bool.or_eq_true, Bool.not_eq_true', List.contains_eq_mem, decide_eq_true_eq, decide_eq_false_iff_not, not_and_or,
    Bool.not_eq_true, not_not, MayMove]

/-- A move, by whether every step of it is made. -/
theorem repartMove_of (hinst : tget s.insts n = some x) (hmay : MayMove x s) :
    repartMove n s = match stepsUntil (repartSteps s x) s with
      | (some bad, _) => joinFault n bad.1 bad.2.1 bad.2.2 s
      | (none, t) => t.modInst n (fun z => { z with
          joins := z.joins.map (fun w => { w with listed := true })
          chunks := z.chunks.map (fun hs => hs.map (fun h => { h with done := true })) }) := by
  unfold repartMove
  rw [hinst]
  dsimp only
  rw [mayMove_iff.2 hmay, if_neg Bool.false_ne_true]
  rcases stepsUntil (repartSteps s x) s with ⟨_ | ⟨m, a, wr⟩, t⟩ <;> rfl

theorem repartMove_waits (hinst : tget s.insts n = some x) (hnot : ¬MayMove x s) : repartMove n s = s := by
  unfold repartMove
  rw [hinst]
  exact if_pos (Bool.eq_true_of_not_eq_false (mt mayMove_iff.1 hnot))

end

/-! ## Deadlines, reruns and losses -/

section
variable {n m j : Nat} {x : Inst} {cs : List Chunk} {c : Chunk} {s : State}

theorem collectiveDeadlineExpiry_asks (h : ChunkOf n j x cs c s) (hasked : c.asked = false)
    (hawaits : awaitsChunk s x c m = true) :
    exec (.collectiveDeadlineExpiry n m j) s = .next (s.modChunk n j (fun c => { c with
      asked := true, late := c.late.map (fun e => if c.sent.contains e.1 then e else (e.1, e.2 + 1)) })) := by
  show execCollectiveDeadlineExpiry n m j s = _
  unfold execCollectiveDeadlineExpiry
  rw [h.inst]
  dsimp only
  rw [chunkOf_bind h]
  dsimp only
  rw [hasked, hawaits]
  rfl

theorem collectiveRerun_reruns (h : ChunkOf n j x cs c s) (hasked : c.asked = true) (hdone : c.done = false) :
    exec (.collectiveRerun n j) s = .next (
      let late := ((chunkSenders s x c).filter (fun m => !c.lost.contains m)).foldl (fun t m =>
        tput t m (if c.sent.contains m then 0 else (tget c.late m).getD 0)) ([] : Tbl Nat)
      countDie 0x45 1 (chunkRoot s x c).1 (chunkRoot s x c).2
        (((freeSlots n j s).modChunk n j (fun c => { c with
          asked := false, sent := [], got := [], parts := [], late := late, direct := true })).modInst n
            (fun z => { z with reruns := z.reruns + 1 }))) := by
  show execCollectiveRerun n j s = _
  unfold execCollectiveRerun
  rw [h.inst]
  dsimp only
  rw [chunkOf_bind h]
  dsimp only
  rw [hasked, hdone]
  rfl

/-- A member that a chunk still waits for, and that was late twice, is lost to it, or in REPART to every chunk, which begin
anew (R456, R462). -/
theorem memberLost_loses (h : ChunkOf n j x cs c s) (hover : chunkOver s x c = false) (hsent : m ∉ c.sent)
    (hlost : m ∉ c.lost) (hlate : 2 ≤ (tget c.late m).getD 0) :
    exec (.memberLost n m j) s = .next (
      let s1 := s.modInst n (fun z => { z with status := 4 })
      if (match x.governing with | some q => q.isRepart | none => false) = true then
        s1.modInst n (fun z => { z with chunks := z.chunks.map (fun hs => hs.map (fun h =>
          { h with lost := unionList h.lost [m], sent := [], got := [] })) })
      else settleChunk n j (s1.modChunk n j (fun c => { c with lost := c.lost ++ [m] }))) := by
  show execMemberLost n m j s = _
  unfold execMemberLost
  rw [h.inst]
  dsimp only
  rw [chunkOf_bind h]
  dsimp only
  rw [hover, not_contains hsent, not_contains hlost, if_neg (by simpa using (show 1 < _ from hlate))]
  rcases x.governing with _ | q
  · rfl
  · cases q <;> rfl

/-- A member of a finished instance is credited, and its completion word is written (R442, R443). -/
theorem collectiveInstanceComplete_writes {y : CollJoin} {v : State} {bs : List (Byte × Bool)}
    (hinst : tget s.insts n = some x) (hjoin : x.join m = some y) (hdone : instDone s x = true)
    (hopen : y.completed = false) (hgood : y.faulted = none) (hlive : joinDead s y = false)
    (hwrite : writeRun ((creditJoin n x y s).team y.team).core ((creditJoin n x y s).launchOf y.team)
      (y.compl + BitVec.ofNat 80 (16 * (x.number.toNat % 16)))
      ((leBytes 16 (complWord x y)).map (fun b => (b, false))) (creditJoin n x y s) = (.bytes bs, v)) :
    exec (.collectiveInstanceComplete n m) s =
      .next (closeInst n (v.modJoin n m (fun y => { y with completed := true }))) := by
  show execCollectiveInstanceComplete n m s = _
  unfold execCollectiveInstanceComplete
  rw [hinst]
  dsimp only
  rw [hjoin]
  dsimp only
  rw [hdone, hopen, hgood, hlive, if_neg (by decide), complAt, hwrite]

end

/-- Settles O42: each clause is its event's lemma above; the packets are those of a member that may send, by its
parameters and by whether it has sent. -/
theorem collectivesRun : Obligations.CollectivesRun := by
  intro n m j d p k g x cs c y items is e bad t u v bs
  refine ⟨fun s ⟨hinst, hnone, hready⟩ => collectivePacket_forms hinst hnone hready,
    fun s ⟨⟨⟨⟨hinst, hcs, hc⟩, hpeer, hmay⟩, hkind, hsent⟩, hdirect⟩ =>
      (collectivePacket_first ⟨hinst, hcs, hc⟩ hpeer hmay hkind hsent).trans (congrArg _ (sendChunk_direct hdirect)),
    fun s ⟨⟨⟨⟨hinst, hcs, hc⟩, hpeer, hmay⟩, hkind, hsent⟩, hslot, hfull⟩ =>
      (collectivePacket_first ⟨hinst, hcs, hc⟩ hpeer hmay hkind hsent).trans (congrArg _ (sendChunk_held hslot hfull)),
    fun s ⟨⟨⟨⟨hinst, hcs, hc⟩, hpeer, hmay⟩, hkind, hsent⟩, hslot, hheld⟩ =>
      (collectivePacket_first ⟨hinst, hcs, hc⟩ hpeer hmay hkind hsent).trans
        (congrArg _ (sendChunk_slotted hslot hheld)),
    fun s ⟨⟨⟨hinst, hcs, hc⟩, hpeer, hmay⟩, hkind, hsent⟩ =>
      collectivePacket_again ⟨hinst, hcs, hc⟩ hpeer hmay hkind hsent,
    fun s ⟨hgate, hslot⟩ hpart => passUp_partial ⟨hgate, hslot⟩ hpart,
    fun s ⟨hgate, hslot⟩ hwhole => passUp_root ⟨hgate, hslot⟩ hwhole,
    fun s w ⟨hgate, hslot⟩ hwhole habove => passUp_above ⟨hgate, hslot⟩ hwhole habove,
    fun s ⟨⟨⟨hinst, hcs, hc⟩, hpeer, hmay⟩, hkind, hnone, hread⟩ =>
      (collectivePacket_repart ⟨hinst, hcs, hc⟩ hpeer hmay hkind).trans
        (congrArg _ (repartPacket_reads hnone hread)),
    fun s ⟨⟨⟨hinst, hcs, hc⟩, hpeer, hmay⟩, hkind, hitems, hknown⟩ =>
      (collectivePacket_repart ⟨hinst, hcs, hc⟩ hpeer hmay hkind).trans
        (congrArg _ (repartPacket_sends hitems hknown)),
    fun s hinst hnot => repartMove_waits hinst hnot,
    fun s hinst hmay hsteps => by rw [repartMove_of hinst hmay, hsteps],
    fun s hinst hmay hsteps => by rw [repartMove_of hinst hmay, hsteps],
    fun s ⟨⟨hinst, hcs, hc⟩, hasked, hawaits⟩ => collectiveDeadlineExpiry_asks ⟨hinst, hcs, hc⟩ hasked hawaits,
    fun s ⟨⟨hinst, hcs, hc⟩, hasked, hdone⟩ => collectiveRerun_reruns ⟨hinst, hcs, hc⟩ hasked hdone,
    fun s ⟨⟨⟨hinst, hcs, hc⟩, hover, hsent, hlost, hlate⟩, hkind⟩ =>
      (memberLost_loses ⟨hinst, hcs, hc⟩ hover hsent hlost hlate).trans
        (congrArg _ (if_neg (Bool.eq_false_iff.1 hkind))),
    fun s ⟨⟨⟨hinst, hcs, hc⟩, hover, hsent, hlost, hlate⟩, hkind⟩ =>
      (memberLost_loses ⟨hinst, hcs, hc⟩ hover hsent hlost hlate).trans (congrArg _ (if_pos hkind)),
    fun s ⟨hinst, hjoin, hdone, hopen, hgood, hlive, hu, hwrite⟩ =>
      collectiveInstanceComplete_writes hinst hjoin hdone hopen hgood hlive (hu ▸ hwrite),
    fun s hd => if_neg (Nat.not_le.2 hd)⟩

end Sys2Proof.Machine
end

section
/-!
PROOFS. Descriptors that have been read, and the copy instructions through the checks of R405; CopyInstructionsComplete
from these (R398, R404 to R411).
-/

namespace Sys2Proof.Machine

open Sys2Proof Sys2Proof.Claims

/-! ## Descriptors -/

theorem tput_tput {α : Type} (t : Tbl α) (k : Nat) (v w : α) : tput (tput t k v) k w = tput t k w := by
  induction t with
  | nil => simp [tput]
  | cons e r ih =>
    obtain ⟨a, x⟩ := e
    by_cases hlt : k < a
    · simp [tput, hlt]
    · by_cases heq : k = a
      · subst heq
        simp [tput]
      · simp [tput, hlt, heq, ih]

/-- A warp changed twice. -/
theorem modWarp_modWarp (s : State) (k : Nat) (f g : Warp → Warp) :
    (s.modWarp k f).modWarp k g = s.modWarp k (fun w => g (f w)) := by
  show (s.modWarp k f).setWarp k (g ((s.modWarp k f).warp k)) = _
  rw [warp_modWarp_self]
  simp only [State.modWarp, State.setWarp, tput_tput]

/-- A descriptor that has been read, without poison, is handed on and used up (R398). -/
theorem withDescriptor_read {c : Ctx} {s : State} {va : A80} {len align : Nat} {d : List Byte}
    (go : List Byte → State → PassResult) (h : hasRead c s va len align d) :
    withDescriptor c va len align go s = usedDesc c.k (splitName (s.warp c.k) c.e) (go d s) := by
  obtain ⟨halign, hfind⟩ := h
  unfold withDescriptor
  dsimp only
  rw [if_neg (by simpa using halign), hfind]
  rfl

theorem usedDesc_ok (c : Ctx) (s0 t : State) :
    usedDesc c.k (splitName (s0.warp c.k) c.e) (.ok t) = .ok (usedUp c s0 t) := rfl

/-- Descriptors used up twice are used up once. -/
theorem usedUp_usedUp (c : Ctx) (s0 t : State) : usedUp c s0 (usedUp c s0 t) = usedUp c s0 t := by
  simp only [usedUp, modWarp_modWarp, List.filter_filter, Bool.and_self]

/-! ## The checks of R405 -/

section
variable {c : Ctx} {f : FX} {kind : CopyKind} {d : List Byte} {s : State}

/-- Checks 1 and 2: the descriptor and its block, the named teams, the tile's size and the barrier. -/
theorem copyChecks_pass {q : CopyCmd} (hq : q = newCopy c f kind d s)
    (htensor : tensorOk d ((lget q.coords 0).getD 0#32).toInt (kind == .tstore) = true)
    (hgather : kind = .tgather → q.gd < (tensorOf d).ndim ∧ (q.gd = 0 → 8 ≤ (tensorOf d).narrow))
    (hcast : kind = .tmcast → (c.view.sval c.e (f.e3.toNat + 1)).extractLsb' 16 16 = 0#16 ∧
      ∀ n ∈ q.receivers, n < (s.launchOf q.team).info.teams)
    (hfits : q.ownTile (s.team q.team).number = true →
      handleCurrent s q.team (c.view.sval c.e f.e2.toNat) = true →
      tileFits (tensorOf d) (s.tile q.team q.tile) q.row0 = true)
    (hbar : ∀ b, q.bar = some b → b < s.barCount q.team) :
    copyChecks c f kind d s = copyIndex c f q s := by
  subst hq
  have hgd : (kind != .tgather || (decide ((newCopy c f kind d s).gd < (tensorOf d).ndim) &&
      ((newCopy c f kind d s).gd != 0 || decide (8 ≤ (tensorOf d).narrow)))) = true := by
    by_cases hk : kind = .tgather
    · obtain ⟨hdim, hnarrow⟩ := hgather hk
      by_cases hzero : (newCopy c f kind d s).gd = 0
      · simp [hdim, hnarrow hzero]
      · simp [hdim, hzero]
    · simp [hk]
  have hmc : (kind != .tmcast || (fieldOf (c.view.sval c.e (f.e3.toNat + 1)) 16 16 == 0#16 &&
      (newCopy c f kind d s).receivers.all
        (fun n => decide (n < (s.launchOf (newCopy c f kind d s).team).info.teams)))) = true := by
    by_cases hk : kind = .tmcast
    · obtain ⟨hfield, hteams⟩ := hcast hk
      have hall := List.all_eq_true.2 fun n hn => decide_eq_true (hteams n hn)
      rw [hall, fieldOf, hfield]
      simp
    · simp [hk]
  have htile : (!(newCopy c f kind d s).ownTile (s.team (newCopy c f kind d s).team).number ||
      !handleCurrent s (newCopy c f kind d s).team (c.view.sval c.e f.e2.toNat) ||
      tileFits (tensorOf d) (s.tile (newCopy c f kind d s).team (newCopy c f kind d s).tile)
        (newCopy c f kind d s).row0) = true := by
    grind
  have hbars : (newCopy c f kind d s).bar.any (fun b => decide (s.barCount (newCopy c f kind d s).team ≤ b)) = false := by
    cases hb : (newCopy c f kind d s).bar with
    | none => rfl
    | some b => simpa using hbar b hb
  unfold copyChecks
  dsimp only
  rw [htensor, hgd, hmc, htile, hbars]
  rfl

/-- The index list of a TGATHER as copyIndex reads it (R408). -/
theorem copyIndex_pass {q : CopyCmd}
    (hlist : q.kind = .tgather → (c.view.sval c.e f.e3.toNat).toNat % 4 = 0 ∧
      (c.view.sval c.e f.e3.toNat).toNat + 4 * (tensorOf q.desc).ext q.gd ≤ (s.warpLaunch c.k).info.sarea ∧
      (sharedFetch c.k (c.view.sval c.e f.e3.toNat).toNat (4 * (tensorOf q.desc).ext q.gd) s).1.any (·.2) = false)
    (hnone : q.index = []) :
    copyIndex c f q s = copyTile c f { q with index := (listRead c f q s).1 } (listRead c f q s).2 := by
  unfold copyIndex listRead
  by_cases hk : q.kind = .tgather
  · obtain ⟨halign, hfits, hpoison⟩ := hlist hk
    rw [if_neg (by simp [hk]), if_pos hk]
    dsimp only
    rw [if_neg (by simpa using halign), if_neg (Nat.not_lt.2 hfits), hpoison]
    rfl
  · rw [if_pos (by simpa using hk), if_neg hk]
    dsimp only
    rw [← hnone]

/-- Checks 4 to 6: the tile and the room among the core's commands. -/
theorem copyTile_pass {q : CopyCmd} (hmask : q.kind = .tmcast → q.mask ≠ 0#16)
    (htile : q.ownTile (s.team q.team).number = true →
      if q.kind = .tstore then
        handleCurrent s q.team (c.view.sval c.e f.e2.toNat) = true ∧ (s.tile q.team q.tile).state = .ready ∧
          (tensorOf q.desc).dfmt = (s.tile q.team q.tile).fmt ∧ (s.tile q.team q.tile).readers < 255
      else fillOk s q.team (c.view.sval c.e f.e2.toNat) = true ∧ (tensorOf q.desc).dfmt = (s.tile q.team q.tile).fmt)
    (hroom : (s.core (coreOf c.k)).copies.length < 32) :
    copyTile c f q s = .ok (queueCopy q (q.ownTile (s.team q.team).number) s) := by
  have hsome : (q.kind == .tmcast && q.mask == 0#16) = false := by
    by_cases hk : q.kind = .tmcast
    · simp [hk, hmask hk]
    · simp [hk]
  unfold copyTile
  dsimp only
  rw [hsome, if_neg Bool.false_ne_true, if_neg (Nat.not_le.2 hroom)]
  by_cases hown : q.ownTile (s.team q.team).number = true
  · have htile := htile hown
    rw [if_neg (by simp [hown])]
    by_cases hk : q.kind = .tstore
    · rw [if_pos hk] at htile
      obtain ⟨hcurrent, hready, hfmt, hreaders⟩ := htile
      rw [if_pos (by simp [hk]), if_neg (by simp [hcurrent, hready]), if_neg (by simp [hfmt]),
        if_neg (by simp [hready, hreaders])]
    · rw [if_neg hk] at htile
      obtain ⟨hfill, hfmt⟩ := htile
      rw [if_neg (by simp [hk]), if_neg (by simp [hfill]), if_neg (by simp [hfmt])]
  · rw [if_pos (by simpa using hown)]

/-- A TMCAST that names no team queues nothing (R409). -/
theorem copyTile_none {q : CopyCmd} (hkind : q.kind = .tmcast) (hmask : q.mask = 0#16) : copyTile c f q s = .ok s := by
  refine if_pos ?_
  rw [hkind, hmask]
  rfl

end

/-! ## The instructions -/

/-- A copy instruction of a kind, once its descriptor is read and the checks pass. -/
theorem copyEffect_queues {c : Ctx} {f : FX} {kind : CopyKind} {d : List Byte} {s : State}
    (hread : hasRead c s (c.view.aval f.e0.toNat) 256 256 d) (hfree : copyFree c f (newCopy c f kind d s) s) :
    copyEffect f kind c s = .ok (usedUp c s
      (queueCopy { newCopy c f kind d s with index := (listRead c f (newCopy c f kind d s) s).1 }
        ((newCopy c f kind d s).ownTile
          ((listRead c f (newCopy c f kind d s) s).2.team (newCopy c f kind d s).team).number)
        (listRead c f (newCopy c f kind d s) s).2)) := by
  obtain ⟨htensor, hgather, hcast, hfits, hbar, hlist, hmask, htile, hroom⟩ := hfree
  have hchecks := copyChecks_pass (d := d) (kind := kind) rfl htensor hgather hcast hfits hbar
  have hindex := copyIndex_pass (c := c) (f := f) (s := s) hlist rfl
  have hcopy := copyTile_pass (c := c) (f := f) (s := (listRead c f (newCopy c f kind d s) s).2)
    (q := { newCopy c f kind d s with index := (listRead c f (newCopy c f kind d s) s).1 }) hmask htile hroom
  rw [copyEffect, withDescriptor_read _ hread, hchecks, hindex, hcopy, usedDesc_ok]
  rfl

/-- An instruction whose effect is the copy effect of a kind. -/
theorem copies_of {i : Instr} {f : FX} {kind : CopyKind}
    (hx : ∀ s, exec i s = runPass i .once (onceEffect (copyEffect f kind)) s) : Copies i f kind := by
  intro d
  refine takesIf_of hx ?_
  rintro c s ⟨hlive, hread, hfree⟩
  rw [onceEffect_live hlive, copyEffect_queues hread hfree]

/-- A TMCAST that names no team completes with its descriptor used up. -/
theorem tmcast_none (h : Hdr) (f : FX) (d : List Byte) : TakesIf (.tmcast h f) .once
    (fun c s => some1 c s ∧ hasRead c s (c.view.aval f.e0.toNat) 256 256 d ∧
      (newCopy c f .tmcast d s).mask = 0#16 ∧
      tensorOk d ((lget (newCopy c f .tmcast d s).coords 0).getD 0#32).toInt false = true ∧
      (c.view.sval c.e (f.e3.toNat + 1)).extractLsb' 16 16 = 0#16 ∧
      ∀ b, (newCopy c f .tmcast d s).bar = some b → b < s.barCount (newCopy c f .tmcast d s).team)
    (fun c s => usedUp c s s) := by
  refine takesIf_of (fun s => (rfl : execTmcast h f s = _)) ?_
  rintro c s ⟨hlive, hread, hmask, htensor, hfield, hbar⟩
  have hnone : (newCopy c f .tmcast d s).receivers = [] := by
    simp [CopyCmd.receivers, hmask]
  have hown : (newCopy c f .tmcast d s).ownTile (s.team (newCopy c f .tmcast d s).team).number = false := by
    show (newCopy c f .tmcast d s).receivers.contains _ = false
    rw [hnone]
    rfl
  have hchecks := copyChecks_pass (kind := .tmcast) rfl htensor nofun
    (fun _ => ⟨hfield, fun n hn => absurd (hnone ▸ hn) List.not_mem_nil⟩) (fun h => absurd h (by simp [hown])) hbar
  have hindex : copyIndex c f (newCopy c f .tmcast d s) s = copyTile c f (newCopy c f .tmcast d s) s := if_pos rfl
  rw [onceEffect_live hlive, copyEffect, withDescriptor_read _ hread, hchecks, hindex,
    copyTile_none rfl hmask, usedDesc_ok]

/-- Settles O35: each instruction has the copy effect of its kind. -/
theorem copyInstructionsComplete : Obligations.CopyInstructionsComplete := fun h f =>
  ⟨copies_of fun s => (rfl : execTcopy h f s = _), copies_of fun s => (rfl : execTstore h f s = _),
    copies_of fun s => (rfl : execTgather h f s = _), copies_of fun s => (rfl : execTmcast h f s = _),
    copies_of fun s => (rfl : execTpref h f s = _), tmcast_none h f⟩

end Sys2Proof.Machine
end

section
/-!
PROOFS. Group descriptors, the taking of an instance by SEQ, and the checks of R446; CollectiveInstructionsComplete from
these (R367, R440, R441, R445 to R450, R459, R462).
-/

namespace Sys2Proof.Machine

open Sys2Proof Sys2Proof.Claims

/-! ## SEQ -/

theorem leValue_lt (bs : List Byte) : leValue bs < 256 ^ bs.length := by
  induction bs with
  | nil => exact Nat.one_pos
  | cons b bs ih =>
    have hb := b.isLt
    simp only [leValue, List.length_cons, Nat.pow_succ]
    omega

theorem homeRead_length (k n : Nat) (s : State) : (homeRead k n s).length = n := by
  simp [homeRead]

/-- SEQ is a word. -/
theorem seqOf_lt (c : Ctx) (p : Place) (va : A80) (s : State) : seqOf c p va s < 2 ^ 32 := by
  have h := leValue_lt ((homeRead p.key 4 (seqState c p va s)).map (·.1))
  rw [List.length_map, homeRead_length] at h
  exact h

/-- SEQ as the word that numbers the instance. -/
theorem seqWord_toNat (c : Ctx) (p : Place) (va : A80) (s : State) :
    (BitVec.ofNat 32 (seqOf c p va s)).toNat = seqOf c p va s :=
  BitVec.toNat_ofNat .. ▸ Nat.mod_eq_of_lt (seqOf_lt c p va s)

/-- The instance taken: SEQ + 1 is written and the join made (R440, R441). -/
def taken (c : Ctx) (p : Place) (va : A80) (x : Group) (j : CollJoin) (s : State) : State :=
  joinInst x.table (BitVec.ofNat 32 (seqOf c p va s)) j
    (homeStore p.key (leBytes 4 (seqOf c p va s + 1)) (wordBack c p va x.compl s).2)

/-- Check 6 of R446 passes: SEQ is in the package's memory, and the instance 16 back is complete. -/
theorem takeInstance_takes {c : Ctx} {p : Place} {va : A80} {x : Group} (j : CollJoin) {s : State}
    (h : mayTake c p va x.compl s) : takeInstance c va x j s = .ok (taken c p va x j s) := by
  obtain ⟨hplace, hkind, hpkg, hclean, hback⟩ := h
  have hpair : enginePlace (coreOf c.k) (s.warpLaunch c.k) (va + 8#80) .atomic s = (.here p, (seqPlace c va s).2) :=
    Prod.ext hplace rfl
  have hhome : (decide (1 < keyKind p.key) || keyPkg p.key != pkgOf (coreOf c.k)) = false := by
    simp [hkind, hpkg]
  have hstate : touchHome p.key (s.warpLaunch c.k).tkey (dropLine (l1Core (coreOf c.k)
      ((seqPlace c va s).2.clusterFused (coreOf c.k)) p.key) p.key (seqPlace c va s).2) = seqState c p va s := rfl
  have hseq : leValue ((homeRead p.key 4 (seqState c p va s)).map (·.1)) = seqOf c p va s := rfl
  unfold takeInstance
  dsimp only
  rw [hpair]
  dsimp only
  rw [hhome, if_neg Bool.false_ne_true, hstate, hclean, if_neg Bool.false_ne_true, hseq, seqWord_toNat]
  by_cases hfirst : seqOf c p va s < 16
  · rw [if_pos hfirst]
    simp only [taken, wordBack, if_pos hfirst]
  · obtain ⟨bs, hword, hgood, hnumber⟩ := hback (Nat.not_lt.1 hfirst)
    simp only [wordBack, if_neg hfirst] at hword
    have hread : readRun (coreOf c.k) (s.warpLaunch c.k) (complAt x.compl (BitVec.ofNat 32 (seqOf c p va s))) 4
        (seqState c p va s) = (.bytes bs, (wordBack c p va x.compl s).2) := by
      rw [complAt, seqWord_toNat]
      refine Prod.ext hword ?_
      simp only [wordBack, if_neg hfirst]
    rw [if_neg hfirst, hread]
    dsimp only
    rw [hgood, if_neg Bool.false_ne_true, if_neg (by simp [hnumber])]
    rfl

/-! ## Group descriptors -/

/-- A group descriptor read, head and whole, is handed on and used up (R439, R446). -/
theorem withGroup_read {c : Ctx} {s t : State} {va : A80} {head whole : List Byte}
    {go : Group → State → PassResult} (h : inGroup c s va head whole) (hgo : go (groupOf whole) s = .ok t) :
    withGroup c va go s = .ok (usedUp c s t) := by
  obtain ⟨hhead, hok, hwhole, -⟩ := h
  unfold withGroup
  rw [withDescriptor_read _ hhead, hok, if_neg (by decide), withDescriptor_read _ hwhole, hgo, usedDesc_ok, usedDesc_ok, usedUp_usedUp]

/-- A barrier that an instruction names is one of the team's, or it names none. -/
theorem namedBarrier_ok {bar : Option Nat} {n : Nat} (h : ∀ b, bar = some b → b < n) :
    bar.any (fun b => decide (n ≤ b)) = false := by
  cases bar with
  | none => rfl
  | some b => simpa using h b rfl

/-! ## CLRED, CLPUT and CLGET -/

/-- The lanes that take part, as the statements and as the model say it. -/
theorem laneRuns_eq_named (c : Ctx) (f : FX) : laneRuns c f = named c f := rfl

/-- Checks 1 to 5 of R446 pass: the local runs are read, and the instance is taken. -/
theorem collChecks_pass {c : Ctx} {f : FX} (q : CollParams) {get : Bool} (va : A80) {x : Group} {s : State}
    (hself : selfOk s (s.warp c.k).team x = true) (hruns : runsOk c f get x s) :
    collChecks c f q get va x s =
      takeInstance c va x
        { CollJoin.blank (pkgOf (coreOf c.k)) (s.warp c.k).team x q (collBar f) with
          lanes := (readRuns c.k (4 * (f.ctl.extractLsb' 17 15).toNat) (!get) (named c f) s).1 }
        (readRuns c.k (4 * (f.ctl.extractLsb' 17 15).toNat) (!get) (named c f) s).2 := by
  obtain ⟨hbar, hlanes⟩ := hruns
  have hcount : collCount f = (f.ctl.extractLsb' 17 15).toNat := rfl
  have hmembers : (named c f).any (fun r => decide (x.nmemb ≤ r.member) && (get || r.member != allMembers)) = false := by
    rw [List.any_eq_false]
    intro r hr
    obtain ⟨hmember, -⟩ := hlanes r hr
    rcases hmember with hlt | ⟨rfl, hall⟩
    · simp [Nat.not_le.2 hlt]
    · simp [allMembers, hall]
  have haligned : (named c f).filterMap (fun r => if (r.remote % 4 != 0) = true then some (r.lane, r.remote)
      else if (r.local_ % 4 != 0) = true then some (r.lane, r.local_) else none) = [] := by
    rw [List.filterMap_eq_nil_iff]
    intro r hr
    obtain ⟨-, hremote, hlocal, -⟩ := hlanes r hr
    simp [hremote, hlocal]
  have hinside : (named c f).filterMap (fun r =>
      if (if get = true then (s.launchOf (s.warp c.k).team).info.shared else (s.launchOf (s.warp c.k).team).info.sarea) <
        r.local_ + 4 * (f.ctl.extractLsb' 17 15).toNat then some (r.lane, r.local_) else none) = [] := by
    rw [List.filterMap_eq_nil_iff]
    intro r hr
    obtain ⟨-, -, -, hfits⟩ := hlanes r hr
    exact if_neg (Nat.not_lt.2 hfits)
  unfold collChecks
  dsimp only
  rw [laneRuns_eq_named, hcount, hself, namedBarrier_ok hbar, hmembers, haligned, hinside]
  rfl

/-- A collective instruction that names its runs joins the next instance with its local runs read. -/
theorem joins_of {i : Instr} {f : FX} {q : CollParams} {get : Bool}
    (hx : ∀ s, exec i s = runPass i .once (collEffect f q get) s) : Joins i f q get := by
  intro head whole p
  refine takesIf_of hx ?_
  rintro c s ⟨hgroup, hruns, hmay⟩
  obtain ⟨-, -, -, hself⟩ := id hgroup
  exact withGroup_read hgroup ((collChecks_pass q _ hself hruns).trans (takeInstance_takes _ hmay))

/-! ## REPART -/

/-- Checks 1 and 2 of R446 pass for REPART and its team's earlier stores are complete: its L1's bytes are written back
first (R367). -/
theorem repartChecks_pass {c : Ctx} {f : FX} {r : Repart} {x : Group} {s : State}
    (hself : selfOk s (s.warp c.k).team x = true) (hbar : ∀ b, repartBar f = some b → b < s.barCount (s.warp c.k).team)
    (hgo : repartWaits s c.k = false) :
    repartChecks c f r x s = takeInstance c r.group x
      { CollJoin.blank (pkgOf (coreOf c.k)) (s.warp c.k).team x
          (.repart r.curve r.nf r.widths r.flags r.isz r.koff r.woff) (repartBar f) with
        src := r.src, nsrc := r.nsrc, land := r.land, cap := r.cap, res := r.res }
      (releaseL1 (coreOf c.k) (s.fused c.k) 3 s) := by
  unfold repartChecks
  dsimp only
  rw [hself, namedBarrier_ok hbar, hgo]
  rfl

theorem repart_joins (h : Hdr) (f : FX) (d head whole : List Byte) (p : Place) : TakesIf (.repart h f) .once
    (fun c s => hasRead c s (c.view.aval f.e0.toNat) 128 128 d ∧ repartOk d = true ∧
      inGroup c s (repartOf d).group head whole ∧ (∀ b, repartBar f = some b → b < s.barCount (s.warp c.k).team) ∧
      repartWaits s c.k = false ∧
      mayTake c p (repartOf d).group (groupOf whole).compl (releaseL1 (coreOf c.k) (s.fused c.k) 3 s))
    (fun c s => joined c s p (repartOf d).group (groupOf whole)
      { CollJoin.blank (pkgOf (coreOf c.k)) (s.warp c.k).team (groupOf whole)
          (.repart (repartOf d).curve (repartOf d).nf (repartOf d).widths (repartOf d).flags (repartOf d).isz
            (repartOf d).koff (repartOf d).woff) (repartBar f) with
        src := (repartOf d).src, nsrc := (repartOf d).nsrc, land := (repartOf d).land, cap := (repartOf d).cap
        res := (repartOf d).res } (releaseL1 (coreOf c.k) (s.fused c.k) 3 s)) := by
  refine takesIf_of (fun s => (rfl : execRepart h f s = _)) ?_
  rintro c s ⟨hread, hok, hgroup, hbar, hgo, hmay⟩
  obtain ⟨-, -, -, hself⟩ := id hgroup
  have hjoin := withGroup_read hgroup ((repartChecks_pass hself hbar hgo).trans (takeInstance_takes _ hmay))
  rw [withDescriptor_read _ hread]
  dsimp only
  rw [hok, if_neg (by decide), hjoin, usedDesc_ok, usedUp_usedUp]
  rfl

/-- Settles O36: the three that name runs have one effect, and REPART's is its lemma above. -/
theorem collectiveInstructionsComplete : Obligations.CollectiveInstructionsComplete := fun h f =>
  ⟨joins_of fun s => (rfl : execClred h f s = _), joins_of fun s => (rfl : execClput h f s = _),
    joins_of fun s => (rfl : execClget h f s = _), repart_joins h f⟩

end Sys2Proof.Machine
end

section
/-!
PROOFS. Gangs: the rendezvous of MMA and MMAP up to the release of R379, MGANG and MCOLM, and GangsAndMultiplications from
these (R377, R379, R380, R385).
-/

namespace Sys2Proof.Machine

open Sys2Proof Sys2Proof.Claims

/-- A table's entry, found by its key. -/
theorem tget_eq_find? {α : Type} (t : Tbl α) (k : Nat) : tget t k = (t.find? (fun x => x.1 == k)).map (·.2) := by
  induction t with
  | nil => rfl
  | cons e r ih =>
    by_cases h : e.1 = k
    · simp [tget, h]
    · simp [tget, h, ih]

theorem noRepeat_iff (xs : List Nat) : noRepeat xs = true ↔ xs.Nodup := by
  induction xs with
  | nil => simp [noRepeat]
  | cons x xs ih => simp [noRepeat, ih]

/-! ## MMA and MMAP -/

/-- The eight registers of a fragment. -/
theorem fragment_eq (c : Ctx) (a : RCode) :
    (span a.toNat 8).map (fun n => c.view.vreg n) = (List.range 8).map (fun j => c.view.vreg (a.toNat + j)) := by
  rw [span, List.map_map]
  rfl

section
variable {i : Instr} {c : Ctx} {s : State} {r : Rendezvous} {js : List Joined}

/-- The checks of R380 pass once every member has joined: the command is queued (R379, R392). -/
theorem mmaChecks_pass {h : Word} {dbase cbase : Nat} {x : Tile}
    (hh : h = (s.warp (48 * coreOf c.k + r.leader)).sval
      (((js.find? (fun m => m.1 == 48 * coreOf c.k + r.leader)).map (fun m => m.2.1)).getD 0) (mmaFields i).b.toNat)
    (hd : dbase = ((s.warp (48 * coreOf c.k + r.leader)).sval
      (((js.find? (fun m => m.1 == 48 * coreOf c.k + r.leader)).map (fun m => m.2.1)).getD 0)
        (mmaFields i).d.toNat).toNat)
    (hc : cbase = ((s.warp (48 * coreOf c.k + r.leader)).sval
      (((js.find? (fun m => m.1 == 48 * coreOf c.k + r.leader)).map (fun m => m.2.1)).getD 0)
        (mmaFields i).c.toNat).toNat)
    (hx : x = s.tile (s.warp c.k).team (handleIndex h))
    (hreader : readerCheck s (s.warp c.k).team h (some (Instr.hdr i).fmt) = .issues)
    (hk : mmaK (Instr.hdr i).fmt ≤ x.dim1) (hn : x.dim0 ≤ 256)
    (hdfits : dbase + 96 * r.gang.length * x.dim0 ≤ (s.launchOf (s.warp c.k).team).info.accum)
    (hcfits : (mmaFields i).c = 643#10 ∨
      cbase + 96 * r.gang.length * x.dim0 ≤ (s.launchOf (s.warp c.k).team).info.accum)
    (hclean : ∀ m ∈ js, poisonedRows m.2.2.2.1 m.2.2.2.2 = 0#96)
    (hroom : (s.core (coreOf c.k)).matrix.length < 16) :
    mmaChecks i c.k r js s = .ok (mmaRelease i c.k js (handleIndex h) dbase cbase
      ((tget (s.warp (48 * coreOf c.k + r.leader)).mcols ((mmaFields i).fn.extractLsb' 0 2).toNat).getD 0#256)
      (s.modCore (coreOf c.k) (fun y => { y with rendezvous := y.rendezvous.filter (fun z => z.leader != r.leader) }))) := by
  have hshape : (decide (x.dim1 < mmaK (Instr.hdr i).fmt) || decide (256 < x.dim0)) = false := by
    simp [hk, hn]
  have haccum : (decide ((s.launchOf (s.warp c.k).team).info.accum < dbase + 96 * r.gang.length * x.dim0) ||
      ((mmaFields i).c != 643#10 &&
        decide ((s.launchOf (s.warp c.k).team).info.accum < cbase + 96 * r.gang.length * x.dim0))) = false := by
    rcases hcfits with hnone | hfits
    · simp [hdfits, hnone]
    · simp [hdfits, hfits]
  have hrows : js.any (fun m => !noLanes (poisonedRows m.2.2.2.1 m.2.2.2.2)) = false := by
    rw [List.any_eq_false]
    intro m hm
    rw [hclean m hm]
    decide
  unfold mmaChecks
  dsimp only
  rw [← hh, ← hd, ← hc, ← hx, hreader]
  dsimp only
  rw [hshape, if_neg Bool.false_ne_true, haccum, if_neg Bool.false_ne_true, hrows, if_neg Bool.false_ne_true,
    if_neg (Nat.not_le.2 hroom)]
  rfl

/-- A member that completes its gang goes on to the checks of R380. -/
theorem mmaEffect_last {f : FV} (hf : mmaFields i = f) (hacquire : (s.warp c.k).acquireOut = false)
    (hmate : c.behindFirst = false) (hword : (meeting i c s).word = i)
    (hgang : (meeting i c s).gang = (s.warp c.k).gangOf c.k)
    (hlive : ∀ n ∈ (s.warp c.k).gangOf c.k, gangGone s c.k n = false)
    (hall : ((s.warp c.k).gangOf c.k).length ≤ ((meeting i c s).joined.filter (fun m => m.1 != c.k)).length + 1)
    (hleader : ((s.warp c.k).gangOf c.k).headD (slotOf c.k) = slotOf c.k →
      emptyCheck (s.warp c.k) c.h (mmaScalars f) [] = .go ∧ poisonScalar c.view (mmaScalars f) = false) :
    mmaEffect i c s = mmaChecks i c.k (meeting i c s) (gathered i f.a c s) s := by
  have hmet : ((meeting i c s).word != i || (meeting i c s).gang != (s.warp c.k).gangOf c.k ||
      ((s.warp c.k).gangOf c.k).any (gangGone s c.k)) = false := by
    have hgone := List.any_eq_false.2 fun n hn => Bool.eq_false_iff.1 (hlive n hn)
    rw [hword, hgang, hgone, bne_self_eq_false, bne_self_eq_false]
    rfl
  have hempty : (if (((s.warp c.k).gangOf c.k).headD (slotOf c.k) == slotOf c.k) = true then
      emptyCheck (s.warp c.k) c.h (mmaScalars f) [] else .go) = .go := by
    by_cases hself : ((s.warp c.k).gangOf c.k).headD (slotOf c.k) = slotOf c.k
    · exact (if_pos (beq_iff_eq.2 hself)).trans (hleader hself).1
    · exact if_neg (mt beq_iff_eq.1 hself)
  have hpoison : (((s.warp c.k).gangOf c.k).headD (slotOf c.k) == slotOf c.k &&
      poisonScalar c.view (mmaScalars f)) = false := by
    by_cases hself : ((s.warp c.k).gangOf c.k).headD (slotOf c.k) = slotOf c.k
    · rw [(hleader hself).2, Bool.and_false]
    · rw [beq_eq_false_iff_ne.2 hself, Bool.false_and]
  have hmeeting : ((s.core (coreOf c.k)).rendezvous.find?
      (fun r => r.leader == ((s.warp c.k).gangOf c.k).headD (slotOf c.k))).getD
        { leader := ((s.warp c.k).gangOf c.k).headD (slotOf c.k), word := i, gang := (s.warp c.k).gangOf c.k,
          joined := [] } = meeting i c s := rfl
  unfold mmaEffect
  dsimp only
  rw [hf, hacquire, hmate, Bool.or_false, if_neg Bool.false_ne_true, fragment_eq, hmeeting]
  rw [hmet, if_neg Bool.false_ne_true, hempty]
  dsimp only
  rw [hpoison, if_neg Bool.false_ne_true]
  exact if_neg (Nat.not_lt.2 hall)

end

/-- A matrix multiplication of a word whose fields are f is released with the last member of its gang. -/
theorem mma_released {i : Instr} {f : FV} (hf : mmaFields i = f)
    (hx : ∀ s, exec i s = runPass i .once (mmaEffect i) s) : TakesIf i .once (mayRelease i f) (released i f) := by
  refine takesIf_of hx ?_
  rintro c s ⟨hacquire, hmate, hword, hgang, hlive, hall, hleader, hreader, hk, hn, hdfits, hcfits, hclean, hroom⟩
  subst hf
  rw [mmaEffect_last rfl hacquire hmate hword hgang hlive hall hleader,
    mmaChecks_pass rfl rfl rfl rfl hreader hk hn hdfits hcfits hclean hroom, tget_eq_find?]
  rfl

/-! ## MGANG and MCOLM -/

theorem mgang_sets (h : Hdr) (f : FX) : TakesIf (.mgang h f) .once
    (fun c s => some1 c s ∧ (∀ x ∈ (mgangList f).map (mathsSlot s (s.warp c.k).team), x.isSome = true) ∧
      (mgangList f).Nodup ∧ (mgangList f = [] ∨ (s.warp c.k).warpid ∈ mgangList f))
    (fun c s => s.modWarp c.k (fun w =>
      { w with gang := ((mgangList f).map (mathsSlot s (s.warp c.k).team)).filterMap id })) := by
  refine takesIf_of (fun s => (rfl : execMgang h f s = _)) ?_
  rintro c s ⟨hlive, hslots, hdistinct, hself⟩
  have hgood : (((mgangList f).map (mathsSlot s (s.warp c.k).team)).any (·.isNone) || !noRepeat (mgangList f) ||
      (!(mgangList f).isEmpty && !(mgangList f).contains (s.warp c.k).warpid)) = false := by
    have hsome : ((mgangList f).map (mathsSlot s (s.warp c.k).team)).any (·.isNone) = false := by
      rw [List.any_eq_false]
      intro x hx
      simpa using Option.isSome_iff_ne_none.1 (hslots x hx)
    rw [hsome, (noRepeat_iff _).2 hdistinct]
    rcases hself with hnone | hmem
    · simp [hnone]
    · simp [hmem]
  rw [onceEffect_live hlive]
  exact if_neg (Bool.eq_false_iff.1 hgood)

theorem mcolm_sets (h : Hdr) (f : FX) : TakesIf (.mcolm h f) .once some1
    (onWarp (fun c w =>
      let mask := if f.ctl.getLsbD 2 then BitVec.ofNat 256 (c.view.svals c.e f.e0.toNat 8)
        else BitVec.allOnes 256 <<< min (c.view.sval c.e f.e0.toNat).toNat 256
      { w with mcols := tput w.mcols (f.ctl.extractLsb' 0 2).toNat mask })) := by
  refine takesIf_of (fun s => (rfl : execMcolm h f s = _)) ?_
  intro c s hlive
  rw [onceEffect_live hlive]
  dsimp only
  rw [BitVec.not_zero]
  rfl

/-- Settles O30: the two multiplications have one effect, and MGANG and MCOLM are the lemmas above. -/
theorem gangsAndMultiplications : Obligations.GangsAndMultiplications := fun h f fx =>
  ⟨mma_released rfl fun s => (rfl : execMma h f s = _), mma_released rfl fun s => (rfl : execMmap h f s = _),
    mgang_sets h fx, mcolm_sets h fx⟩

end Sys2Proof.Machine
end

section
/-!
PROOFS. An access of lanes whose accesses are all granted; the global loads, stores and atomics from it, and
GlobalLoadsComplete, GlobalStoresComplete and GlobalAtomicsComplete (R335, R338, R340, R342 to R345, R350).
-/

namespace Sys2Proof.Machine

open Sys2Proof Sys2Proof.Claims

/-! ## The lanes of a granted access -/

/-- Lanes with the translations of their addresses. -/
def placedAt (tr : A80 → LaneTrans) (xs : List (Nat × A80)) : List (Nat × A80 × LaneTrans) :=
  xs.map (fun x => (x.1, x.2, tr x.2))

/-- The gateway with room for every lane stalls none. -/
theorem gatewayStalls_room {s : State} {g : Nat} (all : Bool) {ts : List (Nat × A80 × LaneTrans)}
    (hroom : gatewayLoad s g + (ts.filter (fun x => x.2.2.isFabric)).length ≤ 8192) :
    gatewayStalls s g all ts = ts := by
  have hfits : ((ts.filter (fun x => x.2.2.isFabric)).map (·.1)).length ≤ 8192 - gatewayLoad s g := by
    rw [List.length_map]
    omega
  have hall : (all && decide (8192 - gatewayLoad s g < ((ts.filter (fun x => x.2.2.isFabric)).map (·.1)).length))
      = false := by
    rw [decide_eq_false (Nat.not_lt.2 hfits), Bool.and_false]
  unfold gatewayStalls
  dsimp only
  rw [hall, if_neg Bool.false_ne_true, List.take_of_length_le hfits]
  refine (List.map_congr_left fun x hx => if_neg ?_).trans (List.map_id ts)
  intro hstalled
  obtain ⟨hfabric, hout⟩ := Bool.and_eq_true_iff.1 hstalled
  have hin : x.1 ∈ (ts.filter (fun x => x.2.2.isFabric)).map (·.1) :=
    List.mem_map_of_mem (List.mem_filter.2 ⟨hx, hfabric⟩)
  simp [hin] at hout

/-- A lane whose promotion an access must make, or wait for, first (R366). -/
def asksPromotion (c : Ctx) (f : FM) (s : State) (t : LaneTrans) : Bool :=
  match t with
  | .go p => (isAcquire f && f.scope != 0#3 && (promoPending s p.key (coreOf c.k)).isSome) ||
    (isRelease f && f.scope == 0#3 && recordStalled s p.key (coreOf c.k))
  | _ => false

/-- The lanes of an access that wait, that fault, and that go on (R220, R366). -/
def lanesWaiting (c : Ctx) (f : FM) (s : State) (ts : List (Nat × A80 × LaneTrans)) : List (Nat × A80 × LaneTrans) :=
  ts.filter (fun x => x.2.2 == .miss || x.2.2 == .stall || asksPromotion c f s x.2.2)

def lanesFaulting (ts : List (Nat × A80 × LaneTrans)) : List (Nat × A80 × BitVec 8) :=
  ts.filterMap (fun x => match x.2.2 with | .fault z => some (x.1, x.2.1, z) | _ => none)

def lanesGoing (c : Ctx) (f : FM) (s : State) (ts : List (Nat × A80 × LaneTrans)) : List (Nat × A80 × LaneTrans) :=
  ts.filter (fun x => !asksPromotion c f s x.2.2 && match x.2.2 with | .go _ | .fabric _ _ _ => true | _ => false)

/-- A granted lane's translation: a place without a promotion to wait for, or a target over the fabric. -/
def LaneGoes (c : Ctx) (f : FM) (s : State) (t : LaneTrans) : Prop :=
  (∃ n p poa, t = .fabric n p poa) ∨ ∃ p, t = .go p ∧ asksPromotion c f s t = false

section
variable {c : Ctx} {f : FM} {a : Access} {bus : Bool} {xs : List (Nat × A80)} {tr : A80 → LaneTrans} {s : State}

theorem granted_lane (h : granted c f a bus xs tr s) {x : Nat × A80} (hx : x ∈ xs) : LaneGoes c f s (tr x.2) := by
  obtain ⟨-, -, -, -, hlanes⟩ := h
  obtain ⟨-, -, hfabric | ⟨p, hp, hacquire, hrelease⟩⟩ := hlanes x hx
  · exact .inl hfabric
  · refine .inr ⟨p, hp, ?_⟩
    rw [hp]
    refine Bool.or_eq_false_iff.2 ⟨?_, ?_⟩
    · grind
    · grind

/-- What translation gives the lanes of a granted access, none stalled by the gateway. -/
theorem granted_trans (h : granted c f a bus xs tr s) :
    gatewayStalls s (coreOf c.k) (a == .atomic) (xs.map (fun x => (x.1, x.2, laneTrans s c.k c.e x.2 a bus))) =
      placedAt tr xs := by
  obtain ⟨-, -, -, hroom, hlanes⟩ := h
  have hmap : xs.map (fun x => (x.1, x.2, laneTrans s c.k c.e x.2 a bus)) = placedAt tr xs :=
    List.map_congr_left fun x hx => by rw [(hlanes x hx).2.1]
  rw [hmap]
  refine gatewayStalls_room _ ?_
  rwa [placedAt, List.filter_map, List.length_map]

theorem mem_placedAt {y : Nat × A80 × LaneTrans} (hy : y ∈ placedAt tr xs) : ∃ x ∈ xs, y.2.2 = tr x.2 := by
  obtain ⟨x, hx, rfl⟩ := List.mem_map.1 hy
  exact ⟨x, hx, rfl⟩

/-- No granted lane waits. -/
theorem granted_waits (h : granted c f a bus xs tr s) :
    lanesWaiting c f s (placedAt tr xs) = [] := by
  rw [lanesWaiting, List.filter_eq_nil_iff]
  intro y hy
  obtain ⟨x, hx, heq⟩ := mem_placedAt hy
  rw [heq]
  obtain ⟨n, p, poa, hfabric⟩ | ⟨p, hgo, hasks⟩ := granted_lane h hx
  · rw [hfabric]
    simp [asksPromotion]
  · rw [hasks, hgo]
    simp

/-- No granted lane faults. -/
theorem granted_faults (h : granted c f a bus xs tr s) :
    lanesFaulting (placedAt tr xs) = [] := by
  rw [lanesFaulting, List.filterMap_eq_nil_iff]
  intro y hy
  obtain ⟨x, hx, heq⟩ := mem_placedAt hy
  obtain ⟨n, p, poa, hfabric⟩ | ⟨p, hgo, -⟩ := granted_lane h hx
  · rw [heq, hfabric]
  · rw [heq, hgo]

/-- Every granted lane goes on. -/
theorem granted_goes (h : granted c f a bus xs tr s) :
    lanesGoing c f s (placedAt tr xs) = placedAt tr xs := by
  rw [lanesGoing, List.filter_eq_self]
  intro y hy
  obtain ⟨x, hx, heq⟩ := mem_placedAt hy
  rw [heq]
  obtain ⟨n, p, poa, hfabric⟩ | ⟨p, hgo, hasks⟩ := granted_lane h hx
  · rw [hfabric]
    rfl
  · rw [hasks, hgo]
    rfl

/-- No granted lane meets a bad entry. -/
theorem granted_noBad (h : granted c f a bus xs tr s) :
    (placedAt tr xs).find? (fun x => match x.2.2 with | .bad _ _ => true | _ => false) = none := by
  rw [List.find?_eq_none]
  intro y hy
  obtain ⟨x, hx, heq⟩ := mem_placedAt hy
  obtain ⟨n, p, poa, hfabric⟩ | ⟨p, hgo, -⟩ := granted_lane h hx
  · rw [heq, hfabric]
    exact Bool.false_ne_true
  · rw [heq, hgo]
    exact Bool.false_ne_true

/-- Every granted lane is aligned (R337). -/
theorem granted_aligned (h : granted c f a bus xs tr s) :
    xs.filter (fun x => x.2.toNat % 2 ^ f.width.toNat != 0) = [] := by
  obtain ⟨-, -, -, -, hlanes⟩ := h
  rw [List.filter_eq_nil_iff]
  intro x hx
  obtain ⟨halign, -⟩ := hlanes x hx
  simpa using halign

/-- The accesses of lanes made between what their ORD asks of the L1. -/
def accessMade (c : Ctx) (f : FM) (one : Nat → LaneTrans → State → List (Word × Bool) × State)
    (finish : List (Nat × List (Word × Bool)) → State → State) (ts : List (Nat × A80 × LaneTrans)) (s : State) : State :=
  let r := doLanes one ts (beginRelease c f s)
  if isAcquire f then acquireL1 (coreOf c.k) (s.fused c.k) f.scope.toNat (finish r.1 r.2) else finish r.1 r.2

theorem accessMade_eq_ordered (c : Ctx) (f : FM) (one : Nat → LaneTrans → State → List (Word × Bool) × State)
    (finish : List (Nat × List (Word × Bool)) → State → State) (ts : List (Nat × A80 × LaneTrans)) (s : State) :
    accessMade c f one finish ts s = ordered c f (fun t => finish (doLanes one ts t).1 (doLanes one ts t).2) s := by
  unfold accessMade ordered beginRelease
  simp only [Bool.and_eq_true]

/-- A granted access is made: every lane in turn, between what its ORD asks of the L1 (R350). -/
theorem globalAccess_granted (once : Bool) (one : Nat → LaneTrans → State → List (Word × Bool) × State)
    (finish : List (Nat × List (Word × Bool)) → State → State) (h : granted c f a bus xs tr s) :
    globalAccess c f a bus (2 ^ f.width.toNat) xs once one finish s =
      .ok (ordered c f (fun t => finish (laneByLane one xs tr t).1 (laneByLane one xs tr t).2) s) := by
  obtain ⟨hsome, horder, hstall, -, -⟩ := id h
  have hxs : xs.isEmpty = false := List.isEmpty_eq_false_iff.2 hsome
  have hplaced : (placedAt tr xs).isEmpty = false := List.isEmpty_eq_false_iff.2 (by simpa [placedAt] using hsome)
  unfold globalAccess
  dsimp only
  rw [granted_aligned h]
  dsimp only
  rw [hxs, horder, granted_trans h]
  have hgo : ((lanesGoing c f s (placedAt tr xs)).isEmpty && !(lanesWaiting c f s (placedAt tr xs)).isEmpty) = false := by
    rw [granted_goes h, hplaced, Bool.false_and]
  have hgoes : (lanesGoing c f s (placedAt tr xs)).isEmpty = false := by
    rw [granted_goes h, hplaced]
  have hnone : (!(lanesWaiting c f s (placedAt tr xs)).isEmpty) = false := by
    rw [granted_waits h]
    rfl
  have hclean : (lanesFaulting (placedAt tr xs)).isEmpty = true := by
    rw [granted_faults h]
    rfl
  rw [if_neg Bool.false_ne_true, if_neg Bool.false_ne_true]
  split
  case h_1 hbad => exact absurd (hbad.symm.trans (granted_noBad h)) (Option.some_ne_none _)
  case h_2 =>
    rw [hstall]
    refine (if_neg (Bool.eq_false_iff.1 hgo)).trans ((if_neg (Bool.eq_false_iff.1 hgoes)).trans ?_)
    refine (if_neg (Bool.eq_false_iff.1 hnone)).trans ((if_pos hclean).trans ?_)
    show PassResult.ok (accessMade c f one finish (lanesGoing c f s (placedAt tr xs))
      ((lanesFaulting (placedAt tr xs)).foldl (fun t x => laneReads c.k c.e t x.2.1) s)) = _
    rw [granted_goes h, granted_faults h, List.foldl_nil, accessMade_eq_ordered]
    rfl

end

/-- An access with no lane ends at once (R335). -/
theorem globalAccess_none (c : Ctx) (f : FM) (a : Access) (bus : Bool) (n : Nat) (once : Bool)
    (one : Nat → LaneTrans → State → List (Word × Bool) × State)
    (finish : List (Nat × List (Word × Bool)) → State → State) (s : State) :
    globalAccess c f a bus n [] once one finish s = .ok (finish [] s) := rfl

/-! ## Addresses and data -/

/-- The addresses of the statements are the model's (R335). -/
theorem laneAddrs_eq_byLane (c : Ctx) (f : FM) (pair : Bool) (off : Int) :
    laneAddrs c f pair off = byLane c f pair off := rfl

theorem scalarAddr_eq_byScalar (c : Ctx) (f : FM) (off : Int) : scalarAddr c f off = byScalar c f off := rfl

theorem laneAddrs_none {c : Ctx} (f : FM) (pair : Bool) (off : Int) (h : c.live = 0#96) :
    laneAddrs c f pair off = [] := by
  rw [laneAddrs, h]
  rfl

/-- Data from a code's registers, lane by lane (R339). -/
theorem laneData_codes (c : Ctx) (b n l : Nat) :
    laneData ((dataCodes b n).map (c.view.src c.e)) l =
      packElems 32 ((List.range n).map (fun j => ((c.view.src c.e (if b = 643 then 643 else b + j)).word l).toNat)) := by
  unfold laneData dataCodes
  by_cases h : b = 643
  · simp only [h, if_true, List.map_replicate, List.map_const', List.length_range]
  · simp only [if_neg h, span, List.map_map]
    rfl

/-- The operands of a vector atomic (R342). -/
theorem atomOperand_eq_operandOf (c : Ctx) (f : FM) (second : Bool) :
    atomOperand c f second = operandOf c f second := by
  funext l
  unfold atomOperand operandOf
  dsimp only
  rw [laneData_codes]
  cases second <;> simp

/-! ## The instructions -/

section
variable (h : Hdr) (f : FM) (tr : A80 → LaneTrans)

/-- A vector load of a granted access. -/
theorem vectorLoad_loads {pair : Bool} {c : Ctx} {s : State}
    (hg : granted c f .read true (byLane c f pair f.offset.toInt) tr s) :
    vectorLoad f pair c s = .ok (loads c f false (byLane c f pair f.offset.toInt) tr s) :=
  globalAccess_granted false _ _ hg

theorem vectorLoad_none {pair : Bool} {c : Ctx} {s : State} (hnone : c.live = 0#96) :
    vectorLoad f pair c s = .ok (finishVector c f true (widthRegs f.width) [] s) := by
  unfold vectorLoad
  dsimp only
  rw [laneAddrs_none f pair _ hnone, globalAccess_none]

/-- A vector store of a granted access. -/
theorem vectorStore_stores {pair : Bool} {c : Ctx} {s : State}
    (hg : granted c f .write true (byLane c f pair f.offset.toInt) tr s) :
    vectorStore f pair c s = .ok (stores c f (dataOf c f) (byLane c f pair f.offset.toInt) tr s) := by
  rw [← vectorData_eq_dataOf]
  exact globalAccess_granted false _ _ hg

theorem vectorStore_none {pair : Bool} {c : Ctx} {s : State} (hnone : c.live = 0#96) :
    vectorStore f pair c s = .ok s := by
  unfold vectorStore
  rw [laneAddrs_none f pair _ hnone, globalAccess_none]

/-- A vector atomic of a granted access (R344, R345). -/
theorem vatom_steps : TakesIf (.vatom h f) .vec
    (fun c s => granted c f .atomic (busAtomic f) (byLane c f false (atomOffset f)) tr s)
    (fun c s => ordered c f (fun t =>
      let r := laneByLane (atomLane c f (atomDest f) false (operandOf c f false) (operandOf c f true))
        (byLane c f false (atomOffset f)) tr t
      finishVector c f false (widthRegs f.width) r.1 r.2) s) := by
  refine takesIf_of (fun s => (rfl : execVatom h f s = _)) fun c s hg => ?_
  rw [atomOperand_eq_operandOf, atomOperand_eq_operandOf]
  exact globalAccess_granted false _ _ hg

theorem vatom_none : TakesIf (.vatom h f) .vec (fun c _ => c.live = 0#96)
    (fun c s => finishVector c f false (widthRegs f.width) [] s) := by
  refine takesIf_of (fun s => (rfl : execVatom h f s = _)) fun c s hnone => ?_
  rw [laneAddrs_none f false _ hnone, globalAccess_none]

/-- The operand of a scalar atomic, and its swap value (R342). -/
def scalarOperand (c : Ctx) (f : FM) (second : Bool) : Nat :=
  c.view.svals c.e (if second ∧ f.atomData ≠ 643#10 then f.atomData.toNat + widthRegs f.width else f.atomData.toNat)
    (widthRegs f.width)

theorem swapCode_eq (f : FM) (n : Nat) :
    (if f.atomData.toNat = 643 then f.atomData.toNat else f.atomData.toNat + n) =
      if true = true ∧ f.atomData ≠ 643#10 then f.atomData.toNat + n else f.atomData.toNat := by
  have hzero : f.atomData.toNat = 643 ↔ f.atomData = 643#10 := BitVec.toNat_inj (y := 643#10)
  by_cases hd : f.atomData = 643#10
  · simp [hd]
  · simp [hd, hzero]

theorem satom_steps : TakesIf (.satom h f) .scal
    (fun c s => granted c f .atomic (busAtomic f) (byScalar c f (atomOffset f)) tr s)
    (fun c s => ordered c f (fun t =>
      let r := laneByLane (atomLane c f (atomDest f) true (fun _ => scalarOperand c f false)
        (fun _ => scalarOperand c f true)) (byScalar c f (atomOffset f)) tr t
      finishScalar c f (widthRegs f.width) r.1 r.2) s) := by
  refine takesIf_of (fun s => (rfl : execSatom h f s = _)) fun c s hg => ?_
  dsimp only
  rw [swapCode_eq]
  exact globalAccess_granted true _ _ hg

end

/-- Settles O25: the three loads are one access, granted; without a live lane a vector load ends at once. -/
theorem globalLoadsComplete : Obligations.GlobalLoadsComplete := fun h f tr =>
  ⟨takesIf_of (fun s => (rfl : execVld h f s = _)) fun _ _ hg => vectorLoad_loads f tr hg,
    takesIf_of (fun s => (rfl : execVldf h f s = _)) fun _ _ hg => vectorLoad_loads f tr hg,
    takesIf_of (fun s => (rfl : execSld h f s = _)) fun _ _ hg => globalAccess_granted true _ _ hg,
    takesIf_of (fun s => (rfl : execVld h f s = _)) fun _ _ hnone => vectorLoad_none f hnone,
    takesIf_of (fun s => (rfl : execVldf h f s = _)) fun _ _ hnone => vectorLoad_none f hnone⟩

/-- Settles O26: the three stores are one access, granted; without a live lane a vector store does nothing. -/
theorem globalStoresComplete : Obligations.GlobalStoresComplete := fun h f tr =>
  ⟨takesIf_of (fun s => (rfl : execVst h f s = _)) fun _ _ hg => vectorStore_stores f tr hg,
    takesIf_of (fun s => (rfl : execVstf h f s = _)) fun _ _ hg => vectorStore_stores f tr hg,
    takesIf_of (fun s => (rfl : execSst h f s = _)) fun _ _ hg => globalAccess_granted true _ _ hg,
    takesIf_of (fun s => (rfl : execVst h f s = _)) fun _ _ hnone => vectorStore_none f hnone,
    takesIf_of (fun s => (rfl : execVstf h f s = _)) fun _ _ hnone => vectorStore_none f hnone⟩

/-- Settles O27: the two atomics are one access, granted, with the operands of the statement. -/
theorem globalAtomicsComplete : Obligations.GlobalAtomicsComplete := fun h f tr =>
  ⟨vatom_steps h f tr, satom_steps h f tr, vatom_none h f⟩

end Sys2Proof.Machine
end

section
/-!
PROOFS. The loads, stores and atomics of shared memory, and SharedMemoryAccessesComplete from these (R336 to R340, R345).
-/

namespace Sys2Proof.Machine

open Sys2Proof Sys2Proof.Claims

/-- Nothing that writes shared memory waits for an XDEC (R201). -/
theorem xdecWaits_eq_false {c : Ctx} {s : State} (h : c.live = 0#96 ∨ xdecOut s c.k = false) :
    (!noLanes c.live && xdecOut s c.k) = false := by
  rcases h with h | h
  · rw [h]
    rfl
  · rw [h, Bool.and_false]

section
variable (h : Hdr) (f : FM)

theorem vldsh_reads : TakesIf (.vldsh h f) .vec
    (fun c s => sharedFree c f f.offset.toInt (s.warpLaunch c.k).info.sarea s)
    (fun c s => atShared c f f.offset.toInt
      (fun _ o t => (loadedWords (h.fmt == 0#4) (2 ^ f.width.toNat) (sharedFetch c.k o (2 ^ f.width.toNat) t).1,
        (sharedFetch c.k o (2 ^ f.width.toNat) t).2))
      (finishVector c f true (widthRegs f.width)) s) :=
  takesIf_of (fun s => (rfl : execVldsh h f s = _)) fun _ s hfree => sharedAccess_made _ f _ _ _ _ s hfree

/-- VSTSH with its data as the statements name it (R340). -/
theorem vstsh_writes : TakesIf (.vstsh h f) .vec
    (fun c s => sharedFree c f f.offset.toInt (s.warpLaunch c.k).info.shared s ∧
      (c.live = 0#96 ∨ xdecOut s c.k = false))
    (fun c s => atShared c f f.offset.toInt
      (fun l o t => ([], sharedStore (t.warp c.k).team o (leBytes (2 ^ f.width.toNat) (dataOf c f l)) t))
      (fun _ t => t) s) := by
  simp only [← vectorData_eq_dataOf]
  exact vstsh_takes h f

theorem vatomsh_steps : TakesIf (.vatomsh h f) .vec
    (fun c s => sharedFree c f (f.offset.setWidth 14).toInt (s.warpLaunch c.k).info.shared s ∧
      (c.live = 0#96 ∨ xdecOut s c.k = false))
    (fun c s => atShared c f (f.offset.setWidth 14).toInt
      (fun l o t => sharedAtom c f (!(atomDest f).isEmpty) (operandOf c f false l) (operandOf c f true l) o t)
      (finishVector c f false (widthRegs f.width)) s) := by
  refine takesIf_of (fun s => (rfl : execVatomsh h f s = _)) ?_
  rintro c s ⟨hfree, hxdec⟩
  dsimp only
  rw [xdecWaits_eq_false hxdec, if_neg Bool.false_ne_true, atomOperand_eq_operandOf, atomOperand_eq_operandOf]
  exact sharedAccess_made c f _ _ _ _ s hfree

end

/-- Settles O28: the three instructions are the lemmas above. -/
theorem sharedMemoryAccessesComplete : Obligations.SharedMemoryAccessesComplete := fun h f =>
  ⟨vldsh_reads h f, vstsh_writes h f, vatomsh_steps h f⟩

end Sys2Proof.Machine
end

section
/-!
PROOFS. A load through L1 after a store through L1 (O59): where a line stands in an L1 after a write to its table, what a
line holds after a store's bytes, and the load that finds them all dirty.
-/

namespace Sys2Proof.Machine
open Sys2Proof Sys2Proof.Claims

/-! ## A write-back leaves the cores as they were -/

@[simp] theorem countError_cores (i n p d : Nat) (s : State) : (countError i n p d s).cores = s.cores := by
  unfold countError
  split <;> rfl

@[simp] theorem countMem_cores (two k : Nat) (s : State) : (countMem two k s).cores = s.cores := by
  unfold countMem
  split
  · simp
  · split <;> simp

@[simp] theorem resolveMem_cores (k : Nat) (s : State) : (resolveMem k s).cores = s.cores := by
  unfold resolveMem
  dsimp only
  split
  · rfl
  · split
    · split <;> simp
    · simp

@[simp] theorem resolveLine_cores (k : Nat) (s : State) : (resolveLine k s).cores = s.cores :=
  foldl_keeps State.cores (f := fun t (e : Nat × BitVec 2) => resolveMem (4 * e.1) t) (fun t e => resolveMem_cores (4 * e.1) t) _ s

@[simp] theorem segPlace_cores (k cls : Nat) (pin : Bool) (owner : Nat) (tkey : BitVec 8) (s : State) :
    (segPlace k cls pin owner tkey s).cores = s.cores := by
  unfold segPlace countDie
  split
  · rfl
  · dsimp only
    split <;> split <;> (try split) <;> (try split) <;> simp

@[simp] theorem spillL2_cores (v : CacheLine) (s : State) : (spillL2 v s).cores = s.cores := by
  unfold spillL2
  split
  · rfl
  · dsimp only
    split <;> simp

@[simp] theorem l2Place_cores (k : Nat) (tkey : BitVec 8) (s : State) : (l2Place k tkey s).cores = s.cores := by
  unfold l2Place
  split
  · rfl
  · dsimp only
    split
    · rfl
    · split <;> simp

@[simp] theorem dirtyHome_cores (k : Nat) (s : State) : (dirtyHome k s).cores = s.cores := by
  unfold dirtyHome
  split
  · rfl
  · dsimp only
    split <;> rfl

@[simp] theorem touchHome_cores (k : Nat) (tkey : BitVec 8) (s : State) : (touchHome k tkey s).cores = s.cores := by
  unfold touchHome
  split
  · dsimp only
    split <;> simp
  · rfl

@[simp] theorem homeWrite_cores (k : Nat) (bs : List Byte) (s : State) : (homeWrite k bs s).cores = s.cores := by
  unfold homeWrite
  split
  · simp
  · dsimp only
    split <;> simp

@[simp] theorem writeBack_cores (g : Nat) (x : L1Line) (s : State) : (writeBack g x s).cores = s.cores := by
  unfold writeBack
  dsimp only
  split
  · rfl
  · split
    · simp
    · refine (foldl_keeps State.cores (fun t j => ?_) _ _).trans (touchHome_cores _ _ _)
      have hbytes (bs : List Nat) : (bs.foldl (fun u b => homeWrite (128 * x.tag + b) [x.byte b] u) t).cores = t.cores :=
        foldl_keeps State.cores (fun u b => homeWrite_cores _ _ u) _ _
      split
      · rfl
      · split <;> exact hbytes _

theorem writeBack_core (g h : Nat) (x : L1Line) (s : State) : (writeBack g x s).core h = s.core h := by
  rw [State.core, writeBack_cores, State.core]

/-! ## The way that holds a line -/

/-- Where the predicate of a search changes at one element alone, and holds there, that element is found if it was found
before, or if none was. -/
theorem find?_changed_at {p q : Nat → Bool} {w : Nat} (hq : q w = true) (hother : ∀ a, a ≠ w → q a = p a) :
    ∀ l : List Nat, l.find? p = some w ∨ (w ∈ l ∧ l.find? p = none) → l.find? q = some w
  | [], h => by simp at h
  | a :: l, h => by
    by_cases ha : a = w
    · rw [List.find?_cons, ha, hq]
    · have ih := find?_changed_at hq hother l
      rw [List.find?_cons, hother a ha]
      rw [List.find?_cons] at h
      cases hpa : p a with
      | true => simp [hpa, ha] at h
      | false =>
        refine ih ?_
        rw [hpa] at h
        exact h.imp_right fun ⟨hmem, hnone⟩ => ⟨(List.mem_cons.1 hmem).resolve_left (Ne.symm ha), hnone⟩

/-- A line of the key put into a way that holds it, or into one of its ways while none does, is found there. -/
theorem l1Find_tput {c c' : Core} {k w : Nat} {y : L1Line} (hc : c'.l1 = tput c.l1 w y) (htag : y.tag = k / 128)
    (h : l1Find c k = some w ∨ (w ∈ waysOf (l1Set false k) ++ waysOf (l1Set true k) ∧ l1Find c k = none)) :
    l1Find c' k = some w := by
  refine find?_changed_at ?_ (fun a ha => ?_) _ h
  · simp [hc, htag]
  · rw [hc, tget_tput_ne _ _ ha]

theorem l1Find_some {c : Core} {k w : Nat} (h : l1Find c k = some w) : ∃ x, tget c.l1 w = some x ∧ x.tag = k / 128 := by
  have hw := List.find?_some h
  split at hw
  next x hx => exact ⟨x, hx, by simpa using hw⟩
  next => cases hw

theorem circular_mem {set ptr w : Nat} {f : Nat → Bool} (h : circular set ptr f = some w) : w ∈ waysOf set := by
  obtain ⟨i, -, rfl⟩ := List.mem_map.1 (List.mem_of_find?_eq_some h)
  exact List.mem_map.2 ⟨(ptr + i) % 16, List.mem_range.2 (Nat.mod_lt _ (by decide)), rfl⟩

theorem l1Victim_mem {c : Core} {set w : Nat} (h : l1Victim c set = some w) : w ∈ waysOf set := by
  unfold l1Victim at h
  dsimp only at h
  split at h
  next v hv =>
    cases h
    exact List.mem_of_find?_eq_some hv
  next =>
    split at h
    next v hv =>
      cases h
      exact circular_mem hv
    next =>
      split at h
      next v hv =>
        cases h
        exact circular_mem hv
      next => exact circular_mem h

/-- The way that a new line gets is one of its set. -/
theorem l1Alloc_way_mem (g : Nat) (fuse : Bool) (k : Nat) (hint : BitVec 2) (s : State) :
    (l1Alloc g fuse k hint s).1 ∈ waysOf (l1Set fuse k) := by
  change (l1Victim (s.core g) (l1Set fuse k)).getD (16 * l1Set fuse k) ∈ _
  cases hv : l1Victim (s.core g) (l1Set fuse k) with
  | some w => exact l1Victim_mem hv
  | none => exact List.mem_map.2 ⟨0, by decide, rfl⟩

/-- The line that an allocation places. -/
def newLine (k : Nat) (hint : BitVec 2) : L1Line :=
  { full := false, tag := k / 128, epoch := 0#32, dirty := 0#128, hint := hint, data := 0#1024, poison := 0#32 }

theorem l1Alloc_l1 (g : Nat) (fuse : Bool) (k : Nat) (hint : BitVec 2) (s : State) :
    ((l1Alloc g fuse k hint s).2.core g).l1 = tput (s.core g).l1 (l1Alloc g fuse k hint s).1 (newLine k hint) := by
  simp only [l1Alloc, core_modCore_self]
  split
  · rw [writeBack_core, newLine]
  · rw [newLine]

/-- The way of a core's L1 in which an access finds its line, after an allocation where the L1 holds none. -/
def l1Way (g : Nat) (fuse : Bool) (k : Nat) (hint : BitVec 2) (s : State) : Nat × State :=
  match l1Find (s.core g) k with
  | some w => (w, s)
  | none => l1Alloc g fuse k hint s

theorem l1Way_of_find {g : Nat} {fuse : Bool} {k w : Nat} {hint : BitVec 2} {s : State} (h : l1Find (s.core g) k = some w) :
    l1Way g fuse k hint s = (w, s) := by
  rw [l1Way, h]

/-- An access finds a line of its key in its way. -/
theorem l1Way_found (g : Nat) (fuse : Bool) (k : Nat) (hint : BitVec 2) (s : State) :
    l1Find ((l1Way g fuse k hint s).2.core g) k = some (l1Way g fuse k hint s).1 := by
  cases hfind : l1Find (s.core g) k with
  | some w => rwa [l1Way_of_find hfind]
  | none =>
    rw [l1Way, hfind]
    refine l1Find_tput (l1Alloc_l1 g fuse k hint s) rfl (.inr ⟨?_, hfind⟩)
    have hmem := l1Alloc_way_mem g fuse k hint s
    cases fuse with
    | false => exact List.mem_append_left _ hmem
    | true => exact List.mem_append_right _ hmem

/-! ## A line's bytes and bits -/

theorem getLsbD_setBit {w : Nat} (m : BitVec w) (b i : Nat) (v : Bool) (hi : i < w) :
    (setBit m b v).getLsbD i = if i = b then v else m.getLsbD i := by
  have hone : ((1 : BitVec w) <<< b).getLsbD i = decide (i = b) := by
    simp only [BitVec.getLsbD_shiftLeft, BitVec.ofNat_eq_ofNat, BitVec.getLsbD_one]
    grind
  cases v with
  | true => simp only [setBit, if_true, BitVec.getLsbD_or, hone]; split <;> simp_all
  | false => simp only [setBit, Bool.false_eq_true, if_false, BitVec.getLsbD_and, BitVec.getLsbD_not, hone]; split <;> simp_all

theorem getLsbD_ff (i : Nat) : (0xFF#1024).getLsbD i = decide (i < 8) := by
  rw [BitVec.getLsbD_ofNat, show (0xFF : Nat) = 2 ^ 8 - 1 from rfl, Nat.testBit_two_pow_sub_one]
  grind

/-- A byte of a line after one of its bytes is replaced. -/
theorem byte_setByte (x : L1Line) {b c : Nat} (v : Byte) (hb : b < 128) (hc : c < 128) :
    (x.setByte b v).byte c = if c = b then v else x.byte c := by
  refine BitVec.eq_of_getLsbD_eq fun i hi => ?_
  have hwide : 8 * c + i < 1024 := by omega
  simp only [L1Line.byte, L1Line.setByte, fieldOf, BitVec.getLsbD_extractLsb', BitVec.getLsbD_or, BitVec.getLsbD_and,
    BitVec.getLsbD_not, BitVec.getLsbD_shiftLeft, BitVec.getLsbD_setWidth, getLsbD_ff, hi, hwide, decide_true,
    Bool.true_and]
  rcases lt_trichotomy c b with hlt | rfl | hgt
  · have hbelow : 8 * c + i < 8 * b := by omega
    simp [hbelow, hlt.ne, hi]
  · simp [hi]
    omega
  · have hfar : 8 ≤ 8 * c + i - 8 * b := by omega
    have habove : ¬ 8 * c + i < 8 * b := by omega
    simp [habove, hgt.ne', hfar, hi]

/-! ## A line after a store -/

/-- A line with byte i of a store into it. -/
def storeByte (s : State) (k : Nat) (bs : List Byte) (y : L1Line) (i : Nat) : L1Line :=
  let b := k % 128 + i
  let fresh := !y.full && !(span (b / 4 * 4) 4).any (fun c => y.dirty.getLsbD c)
  let y1 := if fresh then { y with poison := setBit y.poison (b / 4) (wordPoisoned s (k + i)) } else y
  { (y1.setByte b ((lget bs i).getD 0#8)) with dirty := setBit y1.dirty b true }

/-- A line with the poison of one of its words gone. -/
def cleanWord (y : L1Line) (a : Nat) : L1Line := { y with poison := setBit y.poison (a % 128 / 4) false }

/-- The line that a store leaves: EPOCH where it becomes dirty, the bytes, the words covered whole clean. -/
def storeLine (s : State) (g k : Nat) (bs : List Byte) (x : L1Line) : L1Line :=
  (wholeWords k bs.length).foldl cleanWord ((List.range bs.length).foldl (storeByte s k bs)
    (if x.dirty = 0#128 then { x with epoch := (s.core g).epoch } else x))

theorem l1Store_eq {g k : Nat} {fuse : Bool} {bs : List Byte} {hint : BitVec 2} {s : State} {x : L1Line}
    (h : tget ((l1Way g fuse k hint s).2.core g).l1 (l1Way g fuse k hint s).1 = some x) :
    l1Store g fuse k bs hint s = (l1Way g fuse k hint s).2.modCore g (fun c =>
      { c with l1 := tput c.l1 (l1Way g fuse k hint s).1 (storeLine (l1Way g fuse k hint s).2 g k bs x) }) := by
  change (match tget ((l1Way g fuse k hint s).2.core g).l1 (l1Way g fuse k hint s).1 with
    | none => (l1Way g fuse k hint s).2
    | some x => (l1Way g fuse k hint s).2.modCore g (fun c =>
      { c with l1 := tput c.l1 (l1Way g fuse k hint s).1 (storeLine (l1Way g fuse k hint s).2 g k bs x) })) = _
  rw [h]

theorem storeByte_tag (s : State) (k : Nat) (bs : List Byte) (y : L1Line) (i : Nat) : (storeByte s k bs y i).tag = y.tag := by
  simp only [storeByte, L1Line.setByte]
  split <;> rfl

theorem storeLine_tag (s : State) (g k : Nat) (bs : List Byte) (x : L1Line) : (storeLine s g k bs x).tag = x.tag := by
  refine (foldl_keeps L1Line.tag (f := cleanWord) (fun _ _ => rfl) _ _).trans ((foldl_keeps L1Line.tag (storeByte_tag s k bs) _ _).trans ?_)
  split <;> rfl

/-- A byte of a line, and whether it is dirty, after byte i of a store. -/
theorem storeByte_byte (s : State) (k : Nat) (bs : List Byte) (y : L1Line) {i c : Nat} (hi : k % 128 + i < 128) (hc : c < 128) :
    (storeByte s k bs y i).byte c = (if c = k % 128 + i then (lget bs i).getD 0#8 else y.byte c) ∧
    (storeByte s k bs y i).dirty.getLsbD c = (if c = k % 128 + i then true else y.dirty.getLsbD c) := by
  have hkeep (f : Bool) (m : BitVec 32) : (if f then { y with poison := m } else y).dirty = y.dirty ∧
      (if f then { y with poison := m } else y).byte c = y.byte c := by
    cases f <;> exact ⟨rfl, rfl⟩
  obtain ⟨hdirty, hbyte⟩ := hkeep (!y.full && !(span ((k % 128 + i) / 4 * 4) 4).any (fun c => y.dirty.getLsbD c))
    (setBit y.poison ((k % 128 + i) / 4) (wordPoisoned s (k + i)))
  refine ⟨(byte_setByte _ _ hi hc).trans ?_, (getLsbD_setBit _ _ _ _ hc).trans ?_⟩
  · rw [hbyte]
  · rw [hdirty]

/-- The first n bytes of a store stand in the line, dirty. -/
theorem storeBytes_dirty (s : State) (k : Nat) (bs : List Byte) (x : L1Line) :
    ∀ n, k % 128 + n ≤ 128 → ∀ i, i < n →
      ((List.range n).foldl (storeByte s k bs) x).byte (k % 128 + i) = (lget bs i).getD 0#8 ∧
      ((List.range n).foldl (storeByte s k bs) x).dirty.getLsbD (k % 128 + i) = true
  | 0, _, _, hi => absurd hi (Nat.not_lt_zero _)
  | n + 1, hn, i, hi => by
    obtain ⟨hbyte, hdirty⟩ := storeByte_byte s k bs ((List.range n).foldl (storeByte s k bs) x) (i := n)
      (c := k % 128 + i) (by omega) (by omega)
    rw [List.range_succ, List.foldl_append, List.foldl_cons, List.foldl_nil, hbyte, hdirty]
    by_cases heq : i = n
    · subst heq
      simp
    · have hne : k % 128 + i ≠ k % 128 + n := by omega
      rw [if_neg hne, if_neg hne]
      exact storeBytes_dirty s k bs x n (by omega) i (by omega)

/-- The bytes of a store stand in the line that it leaves, dirty. -/
theorem storeLine_dirty (s : State) (g k : Nat) (bs : List Byte) (x : L1Line) (hfit : k % 128 + bs.length ≤ 128) (i : Nat)
    (hi : i < bs.length) :
    (storeLine s g k bs x).byte (k % 128 + i) = (lget bs i).getD 0#8 ∧
    (storeLine s g k bs x).dirty.getLsbD (k % 128 + i) = true := by
  rw [storeLine, foldl_keeps (fun y : L1Line => y.byte (k % 128 + i)) (f := cleanWord) (fun _ _ => rfl),
    foldl_keeps L1Line.dirty (f := cleanWord) (fun _ _ => rfl)]
  exact storeBytes_dirty s k bs _ _ hfit i hi

/-- A word among those cleaned has no poison. -/
theorem cleanWords_poison {j : Nat} (hj : j < 32) : ∀ (as : List Nat) (y : L1Line),
    (y.poison.getLsbD j = false ∨ ∃ a ∈ as, a % 128 / 4 = j) → (as.foldl cleanWord y).poison.getLsbD j = false
  | [], y, h => by simpa using h
  | a :: as, y, h => by
    refine cleanWords_poison hj as (cleanWord y a) ?_
    rw [cleanWord, getLsbD_setBit _ _ _ _ hj]
    by_cases ha : j = a % 128 / 4
    · simp [ha]
    · rw [if_neg ha]
      refine h.imp_right fun ⟨a', hmem, ha'⟩ => ⟨a', (List.mem_cons.1 hmem).resolve_left ?_, ha'⟩
      rintro rfl
      exact ha ha'.symm

/-- Bytes of whole words are covered whole. -/
theorem mem_wholeWords {k n i : Nat} (hk : k % 4 = 0) (hn : n % 4 = 0) (hi : i < n) : k + 4 * (i / 4) ∈ wholeWords k n := by
  refine List.mem_filter.2 ⟨List.mem_map.2 ⟨i / 4, List.mem_range.2 (by omega), by omega⟩, decide_eq_true (by omega)⟩

theorem storeLine_poison (s : State) (g k : Nat) (bs : List Byte) (x : L1Line) (hfit : k % 128 + bs.length ≤ 128)
    (hk : k % 4 = 0) (hn : bs.length % 4 = 0) (i : Nat) (hi : i < bs.length) :
    (storeLine s g k bs x).poison.getLsbD ((k % 128 + i) / 4) = false :=
  cleanWords_poison (by omega) _ _ (.inr ⟨_, mem_wholeWords hk hn hi, by omega⟩)

/-! ## The load that finds its bytes dirty -/

/-- A load through L1 whose bytes are all dirty in the line found answers them. -/
theorem l1Load_of_dirty {g k n w : Nat} {fuse : Bool} {hint : BitVec 2} {tkey : BitVec 8} {s : State} {x : L1Line}
    (hfind : l1Find (s.core g) k = some w) (hx : tget (s.core g).l1 w = some x)
    (hdirty : ∀ i < n, x.dirty.getLsbD (k % 128 + i) = true) :
    (l1Load g fuse k n hint tkey s).1 = x.bytes (k % 128) n := by
  have hall : (span (k % 128) n).all (fun i => x.dirty.getLsbD i) = true :=
    List.all_eq_true.2 fun b hb => by
      obtain ⟨i, hi, rfl⟩ := List.mem_map.1 hb
      exact hdirty i (List.mem_range.1 hi)
  simp [l1Load, hfind, hx, hall]

/-- A load through L1 after a store through L1 answers the bytes of the line that the store left. -/
theorem l1Load_l1Store (g : Nat) (fuse : Bool) (k : Nat) (bs : List Byte) (h1 h2 : BitVec 2) (tkey : BitVec 8) (s : State)
    (hfit : k % 128 + bs.length ≤ 128) :
    ∃ t x, (l1Load g fuse k bs.length h2 tkey (l1Store g fuse k bs h1 s)).1 =
      (storeLine t g k bs x).bytes (k % 128) bs.length := by
  have hfound := l1Way_found g fuse k h1 s
  obtain ⟨x, hx, htag⟩ := l1Find_some hfound
  refine ⟨(l1Way g fuse k h1 s).2, x, ?_⟩
  rw [l1Store_eq hx]
  refine l1Load_of_dirty (w := (l1Way g fuse k h1 s).1) ?_ ?_ fun i hi => (storeLine_dirty _ _ _ _ _ hfit i hi).2
  · rw [core_modCore_self]
    exact l1Find_tput rfl ((storeLine_tag _ _ _ _ _).trans htag) (.inl hfound)
  · rw [core_modCore_self, tget_tput_self]

/-- Settles O59: the line stands in its way after the store, every byte stored dirty in it, so that the load fills
nothing; the words covered whole are the ones whose poison the store cleared. -/
theorem loadAfterCachedStore : Obligations.LoadAfterCachedStore := by
  intro g fuse p bs h1 h2 t1 t2 s hkind hpoa _ hfit
  have hlow : ¬ keyKind p.key ≥ 3 := by omega
  obtain ⟨t, x, hload⟩ := l1Load_l1Store (l1Core g fuse p.key) fuse p.key bs h1 h2 t2 s hfit
  have hread : (globalRead g fuse p bs.length (.cached h2) t2 (globalWrite g fuse p bs (.cached h1) t1 s)).1 =
      (storeLine t (l1Core g fuse p.key) p.key bs x).bytes (p.key % 128) bs.length := by
    rw [← hload]
    simp [globalRead, globalWrite, hlow, hpoa]
  dsimp only
  rw [hread]
  refine ⟨List.ext_getElem (by simp [L1Line.bytes, span]) fun i _ hi => ?_, fun hk hn b hb => ?_⟩
  · obtain ⟨hbyte, -⟩ := storeLine_dirty t (l1Core g fuse p.key) p.key bs x hfit i hi
    simpa [L1Line.bytes, span, lget_eq_getElem?, hi] using hbyte
  · obtain ⟨c, hc, rfl⟩ := List.mem_map.1 hb
    obtain ⟨i, hi, rfl⟩ := List.mem_map.1 hc
    exact storeLine_poison t _ p.key bs x hfit hk hn i (List.mem_range.1 hi)

end Sys2Proof.Machine
end


section
/-!
PROOFS. A plain store whose first lane, in passing, reorders a package table that is not in canonical form, so that its
second lane's bus address reaches another package's BAR; StoresChangeTheirBytesOnly fails in that state (R313, R314, R490).
-/

namespace Sys2Proof.Machine

open Sys2Proof Sys2Proof.Claims

/-! ## Two peers on the bus -/

/-- VST of v1 at a1 + v0, a word a lane, past L1 and without an order (R335, R340). -/
def peerFields : FM :=
  { d := 1#10, a := 705#10, x := 0#10, fn := 0#4, width := 2#3, ish := 0#3, ord := 0#3, scope := 0#3, cache := 3#2,
    offset := 0#24 }

def peerHdr : Hdr :=
  { pred := 15#4, pneg := 0#1, feb := 0#3, holdSrc := 0#2, holdEnt := 0#2, fmt := 14#4 }

def peerStore : Instr := .vst peerHdr peerFields

/-- The warp of loadWord with lanes 0 and 1, at 0x20000 and 0x20004, each with a 1 to store. -/
def withTwoLanes (w : Warp) : Warp :=
  let full (g : Nat → Word) : VReg := { VReg.zero with tag := 0#4, tpar := parityOf 0#4, words := mkWords g }
  { w with
    ws := [{ base := 0, len := 16 }]
    vregs := [(0, full (fun l => if l = 1 then 4#32 else 0#32)), (1, full (fun _ => 1#32))]
    aregs := [(1, { val := 0x20000#80, poison := false })]
    live := 3#96
    splits := [(0, { Split.free with valid := true, members := 3#96, active := 3#96 })] }

/-- Package 5, listed before package 3, has its BAR0 where package 3 has its BAR2; the end of package 3's BAR0 lies right
below. -/
def peerPackages : Tbl Package :=
  [(0, Package.reset), (5, { Package.reset with bar0 := some 0x1000004 }),
   (3, { Package.reset with bar0 := some 0xF00004, bar2 := some 0x1000004 })]

/-- The page of 0x20000 is a KIND 3 page of the bus, at 0x1000000. -/
def peerPage : TlbEntry := { asn := 1, big := false, page := 2, leaf := 0x000000000100031F#64 }

/-- The machine with the word of peerStore loaded, its issue begun and no pass made. -/
def peerState : State :=
  beginIssue 0 0 { ((loadWord State.reset 0x81F00E006C10001003000000#96).modWarp 0 withTwoLanes).modCore 0
    (fun c => { c with tlb := c.tlb ++ [peerPage] }) with pkgs := peerPackages }

def peerIssue : Issue := peerState.cur.getD (newIssue peerState 0 0)

def peerCtx : Ctx := passCtx peerState peerIssue peerStore .vec

/-- What translation gives an address there. -/
def peerTrans (va : A80) : LaneTrans := laneTrans peerState 0 0 va .write true

/-- The byte that the window of package 3's BAR2 begins with. -/
def peerByte : Nat := gkey 3 0 0

/-! ## What the store does there -/

section

set_option maxRecDepth 100000

theorem cur_peerState : peerState.cur = some peerIssue := by
  obtain ⟨q, hq⟩ := Option.isSome_iff_exists.1 (by decide : peerState.cur.isSome = true)
  rw [peerIssue, hq]
  rfl

theorem clears_peerStore : clears peerStore .vec peerState peerIssue = true := by decide

theorem readState_peerStore : readState peerStore peerState peerIssue = peerState := by decide

theorem memoryWf_peerState : peerState.memoryWf = true := by decide

theorem lanes_peerStore : byLane peerCtx peerFields false peerFields.offset.toInt = [(0, 0x20000#80), (1, 0x20004#80)] := by
  decide

/-- Lane 0 reaches the end of package 3's BAR0. -/
theorem peerTrans_first : peerTrans 0x20000#80 = .go { key := gkey 0 3 0x1000000, port := 0, poa := false, far := false } := by
  decide

theorem target_first : busTarget peerState 0 (keyAddr (gkey 0 3 0x1000000)) = some (3, false, 0xFFFFC) := by decide

/-- Lane 1 reaches the start of package 5's BAR0, as the table stands. -/
theorem peerTrans_second : peerTrans 0x20004#80 = .go { key := gkey 0 3 0x1000004, port := 0, poa := false, far := false } := by
  decide

theorem target_second : busTarget peerState 0 (keyAddr (gkey 0 3 0x1000004)) = some (5, false, 0) := by decide

theorem waits_peerStore : orderWaits (peerState.warp peerCtx.k) peerCtx.q.wb 0 0 = false ∧
    l1Stalled peerState (coreOf peerCtx.k) (peerState.fused peerCtx.k) = false ∧
    gatewayLoad peerState (coreOf peerCtx.k) = 0 ∧ peerCtx.k = 0 ∧ peerCtx.e = 0 ∧ peerIssue.warp = 0 := by decide

theorem peerByte_before : mget peerState.mem peerByte = 0#8 := by decide

/-- The store completes, and the byte of package 3's memory has changed. -/
theorem peerByte_after :
    (match exec peerStore peerState with | .next t => mget t.mem peerByte | _ => 0#8) = 1#8 := by decide

end

/-- Both lanes are aligned and translated, and nothing is to wait for. -/
theorem granted_peerStore :
    granted peerCtx peerFields .write true (byLane peerCtx peerFields false peerFields.offset.toInt) peerTrans
      peerState := by
  obtain ⟨horder, hstall, hload, hk, he, -⟩ := waits_peerStore
  have hacquire : isAcquire peerFields = false := rfl
  have hrelease : isRelease peerFields = false := rfl
  have htrans (va : A80) : laneTrans peerState peerCtx.k peerCtx.e va .write true = peerTrans va := by
    rw [hk, he, peerTrans]
  rw [lanes_peerStore]
  refine ⟨List.cons_ne_nil _ _, horder, hstall, ?_, ?_⟩
  · rw [hload, Nat.zero_add]
    exact (List.length_filter_le _ _).trans (by decide)
  · simp only [List.mem_cons, List.not_mem_nil, or_false, forall_eq_or_imp, forall_eq, htrans]
    refine ⟨⟨by decide, trivial, .inr ⟨_, peerTrans_first, ?_, ?_⟩⟩, by decide, trivial, .inr ⟨_, peerTrans_second, ?_, ?_⟩⟩ <;>
      simp [hacquire, hrelease]

/-- No lane's bus address lies in a BAR2, as the table stands. -/
theorem spared_peerByte : ∀ x ∈ byLane peerCtx peerFields false peerFields.offset.toInt, ∀ p, peerTrans x.2 = .go p →
    (keyKind p.key ≤ 2 → peerByte < p.key ∨ p.key + 2 ^ peerFields.width.toNat ≤ peerByte) ∧
    (3 ≤ keyKind p.key → ∀ r o, busTarget peerState (pkgOf (coreOf peerIssue.warp)) (keyAddr p.key) ≠
      some (r, true, o)) := by
  obtain ⟨-, -, -, -, -, hwarp⟩ := waits_peerStore
  have hpkg : pkgOf (coreOf peerIssue.warp) = 0 := by
    rw [hwarp]
    rfl
  rw [lanes_peerStore, hpkg]
  simp only [List.mem_cons, List.not_mem_nil, or_false, forall_eq_or_imp, forall_eq, peerTrans_first,
    peerTrans_second, LaneTrans.go.injEq, forall_eq', target_first, target_second]
  refine ⟨⟨fun hkind => absurd hkind (by decide), ?_⟩, fun hkind => absurd hkind (by decide), ?_⟩ <;> simp

/-- Refutes O57: the package table of the state is not in canonical form, which no hypothesis asks. Lane 0 writes package
3's BAR0, and the write of the table puts package 3 before package 5; so lane 1, whose address was in package 5's BAR0,
reaches the BAR2 of package 3 and a byte of its memory that the statement spares. -/
theorem not_storesChangeTheirBytesOnly : ¬ Obligations.StoresChangeTheirBytesOnly := by
  rintro ⟨-, -, hframe⟩
  obtain ⟨hstore, -⟩ := hframe peerHdr peerFields peerTrans peerState peerIssue cur_peerState memoryWf_peerState
  obtain ⟨t, hexec, hkept, -⟩ := hstore clears_peerStore readState_peerStore granted_peerStore
  have hsame : mget t.mem peerByte = 0#8 :=
    (hkept peerByte (.inr ⟨rfl, rfl⟩) spared_peerByte).trans peerByte_before
  have hone := peerByte_after
  rw [show exec peerStore peerState = .next t from hexec] at hone
  exact absurd (hsame.symm.trans hone) (by decide)

end Sys2Proof.Machine
end
